-- ==== Sys2Proof/Word.lean ====
section
/-!
DEFINITION. The machine's words: plain names for the widths of R1, R9, R49 and R62, nothing more.
-/
namespace Sys2Proof

/-- One byte of memory (R1). -/
abbrev Byte := BitVec 8
/-- A 16-bit half word. -/
abbrev Half := BitVec 16
/-- The word of one lane: a main register, an operand-file register, a latch (R9). -/
abbrev Word := BitVec 32
/-- A scalar register, an address, a control register (R9). -/
abbrev DWord := BitVec 64
/-- One bit for each of the 64 lanes, bit l for lane l: a predicate, cr.vmask, a span mask (R30). -/
abbrev Mask := BitVec 64
/-- One 32-bit word for each of the 64 lanes: a vector register, an accumulator row, a channel word (R237). -/
abbrev Lanes := Vector Word 64
/-- The 9-bit operand code of a slot field (R62). -/
abbrev OpCode := BitVec 9
/-- The 32 bytes of a bundle as one number, bit 0 of byte 0 lowest (R1, R49). -/
abbrev BundleWord := BitVec 256
/-- Things found by number: entries of strictly rising keys. -/
abbrev Table (α : Type) := List (Nat × α)

end Sys2Proof
end

