-- ==== Sys2Proof/Config.lean ====
section
/-!
DEFINITION. What is fixed for the machine: the figures of R9 that bound it, and the free values.
A free value is a constant with no body: no proof can see what it is, so a claim holds whatever it is.
-/
namespace Sys2Proof.Config

/-- Compute dies of a module (R9). -/
def diesPerModule : Nat := 24
/-- Cores of a die (R9). -/
def coresPerDie : Nat := 64
/-- Copies of one core in flight (R310). -/
def copySlots : Nat := 32
/-- Lines of the read-only L1 of a core: 128 KiB (R9, Table 1.1). -/
def l1Lines : Nat := 1024
/-- Operations in the matrix queue of one core (R330). -/
def matrixQueue : Nat := 8
/-- Accepted records one launch queue holds (R346). -/
def launchQueueDepth : Nat := 16
/-- Frames the beacon send queue holds (R394), and frames a member's ring keeps (R400). -/
def beaconQueue : Nat := 4096
/-- Events that wait on the module while the host's ring is full (R468). -/
def eventsWaiting : Nat := 4096
/-- Flits a link's replay buffer keeps (R372). -/
def replayBuffer : Nat := 1024
/-- Trace records a die holds before they are written (R437). -/
def tracePending : Nat := 64

/-- Free value: SHAKE256 of FIPS 202 (R409, R410, R414), which the manual names and does not give:
`shake256 message outputBytes`. -/
opaque shake256 : List Byte → Nat → List Byte

/-- Free value: the 16-byte tag of AES-256-GCM (R397, R415): `gcmTag key iv additional ciphertext`. -/
opaque gcmTag : BitVec 256 → BitVec 96 → List Byte → List Byte → BitVec 128

/-- Free value: the ciphertext of AES-256-GCM (R415): `gcmText key iv plaintext`. -/
opaque gcmText : BitVec 256 → BitVec 96 → List Byte → List Byte

/-- Free value: the Bindaran public key in the boot ROM and the trust engine (R409, R466). -/
opaque vendorKey : List Byte

/-- Free value: whether an SLH-DSA-SHAKE-256s signature checks (R409, R412, R466):
`slhVerify publicKey message`. -/
opaque slhVerify : List Byte → List Byte → Bool

/-- Free value: the 256-bit device secret that a module's power-up state gives, the same at every reset (R409), by module. -/
opaque deviceSecret : Nat → BitVec 256

/-- Free value: the public key of the SLH-DSA-SHAKE-256s pair that FIPS 205 forms (R409): `slhPublic skSeed skPrf pkSeed`. -/
opaque slhPublic : List Byte → List Byte → List Byte → List Byte

/-- Free value: the public key in the vendor certificate in the module's flash (R409), by module. -/
opaque certificateKey : Nat → List Byte

/-- Free value: the vendor certificate in the module's flash (R409), by module. -/
opaque certificate : Nat → List Byte

/-- Free value: the contents of the boot ROM (R410, R466), by module. -/
opaque bootRom : Nat → List Byte

/-- Free value: the expected measurement digests that the leader's host has supplied (R412), by leader and module. -/
opaque expectedDigests : Nat → Nat → List (List Byte)

/-- Free value: a draw of the leader's hardware entropy source (R414), applied to the state's own counter. -/
opaque entropy : Nat → List Byte

/-- Free value: the 24 transaction bytes of a flit, in the module's own arrangement (R371, R372):
`transactionBytes operation tag length status address endpoint`. -/
opaque transactionBytes : Nat → Nat → Nat → Nat → Nat → Nat → BitVec 192

/-- Free value: how many core cycles after its earliest one an event of open time comes (assumption 1), applied to the
state's own counter. -/
opaque delay : Nat → Nat

/-- Free value: a 64-bit value that the manual leaves open, such as the VA of a fault record that has no faulting address
(assumption 24), applied to the state's own counter. -/
opaque freeWord : Nat → BitVec 64

/-- Free value: a byte read from the partition of a grove that has ended (assumption 25), applied to the state's own
counter and the byte's offset. -/
opaque freeByte : Nat → Nat → BitVec 8

/-- Free value: which of the accesses that may go together do (R136, R148; assumptions 23, 51), applied to the state's own
counter and the access's number. -/
opaque gathers : Nat → Nat → Bool

/-- Free value: the line of a full L1 that a fill takes the place of (R138, assumption 123), applied to the state's own
counter. -/
opaque victim : Nat → Nat

/-- Free value: whether a word of a bundle's fetched copy serves the fetch rather than memory (R198, R455, assumption 26), by
the bough that fetches, the core cycle and the number of the 8-byte word. -/
opaque servesFetched : Nat → Nat → Nat → Bool

/-- Free value: whether a die's compatibility unit finds an uncorrectable error in its own state (R462, assumption 114), by die
and core cycle. -/
opaque compatError : Nat → Nat → Bool

/-- Free value: whether the boot ROM's read of the host's memory fails (R466), applied to the state's own counter. -/
opaque hostReadError : Nat → Bool

/-- Free value: the coolant's inlet temperature and flow as their register reads (R470), by module and core cycle. -/
opaque coolant : Nat → Nat → BitVec 64

/-- Free value: a value of a correctly rounded function (R287) that the enclosures of Elementary.lean did not
separate from a rounding boundary; none is known to reach it (assumption 12). It stands for the digit
`floor (f x / quantum)`. -/
opaque undecidedDigit : Nat → Rat → Int

end Sys2Proof.Config
end

