-- ==== Sys2Proof/Syntax.lean ====
section
/-!
DEFINITION. The instructions: one constructor of `Instr` for each row of spec/opcode_table.json.
The slot operations carry the fields of their slot (Tables 2.2, 2.4 to 2.7); the events carry what names the
agent and the choices the manual leaves open.
-/
namespace Sys2Proof

/-- Type codes of the vector slot (R54, Table 2.3), in code order. -/
inductive Ty where
  | i32 | u32 | f32 | bf2 | hf2 | h2 | uh2 | b4 | ub4 | s5 | us5 | n8 | un8 | e43 | e52 | d
  deriving DecidableEq, Repr

/-- Rounding modes of the vector slot (R53), in code order. -/
inductive Rm where
  | rne | rtz | rdn | rup
  deriving DecidableEq, Repr

/-- Cross-lane modifiers on SA (R269, Table 7.5), in code order. -/
inductive XMode where
  | none | xor | dn | up | rot | sxor | sdn | sup
  deriving DecidableEq, Repr

/-- Access sizes of the memory slot (R56, Table 6.2), in code order. -/
inductive Sz where
  | b | h | w | d | q | sb | sh | row
  deriving DecidableEq, Repr

/-- The fields of the vector slot besides OP (R53, Table 2.2). -/
structure VSlot where
  ty : Ty
  u : Bool
  dst : OpCode
  sa : OpCode
  sb : OpCode
  sc : OpCode
  pr : BitVec 4
  rm : Rm
  sat : Bool
  xlm : XMode
  xlk : BitVec 3
  imm9 : BitVec 9
  deriving DecidableEq, Repr

/-- The fields of the memory slot besides OP (R56, Table 2.4). -/
structure MSlot where
  sz : Sz
  q : Bool
  dt : OpCode
  ad : OpCode
  sb : BitVec 5
  pr : BitVec 4
  sub : BitVec 3
  kf : BitVec 5
  imm18 : BitVec 18
  deriving DecidableEq, Repr

/-- The fields of the engine slot's copy form besides E and OP (R58, Table 2.5). -/
structure CSlot where
  src : BitVec 5
  dstb : BitVec 5
  shp : BitVec 5
  kf : BitVec 5
  inc : BitVec 6
  loc : BitVec 3
  tag : BitVec 8
  fsEn : Bool
  fsSlot : BitVec 3
  low : BitVec 16
  deriving DecidableEq, Repr

/-- The fields of the engine slot's matrix form besides E and OP (R59, Table 2.6). -/
structure XSlot where
  t : BitVec 2
  fsa : BitVec 3
  fsb : BitVec 3
  fsc : BitVec 3
  ba : BitVec 5
  bb : BitVec 5
  ix : OpCode
  kf : BitVec 5
  inc : BitVec 6
  tag : BitVec 8
  mod : BitVec 8
  deriving DecidableEq, Repr

/-- The fields of the control slot besides OP (R60, Table 2.7). -/
structure KSlot where
  x : BitVec 5
  y : BitVec 5
  a : BitVec 16
  b : BitVec 16
  deriving DecidableEq, Repr

/-- One constructor for each row of spec/opcode_table.json, in the table's order.

Names of agents in the events: `m` a module number; `die` a die address {module, die[4:0]} (R368); `core` is
64 times a die address plus the core number; `grove` is 2^24 times a launch identity plus the grove's ordinal;
`b` is 16 times a grove plus the bough number; `link` names a link (State.lean); `op`, `c` and `msg` name an
operation, copy or message in flight. `value` is what the host writes to the register named. -/
inductive Instr where
  -- the vector slot, integer part (07_vector_engine.md)
  | vnop
  | add (a : VSlot) | sub (a : VSlot) | addx (a : VSlot) | mul (a : VSlot) | mad (a : VSlot)
  | min (a : VSlot) | max (a : VSlot) | abs (a : VSlot) | neg (a : VSlot) | absd (a : VSlot) | avg (a : VSlot)
  | dot4 (a : VSlot)
  | and (a : VSlot) | or (a : VSlot) | xor (a : VSlot) | andn (a : VSlot) | not (a : VSlot)
  | shl (a : VSlot) | shr (a : VSlot) | sar (a : VSlot) | rol (a : VSlot)
  | popc (a : VSlot) | clz (a : VSlot) | brev (a : VSlot) | bfe (a : VSlot) | bfi (a : VSlot) | li (a : VSlot)
  -- floating point
  | fadd (a : VSlot) | fsub (a : VSlot) | fmul (a : VSlot) | fma (a : VSlot) | fms (a : VSlot) | fnma (a : VSlot)
  | fmin (a : VSlot) | fmax (a : VSlot) | fabs (a : VSlot) | fneg (a : VSlot) | frnd (a : VSlot)
  | fclass (a : VSlot) | fscl (a : VSlot) | fdot2 (a : VSlot)
  -- comparison, selection, predicates
  | cmp (a : VSlot) | fcmp (a : VSlot) | sel (a : VSlot) | pand (a : VSlot) | por (a : VSlot) | pxor (a : VSlot)
  | pnot (a : VSlot) | pmov (a : VSlot) | ballot (a : VSlot) | pcnt (a : VSlot)
  -- cross-lane
  | xshf (a : VSlot) | xswp (a : VSlot) | xrot (a : VSlot) | xbc (a : VSlot) | xred (a : VSlot)
  | xscan (a : VSlot) | xcmpk (a : VSlot) | xseg (a : VSlot)
  -- moves and conversions
  | mov (a : VSlot) | extr (a : VSlot) | ins (a : VSlot) | cvt (a : VSlot) | pack (a : VSlot) | unpk (a : VSlot)
  | kget (a : VSlot)
  -- the function unit (08_function_unit.md)
  | mulhi (a : VSlot) | mulw (a : VSlot) | div (a : VSlot) | rem (a : VSlot)
  | rcp (a : VSlot) | rsq (a : VSlot) | sqrt (a : VSlot) | exp2 (a : VSlot) | log2 (a : VSlot)
  | sin (a : VSlot) | cos (a : VSlot) | sincos (a : VSlot)
  | ppev (a : VSlot) | qnt (a : VSlot) | dqt (a : VSlot) | rng (a : VSlot)
  -- retired operations (16_loading.md)
  | sad (a : VSlot) | mulq (a : VSlot) | fexp (a : VSlot) | crc (a : VSlot)
  -- the memory slot (06_memory_engine.md)
  | mnop
  | lds (a : MSlot) | sts (a : MSlot) | ldsu (a : MSlot) | ldr (a : MSlot) | ldg (a : MSlot) | stg (a : MSlot)
  | ldgu (a : MSlot) | lda (a : MSlot) | sta (a : MSlot) | atoms (a : MSlot) | atomg (a : MSlot) | red (a : MSlot)
  | settle (a : MSlot) | fenceAcq (a : MSlot) | fenceRel (a : MSlot) | fenceFull (a : MSlot)
  | bpub (a : MSlot) | bld (a : MSlot) | bseq (a : MSlot) | pref (a : MSlot) | l1inv (a : MSlot)
  | ppld (a : MSlot) | ppsv (a : MSlot)
  -- the engine slot, copy form (09_copy_engine.md)
  | enop
  | cpy (a : CSlot) | cpyr (a : CSlot) | cpym (a : CSlot) | cpyg (a : CSlot) | cpys (a : CSlot) | cpyf (a : CSlot)
  | cpyc (a : CSlot) | cpyx (a : CSlot) | tstamp (a : CSlot)
  -- the engine slot, matrix form (10_matrix_engine.md)
  | mma (a : XSlot) | mmag (a : XSlot) | mmas (a : XSlot) | mmags (a : XSlot) | mmap (a : XSlot)
  | mzero (a : XSlot) | mtr (a : XSlot) | mtrSp (a : XSlot) | mscl (a : XSlot)
  -- the control slot (05_sequencer.md)
  | nop
  | br (a : KSlot) | brc (a : KSlot) | bri (a : KSlot) | call (a : KSlot) | calli (a : KSlot) | callv (a : KSlot)
  | ret (a : KSlot) | loop (a : KSlot) | astep (a : KSlot) | brk (a : KSlot)
  | wait (a : KSlot) | waitany (a : KSlot) | post (a : KSlot) | postr (a : KSlot) | kset (a : KSlot)
  | bar (a : KSlot) | arrive (a : KSlot) | await (a : KSlot) | yield (a : KSlot) | refill (a : KSlot)
  | defer (a : KSlot) | exit (a : KSlot) | halt (a : KSlot) | trap (a : KSlot) | rett (a : KSlot) | ximm (a : KSlot)
  | csrr (a : KSlot) | csrw (a : KSlot) | icinv (a : KSlot) | launch (a : KSlot) | bbar (a : KSlot) | prio (a : KSlot)
  -- events of the core
  | resultWriteback (b : Nat)
  | phaseGrant (core phase : Nat)
  | priorityAging (b : Nat)
  | watchdog (b : Nat)
  | compatAccept (die : Nat)
  -- events of other engines that follow from the state
  | tstampCompletion (c : Nat) | drainTimeout (m : Nat) | logClockWrap (die : Nat) | traceRecordWrite (die : Nat)
  | firmwareVerify (m : Nat) | powerStateChange (m : Nat) | tinvDone (m : Nat)
  -- completions
  | globalLoadCompletion (op : Nat) | storeCompletion (op : Nat) | atomgCompletion (op : Nat)
  | redCompletion (op : Nat) | settleCompletion (op : Nat) | fenceCompletion (op : Nat)
  | bldCompletion (op : Nat) | bseqCompletion (op : Nat) | prefCompletion (op : Nat)
  | copyCompletion (c : Nat) | copyStart (c : Nat) | cpyxCompletion (c : Nat)
  | matrixFetchStart (core : Nat) | matrixArrayStart (core : Nat) | matrixCompletion (core : Nat)
  | icinvCompletion (op : Nat)
  /-- `lid` is the launch identity given. -/
  | launchAcceptance (msg : Nat) (lid : BitVec 32)
  | postrArrival (msg : Nat)
  /-- `err`: an uncorrectable error is found. -/
  | homeAccess (op lane : Nat) (err : Bool)
  /-- `w` names a write on its way. -/
  | replicaApply (die w : Nat)
  | channelWordArrival (msg : Nat) | channelCreditReturn (msg : Nat)
  -- the launch engine
  | itemBlockGrant (grove : Nat)
  | lqdoorSubmit (m : Nat) (value : DWord)
  | predecessorRecheck (m queue : Nat)
  | launchPlacement (m : Nat)
  | grovePlacement (m launch : Nat)
  | launchCompletion (launch : Nat)
  | preemptLaunch (m : Nat) (value : DWord) | preemptGrove (m : Nat) (value : DWord)
  | groveImageSave (grove : Nat)
  | kill (m : Nat) (value : DWord)
  | killQuiesce (launch : Nat)
  -- the fabric; `damage` is what the path does to the flit's bits
  | flitReceive (link : Nat) (damage : BitVec 2688)
  | nakReceive (link : Nat)
  | multicastForward (die entry out : Nat)
  | lossNoticeReceive (link : Nat) | restripeAfterLoss (link : Nat)
  | portDown (link : Nat) | dieLinkDown (link : Nat)
  | parkDone (link : Nat) | autoWake (link : Nat) | wakeComplete (link : Nat)
  -- the beacon; `damage` is what the medium does to the frame's bits, none when it is lost
  | bpubEnqueue (op : Nat) | bbarEnqueue (op : Nat)
  | lampFrameReceive (m : Nat) (damage : Option (BitVec 512))
  | lampTurn (m : Nat)
  | beaconFrameReceive (m : Nat) (damage : Option (BitVec 512))
  | resendFrameReceive (m : Nat) (damage : Option (BitVec 512))
  | pubFrameApply (die : Nat) | barFrameApply (die : Nat) | rekeyFrameApply (die : Nat)
  | lampRegen (m : Nat)
  -- the trust engine
  | rekeyStart (m : Nat) (slots : BitVec 64)
  | tseqExhaustion (die : Nat)
  | rekeyReceive (m : Nat) | rekeyDrainDone (m : Nat)
  -- requests to the trust engine; `peer` is the requester, `arg` what the request offers or names
  | getVersion (m peer arg : Nat) | getCapabilities (m peer arg : Nat) | negotiateAlgorithms (m peer arg : Nat)
  | getDigests (m peer arg : Nat) | getCertificate (m peer arg : Nat) | challenge (m peer arg : Nat)
  | getMeasurements (m peer arg : Nat) | keyExchange (m peer arg : Nat) | finish (m peer arg : Nat)
  | vendorDefinedRequest (m peer : Nat) | endSession (m peer : Nat)
  | lossOfLight (link group : Nat)
  -- what the surroundings do: the host's writes, pins, light, temperature
  | bcfgEnable (m : Nat) (value : DWord) | bcfgDisable (m : Nat) (value : DWord)
  | tcfgJoin (m : Nat) (value : DWord) | tcfgLeave (m : Nat) (value : DWord)
  | logctlEnable (die : Nat) (value : DWord) | logrdWrite (die : Nat) (value : DWord)
  | trctlWrite (die : Nat) (value : DWord)
  | dbgrunResume (die : Nat) (value : DWord) | dbgrunStep (die : Nat) (value : DWord) | dbgrunAll (die : Nat) (value : DWord)
  | mctlFreeze (m : Nat) (value : DWord) | freezePin (m : Nat)
  /-- `sel` names what the debug port reads out (Debug.lean). -/
  | debugPortRead (m sel : Nat)
  | mctlReset (m : Nat) (value : DWord) | pcieFundamentalReset (m : Nat)
  | fwlenWrite (m : Nat) (value : DWord)
  | mctlPreq (m : Nat) (value : DWord)
  | tigo (m : Nat) (value : DWord)
  | windowRead (m offset len : Nat)
  | windowWrite (m offset : Nat) (bytes : List Byte)
  | eqrdWrite (m : Nat) (value : DWord)
  /-- `temp` in 1/16 degree C and `power` in mW are the readings of die `die` that the step answers to. -/
  | clockStepDown (die : Nat) (temp : BitVec 16) (power : BitVec 32)
  | clockStepUp (die : Nat) (temp : BitVec 16) (power : BitVec 32)
  | thermalTrip (die : Nat) (temp : BitVec 16) (power : BitVec 32)
  | registerWrite (m offset : Nat) (value : DWord)
  | groveResumption (grove core : Nat)
  | lctlPark (link : Nat) (value : DWord) | lctlClrf (link : Nat) (value : DWord)
  | lightBack (link group : Nat)
  deriving DecidableEq, Repr

end Sys2Proof
end

