-- ==== Sys2Proof/WellFormed.lean ====
section
/-!
DEFINITION. Which instructions are well formed as syntax: those a bundle can hold (a row that shares its OP code
with another is told apart by a field) and events whose arguments lie in the ranges the manual gives the things
they name. What a bundle's fields may hold without a trap is no matter of form: Machine/Checks.lean.
-/
namespace Sys2Proof

/-- fence takes its kind from SZ (R225, Table 6.5): the three rows are one OP code with SZ 0, 1 and 2. -/
def fenceKindOk (want : Sz) (a : MSlot) : Bool := a.sz == want

/-- mtr and mtr.sp share OP 0x06 and differ by MOD[7] (R318, Table 10.1). -/
def mtrKindOk (spill : Bool) (a : XSlot) : Bool := a.mod.getLsbD 7 == spill

/-- A die address names a die 0 to 23 (R122, R368). -/
def dieOk (die : Nat) : Bool := die % 32 < 24

/-- An issue phase is 0 to 3 (R23). -/
def phaseOk (phase : Nat) : Bool := phase < 4

/-- A lane or piece of an operation is one of 64 (R204), or a row of a copy (R301). -/
def laneOk (lane : Nat) : Bool := lane < 65536

/-- A host access through the window moves 1 to 64 bytes within one 128-byte line (R473). -/
def windowOk (offset len : Nat) : Bool := 1 ≤ len && len ≤ 64 && offset % 128 + len ≤ 128 && offset < 2 ^ 26

/-- A launch queue is one of 64 (R346). -/
def queueOk (q : Nat) : Bool := q < 64

/-- A group of wavelengths is one of four (R384). -/
def groupOk (g : Nat) : Bool := g < 4

/-- Well-formed instructions. -/
def Instr.wf : Instr → Bool
  | .fenceAcq a => fenceKindOk .b a
  | .fenceRel a => fenceKindOk .h a
  | .fenceFull a => fenceKindOk .w a
  | .mtr a => mtrKindOk false a
  | .mtrSp a => mtrKindOk true a
  | .phaseGrant core phase => dieOk (core / 64) && phaseOk phase
  | .compatAccept die => dieOk die
  | .homeAccess _ lane _ => laneOk lane
  | .replicaApply die _ => dieOk die
  | .predecessorRecheck _ q => queueOk q
  | .lossOfLight _ g => groupOk g
  | .lightBack _ g => groupOk g
  | .windowRead _ off len => windowOk off len
  | .windowWrite _ off bytes => windowOk off bytes.length
  | .pubFrameApply die => dieOk die
  | .barFrameApply die => dieOk die
  | .rekeyFrameApply die => dieOk die
  | _ => true

end Sys2Proof
end

