-- ==== Sys2Proof/Decode.lean ====
section
/-!
DEFINITION. Bundles and bits: the decoder of R49 to R61 and Tables 2.1 to 2.7, 2.10 to 2.12 and 2.15, total on any
bundle and rejecting by name, and after it the encoder written from the same tables.
-/
namespace Sys2Proof

/-! ### Codes of the small fields -/

/-- Table 2.3. -/
def Ty.ofCode (c : BitVec 4) : Ty :=
  match c.toNat with
  | 0 => .i32 | 1 => .u32 | 2 => .f32 | 3 => .bf2 | 4 => .hf2 | 5 => .h2 | 6 => .uh2 | 7 => .b4
  | 8 => .ub4 | 9 => .s5 | 10 => .us5 | 11 => .n8 | 12 => .un8 | 13 => .e43 | 14 => .e52 | _ => .d

/-- Table 2.3. -/
def Ty.code : Ty → BitVec 4
  | .i32 => 0 | .u32 => 1 | .f32 => 2 | .bf2 => 3 | .hf2 => 4 | .h2 => 5 | .uh2 => 6 | .b4 => 7
  | .ub4 => 8 | .s5 => 9 | .us5 => 10 | .n8 => 11 | .un8 => 12 | .e43 => 13 | .e52 => 14 | .d => 15

/-- Table 2.2, field RM. -/
def Rm.ofCode (c : BitVec 2) : Rm :=
  match c.toNat with
  | 0 => .rne | 1 => .rtz | 2 => .rdn | _ => .rup

/-- Table 2.2, field RM. -/
def Rm.code : Rm → BitVec 2
  | .rne => 0 | .rtz => 1 | .rdn => 2 | .rup => 3

/-- Table 7.5. -/
def XMode.ofCode (c : BitVec 3) : XMode :=
  match c.toNat with
  | 0 => .none | 1 => .xor | 2 => .dn | 3 => .up | 4 => .rot | 5 => .sxor | 6 => .sdn | _ => .sup

/-- Table 7.5. -/
def XMode.code : XMode → BitVec 3
  | .none => 0 | .xor => 1 | .dn => 2 | .up => 3 | .rot => 4 | .sxor => 5 | .sdn => 6 | .sup => 7

/-- Table 6.2. -/
def Sz.ofCode (c : BitVec 3) : Sz :=
  match c.toNat with
  | 0 => .b | 1 => .h | 2 => .w | 3 => .d | 4 => .q | 5 => .sb | 6 => .sh | _ => .row

/-- Table 6.2. -/
def Sz.code : Sz → BitVec 3
  | .b => 0 | .h => 1 | .w => 2 | .d => 3 | .q => 4 | .sb => 5 | .sh => 6 | .row => 7

/-! ### Slots from bits -/

/-- What the bits of a slot stand for. `badBundle` and `badOpcode` are the rejections by name: the bundle that
holds such a slot traps ILLEGAL_BUNDLE (R51) or ILLEGAL_OPCODE (R74) when it is presented. -/
inductive SlotCode where
  | ok (i : Instr)
  | badBundle
  | badOpcode
  deriving DecidableEq, Repr

/-- Table 2.2, slot-local bits. -/
def VSlot.ofBits (w : BitVec 72) : VSlot :=
  { ty := Ty.ofCode (w.extractLsb' 59 4), u := w.getLsbD 58, dst := w.extractLsb' 49 9,
    sa := w.extractLsb' 40 9, sb := w.extractLsb' 31 9, sc := w.extractLsb' 22 9,
    pr := w.extractLsb' 18 4, rm := Rm.ofCode (w.extractLsb' 16 2), sat := w.getLsbD 15,
    xlm := XMode.ofCode (w.extractLsb' 12 3), xlk := w.extractLsb' 9 3, imm9 := w.extractLsb' 0 9 }

/-- Table 2.4, slot-local bits. -/
def MSlot.ofBits (w : BitVec 64) : MSlot :=
  { sz := Sz.ofCode (w.extractLsb' 54 3), q := w.getLsbD 53, dt := w.extractLsb' 44 9,
    ad := w.extractLsb' 35 9, sb := w.extractLsb' 30 5, pr := w.extractLsb' 26 4,
    sub := w.extractLsb' 23 3, kf := w.extractLsb' 18 5, imm18 := w.extractLsb' 0 18 }

/-- Table 2.5, slot-local bits. -/
def CSlot.ofBits (w : BitVec 64) : CSlot :=
  { src := w.extractLsb' 52 5, dstb := w.extractLsb' 47 5, shp := w.extractLsb' 42 5,
    kf := w.extractLsb' 37 5, inc := w.extractLsb' 31 6, loc := w.extractLsb' 28 3,
    tag := w.extractLsb' 20 8, fsEn := w.getLsbD 19, fsSlot := w.extractLsb' 16 3,
    low := w.extractLsb' 0 16 }

/-- Table 2.6, slot-local bits. -/
def XSlot.ofBits (w : BitVec 64) : XSlot :=
  { t := w.extractLsb' 55 2, fsa := w.extractLsb' 52 3, fsb := w.extractLsb' 49 3,
    fsc := w.extractLsb' 46 3, ba := w.extractLsb' 41 5, bb := w.extractLsb' 36 5,
    ix := w.extractLsb' 27 9, kf := w.extractLsb' 22 5, inc := w.extractLsb' 16 6,
    tag := w.extractLsb' 8 8, mod := w.extractLsb' 0 8 }

/-- Table 2.7, slot-local bits. -/
def KSlot.ofBits (w : BitVec 48) : KSlot :=
  { x := w.extractLsb' 37 5, y := w.extractLsb' 32 5, a := w.extractLsb' 16 16, b := w.extractLsb' 0 16 }

/-- Table 2.10, with the retired operations of Table 16.5. -/
def vecInstr (op : Nat) (a : VSlot) : Option Instr :=
  match op with
  | 0x001 => some (.add a)
  | 0x002 => some (.sub a)
  | 0x003 => some (.addx a)
  | 0x004 => some (.mul a)
  | 0x005 => some (.mad a)
  | 0x006 => some (.min a)
  | 0x007 => some (.max a)
  | 0x008 => some (.abs a)
  | 0x009 => some (.neg a)
  | 0x00A => some (.absd a)
  | 0x00B => some (.avg a)
  | 0x00C => some (.dot4 a)
  | 0x00D => some (.and a)
  | 0x00E => some (.or a)
  | 0x00F => some (.xor a)
  | 0x010 => some (.andn a)
  | 0x011 => some (.not a)
  | 0x012 => some (.shl a)
  | 0x013 => some (.shr a)
  | 0x014 => some (.sar a)
  | 0x015 => some (.rol a)
  | 0x016 => some (.popc a)
  | 0x017 => some (.clz a)
  | 0x018 => some (.brev a)
  | 0x019 => some (.bfe a)
  | 0x01A => some (.bfi a)
  | 0x01B => some (.li a)
  | 0x01C => some (.sad a)
  | 0x01D => some (.mulq a)
  | 0x01E => some (.fexp a)
  | 0x01F => some (.crc a)
  | 0x040 => some (.fadd a)
  | 0x041 => some (.fsub a)
  | 0x042 => some (.fmul a)
  | 0x043 => some (.fma a)
  | 0x044 => some (.fms a)
  | 0x045 => some (.fnma a)
  | 0x046 => some (.fmin a)
  | 0x047 => some (.fmax a)
  | 0x048 => some (.fabs a)
  | 0x049 => some (.fneg a)
  | 0x04A => some (.frnd a)
  | 0x04B => some (.fclass a)
  | 0x04C => some (.fscl a)
  | 0x04D => some (.fdot2 a)
  | 0x080 => some (.cmp a)
  | 0x081 => some (.fcmp a)
  | 0x082 => some (.sel a)
  | 0x083 => some (.pand a)
  | 0x084 => some (.por a)
  | 0x085 => some (.pxor a)
  | 0x086 => some (.pnot a)
  | 0x087 => some (.pmov a)
  | 0x088 => some (.ballot a)
  | 0x089 => some (.pcnt a)
  | 0x0A0 => some (.xshf a)
  | 0x0A1 => some (.xswp a)
  | 0x0A2 => some (.xrot a)
  | 0x0A3 => some (.xbc a)
  | 0x0A4 => some (.xred a)
  | 0x0A5 => some (.xscan a)
  | 0x0A6 => some (.xcmpk a)
  | 0x0A7 => some (.xseg a)
  | 0x0C0 => some (.mov a)
  | 0x0C1 => some (.extr a)
  | 0x0C2 => some (.ins a)
  | 0x0C3 => some (.cvt a)
  | 0x0C4 => some (.pack a)
  | 0x0C5 => some (.unpk a)
  | 0x0C6 => some (.kget a)
  | 0x100 => some (.mulhi a)
  | 0x101 => some (.mulw a)
  | 0x102 => some (.div a)
  | 0x103 => some (.rem a)
  | 0x104 => some (.rcp a)
  | 0x105 => some (.rsq a)
  | 0x106 => some (.sqrt a)
  | 0x107 => some (.exp2 a)
  | 0x108 => some (.log2 a)
  | 0x109 => some (.sin a)
  | 0x10A => some (.cos a)
  | 0x10B => some (.sincos a)
  | 0x10C => some (.ppev a)
  | 0x10D => some (.qnt a)
  | 0x10E => some (.dqt a)
  | 0x10F => some (.rng a)
  | _ => none

/-- Table 2.11, but for mnop and fence. -/
def memInstr (op : Nat) (a : MSlot) : Option Instr :=
  match op with
  | 0x01 => some (.lds a)
  | 0x02 => some (.sts a)
  | 0x03 => some (.ldsu a)
  | 0x04 => some (.ldr a)
  | 0x05 => some (.ldg a)
  | 0x06 => some (.stg a)
  | 0x07 => some (.ldgu a)
  | 0x08 => some (.lda a)
  | 0x09 => some (.sta a)
  | 0x10 => some (.atoms a)
  | 0x11 => some (.atomg a)
  | 0x12 => some (.red a)
  | 0x13 => some (.settle a)
  | 0x19 => some (.bpub a)
  | 0x1A => some (.bld a)
  | 0x1B => some (.bseq a)
  | 0x1C => some (.pref a)
  | 0x1D => some (.l1inv a)
  | 0x1E => some (.ppld a)
  | 0x1F => some (.ppsv a)
  | _ => none

/-- Table 2.12 with E = 0, but for enop. -/
def copyInstr (op : Nat) (a : CSlot) : Option Instr :=
  match op with
  | 0x01 => some (.cpy a)
  | 0x02 => some (.cpyr a)
  | 0x03 => some (.cpym a)
  | 0x04 => some (.cpyg a)
  | 0x05 => some (.cpys a)
  | 0x06 => some (.cpyf a)
  | 0x07 => some (.cpyc a)
  | 0x08 => some (.cpyx a)
  | 0x09 => some (.tstamp a)
  | _ => none

/-- Table 2.12 with E = 1; mtr and mtr.sp are told apart by MOD[7] (Table 10.1). -/
def matrixInstr (op : Nat) (a : XSlot) : Option Instr :=
  match op with
  | 0x00 => some (.mma a)
  | 0x01 => some (.mmag a)
  | 0x02 => some (.mmas a)
  | 0x03 => some (.mmags a)
  | 0x04 => some (.mmap a)
  | 0x05 => some (.mzero a)
  | 0x06 => some (if a.mod.getLsbD 7 then .mtrSp a else .mtr a)
  | 0x07 => some (.mscl a)
  | _ => none

/-- Table 2.15, but for nop. -/
def ctlInstr (op : Nat) (a : KSlot) : Option Instr :=
  match op with
  | 0x01 => some (.br a)
  | 0x02 => some (.brc a)
  | 0x03 => some (.bri a)
  | 0x04 => some (.call a)
  | 0x05 => some (.calli a)
  | 0x06 => some (.callv a)
  | 0x07 => some (.ret a)
  | 0x08 => some (.loop a)
  | 0x09 => some (.astep a)
  | 0x0A => some (.brk a)
  | 0x0B => some (.wait a)
  | 0x0C => some (.waitany a)
  | 0x0D => some (.post a)
  | 0x0E => some (.postr a)
  | 0x0F => some (.kset a)
  | 0x10 => some (.bar a)
  | 0x11 => some (.arrive a)
  | 0x12 => some (.await a)
  | 0x13 => some (.yield a)
  | 0x14 => some (.refill a)
  | 0x15 => some (.defer a)
  | 0x16 => some (.exit a)
  | 0x17 => some (.halt a)
  | 0x18 => some (.trap a)
  | 0x19 => some (.rett a)
  | 0x1A => some (.ximm a)
  | 0x1B => some (.csrr a)
  | 0x1C => some (.csrw a)
  | 0x1D => some (.icinv a)
  | 0x1E => some (.launch a)
  | 0x1F => some (.bbar a)
  | 0x20 => some (.prio a)
  | _ => none

/-- An operation's slot, or the rejection by name. -/
def SlotCode.ofOption : Option Instr → SlotCode
  | some i => .ok i
  | none => .badOpcode

/-- The vector slot. OP 0 is vnop, the all-zero slot (R52); with another field set that field is unused (R51). -/
def decodeVec (w : BitVec 72) : SlotCode :=
  if w.extractLsb' 63 9 = 0#9 then (if w = 0#72 then .ok .vnop else .badBundle)
  else .ofOption (vecInstr (w.extractLsb' 63 9).toNat (VSlot.ofBits w))

/-- Whether a fence uses no field it must leave zero (Table 6.1). -/
def fenceFieldsZero (a : MSlot) : Bool :=
  !a.q && a.dt == 0#9 && a.ad == 0#9 && a.sb == 0#5 && a.imm18 == 0#18

/-- fence (R225): the kind is SZ 0, 1 or 2, any other SZ traps ILLEGAL_OPCODE. -/
def decodeFence (a : MSlot) : SlotCode :=
  match a.sz with
  | .b => .ok (.fenceAcq a)
  | .h => .ok (.fenceRel a)
  | .w => .ok (.fenceFull a)
  | _ => if fenceFieldsZero a then .badOpcode else .badBundle

/-- The memory slot. -/
def decodeMem (w : BitVec 64) : SlotCode :=
  if w.extractLsb' 57 7 = 0#7 then (if w = 0#64 then .ok .mnop else .badBundle)
  else if w.extractLsb' 57 7 = 0x18#7 then decodeFence (MSlot.ofBits w)
  else .ofOption (memInstr (w.extractLsb' 57 7).toNat (MSlot.ofBits w))

/-- The engine slot with FORM 0b00: bit E selects the form (R58, R59). -/
def decodeEng (w : BitVec 64) : SlotCode :=
  if w.getLsbD 63 then .ofOption (matrixInstr (w.extractLsb' 57 6).toNat (XSlot.ofBits w))
  else if w.extractLsb' 57 6 = 0#6 then (if w = 0#64 then .ok .enop else .badBundle)
  else .ofOption (copyInstr (w.extractLsb' 57 6).toNat (CSlot.ofBits w))

/-- The control slot. -/
def decodeCtl (w : BitVec 48) : SlotCode :=
  if w.extractLsb' 42 6 = 0#6 then (if w = 0#48 then .ok .nop else .badBundle)
  else .ofOption (ctlInstr (w.extractLsb' 42 6).toNat (KSlot.ofBits w))

/-! ### Bundles from bytes -/

/-- A bundle taken apart (R49, Table 2.1). With FORM 0b01 the engine slot is not examined (R75) and `imm64`
holds bits 111:48 (R50). -/
structure Bundle where
  d : Bool
  gap : BitVec 3
  form : BitVec 2
  rsv : BitVec 2
  imm64 : DWord
  vec : SlotCode
  mem : SlotCode
  eng : SlotCode
  ctl : SlotCode
  deriving DecidableEq, Repr

/-- The all-zero bundle (R52). -/
def Bundle.empty : Bundle :=
  { d := false, gap := 0, form := 0, rsv := 0, imm64 := 0, vec := .ok .vnop, mem := .ok .mnop,
    eng := .ok .enop, ctl := .ok .nop }

/-- Table 2.1. -/
def decodeBundle (w : BundleWord) : Bundle :=
  { d := w.getLsbD 255, gap := w.extractLsb' 252 3, form := w.extractLsb' 250 2, rsv := w.extractLsb' 248 2,
    imm64 := w.extractLsb' 48 64, vec := decodeVec (w.extractLsb' 176 72), mem := decodeMem (w.extractLsb' 112 64),
    eng := if w.extractLsb' 250 2 = 0#2 then decodeEng (w.extractLsb' 48 64) else .ok .enop,
    ctl := decodeCtl (w.extractLsb' 0 48) }

/-- A number from its bytes, the first lowest (R1). -/
def natOfBytes : List Byte → Nat
  | [] => 0
  | b :: bs => b.toNat + 256 * natOfBytes bs

/-- The lowest `n` bytes of a number, lowest first (R1). -/
def bytesOfNat : Nat → Nat → List Byte
  | 0, _ => []
  | n + 1, x => BitVec.ofNat 8 x :: bytesOfNat n (x / 256)

/-- Why bytes are no bundle. -/
inductive DecodeError where
  /-- A bundle is 32 bytes (R49). -/
  | notThirtyTwoBytes
  deriving DecidableEq, Repr

/-- The decoder on bytes: total, and a bundle for any 32 bytes. -/
def decodeBytes (bs : List Byte) : Except DecodeError Bundle :=
  if bs.length = 32 then .ok (decodeBundle (BitVec.ofNat 256 (natOfBytes bs))) else .error .notThirtyTwoBytes

/-- The operations a bundle issues, in the order vector, memory, engine, control (R75). -/
def Bundle.slots (b : Bundle) : List SlotCode := [b.vec, b.mem, b.eng, b.ctl]

/-- The one operation of a bundle whose other slots are empty: the first slot that is not its empty operation. -/
def Bundle.single (b : Bundle) : Option Instr :=
  match b.slots.filter (fun c => c != .ok .vnop && c != .ok .mnop && c != .ok .enop && c != .ok .nop) with
  | [] => some .nop
  | .ok i :: _ => some i
  | _ :: _ => none

/-- What the decoder reads from an instruction whose bits are `w`: the bundle that holds these bits from bit 0 up,
every bit above `nbits` zero, laid out in its 32 bytes. -/
def decodeTableWord (nbits w : Nat) : Option Instr :=
  match decodeBytes (bytesOfNat 32 (w % 2 ^ Nat.min nbits 256)) with
  | .ok b => if b.form = 0#2 && b.rsv = 0#2 then b.single else none
  | .error _ => none

/-! ### Bits from slots: the encoder -/

/-- Table 2.2. -/
def VSlot.bits (op : BitVec 9) (a : VSlot) : BitVec 72 :=
  op ++ a.ty.code ++ BitVec.ofBool a.u ++ a.dst ++ a.sa ++ a.sb ++ a.sc ++ a.pr ++ a.rm.code ++
    BitVec.ofBool a.sat ++ a.xlm.code ++ a.xlk ++ a.imm9

/-- Table 2.4. -/
def MSlot.bits (op : BitVec 7) (a : MSlot) : BitVec 64 :=
  op ++ a.sz.code ++ BitVec.ofBool a.q ++ a.dt ++ a.ad ++ a.sb ++ a.pr ++ a.sub ++ a.kf ++ a.imm18

/-- Table 2.5. -/
def CSlot.bits (op : BitVec 6) (a : CSlot) : BitVec 64 :=
  0#1 ++ op ++ a.src ++ a.dstb ++ a.shp ++ a.kf ++ a.inc ++ a.loc ++ a.tag ++ BitVec.ofBool a.fsEn ++
    a.fsSlot ++ a.low

/-- Table 2.6. -/
def XSlot.bits (op : BitVec 6) (a : XSlot) : BitVec 64 :=
  1#1 ++ op ++ a.t ++ a.fsa ++ a.fsb ++ a.fsc ++ a.ba ++ a.bb ++ a.ix ++ a.kf ++ a.inc ++ a.tag ++ a.mod

/-- Table 2.7. -/
def KSlot.bits (op : BitVec 6) (a : KSlot) : BitVec 48 :=
  op ++ a.x ++ a.y ++ a.a ++ a.b

/-- Table 2.10: the OP code of a vector operation and its fields. -/
def vecOp : Instr → Option (Nat × VSlot)
  | .add a => some (0x001, a)
  | .sub a => some (0x002, a)
  | .addx a => some (0x003, a)
  | .mul a => some (0x004, a)
  | .mad a => some (0x005, a)
  | .min a => some (0x006, a)
  | .max a => some (0x007, a)
  | .abs a => some (0x008, a)
  | .neg a => some (0x009, a)
  | .absd a => some (0x00A, a)
  | .avg a => some (0x00B, a)
  | .dot4 a => some (0x00C, a)
  | .and a => some (0x00D, a)
  | .or a => some (0x00E, a)
  | .xor a => some (0x00F, a)
  | .andn a => some (0x010, a)
  | .not a => some (0x011, a)
  | .shl a => some (0x012, a)
  | .shr a => some (0x013, a)
  | .sar a => some (0x014, a)
  | .rol a => some (0x015, a)
  | .popc a => some (0x016, a)
  | .clz a => some (0x017, a)
  | .brev a => some (0x018, a)
  | .bfe a => some (0x019, a)
  | .bfi a => some (0x01A, a)
  | .li a => some (0x01B, a)
  | .sad a => some (0x01C, a)
  | .mulq a => some (0x01D, a)
  | .fexp a => some (0x01E, a)
  | .crc a => some (0x01F, a)
  | .fadd a => some (0x040, a)
  | .fsub a => some (0x041, a)
  | .fmul a => some (0x042, a)
  | .fma a => some (0x043, a)
  | .fms a => some (0x044, a)
  | .fnma a => some (0x045, a)
  | .fmin a => some (0x046, a)
  | .fmax a => some (0x047, a)
  | .fabs a => some (0x048, a)
  | .fneg a => some (0x049, a)
  | .frnd a => some (0x04A, a)
  | .fclass a => some (0x04B, a)
  | .fscl a => some (0x04C, a)
  | .fdot2 a => some (0x04D, a)
  | .cmp a => some (0x080, a)
  | .fcmp a => some (0x081, a)
  | .sel a => some (0x082, a)
  | .pand a => some (0x083, a)
  | .por a => some (0x084, a)
  | .pxor a => some (0x085, a)
  | .pnot a => some (0x086, a)
  | .pmov a => some (0x087, a)
  | .ballot a => some (0x088, a)
  | .pcnt a => some (0x089, a)
  | .xshf a => some (0x0A0, a)
  | .xswp a => some (0x0A1, a)
  | .xrot a => some (0x0A2, a)
  | .xbc a => some (0x0A3, a)
  | .xred a => some (0x0A4, a)
  | .xscan a => some (0x0A5, a)
  | .xcmpk a => some (0x0A6, a)
  | .xseg a => some (0x0A7, a)
  | .mov a => some (0x0C0, a)
  | .extr a => some (0x0C1, a)
  | .ins a => some (0x0C2, a)
  | .cvt a => some (0x0C3, a)
  | .pack a => some (0x0C4, a)
  | .unpk a => some (0x0C5, a)
  | .kget a => some (0x0C6, a)
  | .mulhi a => some (0x100, a)
  | .mulw a => some (0x101, a)
  | .div a => some (0x102, a)
  | .rem a => some (0x103, a)
  | .rcp a => some (0x104, a)
  | .rsq a => some (0x105, a)
  | .sqrt a => some (0x106, a)
  | .exp2 a => some (0x107, a)
  | .log2 a => some (0x108, a)
  | .sin a => some (0x109, a)
  | .cos a => some (0x10A, a)
  | .sincos a => some (0x10B, a)
  | .ppev a => some (0x10C, a)
  | .qnt a => some (0x10D, a)
  | .dqt a => some (0x10E, a)
  | .rng a => some (0x10F, a)
  | _ => none

/-- Table 2.11: the OP code of a memory operation and its fields. -/
def memOp : Instr → Option (Nat × MSlot)
  | .lds a => some (0x01, a)
  | .sts a => some (0x02, a)
  | .ldsu a => some (0x03, a)
  | .ldr a => some (0x04, a)
  | .ldg a => some (0x05, a)
  | .stg a => some (0x06, a)
  | .ldgu a => some (0x07, a)
  | .lda a => some (0x08, a)
  | .sta a => some (0x09, a)
  | .atoms a => some (0x10, a)
  | .atomg a => some (0x11, a)
  | .red a => some (0x12, a)
  | .settle a => some (0x13, a)
  | .bpub a => some (0x19, a)
  | .bld a => some (0x1A, a)
  | .bseq a => some (0x1B, a)
  | .pref a => some (0x1C, a)
  | .l1inv a => some (0x1D, a)
  | .ppld a => some (0x1E, a)
  | .ppsv a => some (0x1F, a)
  | .fenceAcq a => some (0x18, a)
  | .fenceRel a => some (0x18, a)
  | .fenceFull a => some (0x18, a)
  | _ => none

/-- Table 2.12, E = 0. -/
def copyOp : Instr → Option (Nat × CSlot)
  | .cpy a => some (0x01, a)
  | .cpyr a => some (0x02, a)
  | .cpym a => some (0x03, a)
  | .cpyg a => some (0x04, a)
  | .cpys a => some (0x05, a)
  | .cpyf a => some (0x06, a)
  | .cpyc a => some (0x07, a)
  | .cpyx a => some (0x08, a)
  | .tstamp a => some (0x09, a)
  | _ => none

/-- Table 2.12, E = 1. -/
def matrixOp : Instr → Option (Nat × XSlot)
  | .mma a => some (0x00, a)
  | .mmag a => some (0x01, a)
  | .mmas a => some (0x02, a)
  | .mmags a => some (0x03, a)
  | .mmap a => some (0x04, a)
  | .mzero a => some (0x05, a)
  | .mtr a => some (0x06, a)
  | .mtrSp a => some (0x06, a)
  | .mscl a => some (0x07, a)
  | _ => none

/-- Table 2.15. -/
def ctlOp : Instr → Option (Nat × KSlot)
  | .br a => some (0x01, a)
  | .brc a => some (0x02, a)
  | .bri a => some (0x03, a)
  | .call a => some (0x04, a)
  | .calli a => some (0x05, a)
  | .callv a => some (0x06, a)
  | .ret a => some (0x07, a)
  | .loop a => some (0x08, a)
  | .astep a => some (0x09, a)
  | .brk a => some (0x0A, a)
  | .wait a => some (0x0B, a)
  | .waitany a => some (0x0C, a)
  | .post a => some (0x0D, a)
  | .postr a => some (0x0E, a)
  | .kset a => some (0x0F, a)
  | .bar a => some (0x10, a)
  | .arrive a => some (0x11, a)
  | .await a => some (0x12, a)
  | .yield a => some (0x13, a)
  | .refill a => some (0x14, a)
  | .defer a => some (0x15, a)
  | .exit a => some (0x16, a)
  | .halt a => some (0x17, a)
  | .trap a => some (0x18, a)
  | .rett a => some (0x19, a)
  | .ximm a => some (0x1A, a)
  | .csrr a => some (0x1B, a)
  | .csrw a => some (0x1C, a)
  | .icinv a => some (0x1D, a)
  | .launch a => some (0x1E, a)
  | .bbar a => some (0x1F, a)
  | .prio a => some (0x20, a)
  | _ => none

/-- The vector slot of an operation; every operation of another slot leaves it empty (R52, R94). -/
def encodeVec (i : Instr) : BitVec 72 :=
  match vecOp i with
  | some (op, a) => a.bits (BitVec.ofNat 9 op)
  | none => 0

/-- The memory slot of an operation. -/
def encodeMem (i : Instr) : BitVec 64 :=
  match memOp i with
  | some (op, a) => a.bits (BitVec.ofNat 7 op)
  | none => 0

/-- The engine slot of an operation. -/
def encodeEng (i : Instr) : BitVec 64 :=
  match copyOp i with
  | some (op, a) => a.bits (BitVec.ofNat 6 op)
  | none =>
    match matrixOp i with
    | some (op, a) => a.bits (BitVec.ofNat 6 op)
    | none => 0

/-- The control slot of an operation. -/
def encodeCtl (i : Instr) : BitVec 48 :=
  match ctlOp i with
  | some (op, a) => a.bits (BitVec.ofNat 6 op)
  | none => 0

/-- The bundle of the four slots given, with D and GAP and FORM 0b00 (Table 2.1). -/
def bundleWord (d : Bool) (gap : BitVec 3) (v : BitVec 72) (m e : BitVec 64) (c : BitVec 48) : BundleWord :=
  BitVec.ofBool d ++ gap ++ 0#2 ++ 0#2 ++ v ++ m ++ e ++ c

/-- The bundle that holds one operation alone. -/
def encode (i : Instr) : BundleWord :=
  bundleWord false 0 (encodeVec i) (encodeMem i) (encodeEng i) (encodeCtl i)

/-- Whether an instruction is a slot operation, the kind that has an encoding. -/
def Instr.isSlotOp (i : Instr) : Bool :=
  (vecOp i).isSome || (memOp i).isSome || (copyOp i).isSome || (matrixOp i).isSome || (ctlOp i).isSome ||
    i == .vnop || i == .mnop || i == .enop || i == .nop

end Sys2Proof
end

