-- ==== Sys2Proof/Machine/Formats.lean ====
section
/-!
DEFINITION. Numbers: the formats of Table 3.1, their values, the rounding of Table 3.6 with R111 to R115 and R472,
conversion to integers (R113), the draws of R116, PNI reads (R106) and the matrix summation order (R118).
A value is exact; it is rounded once, by `roundTo`.
-/
namespace Sys2Proof.Machine

/-- The six exception flags of R117: OL 5, NV 4, DZ 3, OF 2, UF 1, NX 0. -/
abbrev Flags := BitVec 6

namespace Flag
/-- Inexact. -/
def nx : Flags := 0x01
/-- Underflow. -/
def uf : Flags := 0x02
/-- Overflow. -/
def ovf : Flags := 0x04
/-- Division by zero. -/
def dz : Flags := 0x08
/-- Invalid operation. -/
def nv : Flags := 0x10
/-- OUTLIER_LOST (R110). -/
def ol : Flags := 0x20
end Flag

/-- A value of R99: a NaN with its mantissa aligned at the most significant end of 23 bits (R103), an infinity, a
signed zero, or a nonzero real. -/
inductive FVal where
  | nan (neg : Bool) (m : BitVec 23)
  | inf (neg : Bool)
  | zero (neg : Bool)
  | fin (q : Rat)
  deriving DecidableEq, Repr

/-- The floating-point formats of Table 3.1. -/
inductive FFmt where
  | fp32 | fp16 | bf16 | e43 | e52 | e21 | e80
  deriving DecidableEq, Repr

/-- Mantissa bits, mbits of Table 3.6. -/
def FFmt.mbits : FFmt → Nat
  | .fp32 => 23 | .fp16 => 10 | .bf16 => 7 | .e43 => 3 | .e52 => 2 | .e21 => 1 | .e80 => 0
/-- Exponent bits. -/
def FFmt.ebits : FFmt → Nat
  | .fp32 => 8 | .fp16 => 5 | .bf16 => 8 | .e43 => 4 | .e52 => 5 | .e21 => 2 | .e80 => 8
/-- Bias. -/
def FFmt.bias : FFmt → Nat
  | .fp32 => 127 | .fp16 => 15 | .bf16 => 127 | .e43 => 7 | .e52 => 15 | .e21 => 1 | .e80 => 127
/-- Bits of a code. -/
def FFmt.width : FFmt → Nat
  | .fp32 => 32 | .fp16 => 16 | .bf16 => 16 | .e43 => 8 | .e52 => 8 | .e21 => 4 | .e80 => 8
/-- emin of Table 3.6: the exponent of the smallest normal (R472 for E8M0). -/
def FFmt.emin : FFmt → Int
  | .fp32 => -126 | .fp16 => -14 | .bf16 => -126 | .e43 => -6 | .e52 => -14 | .e21 => 0 | .e80 => -127
/-- Formats whose all-ones exponent holds the infinities and NaN as IEEE 754 has them. -/
def FFmt.ieee : FFmt → Bool
  | .fp32 | .fp16 | .bf16 | .e52 => true
  | .e43 | .e21 | .e80 => false

/-- 2^k. -/
def pow2 (k : Int) : Rat :=
  match k with
  | .ofNat n => ((2 ^ n : Nat) : Rat)
  | .negSucc n => mkRat 1 (2 ^ (n + 1))

/-- floor(log2 q) of a positive q. -/
def floorLog2 (q : Rat) : Int :=
  let k : Int := (Nat.log2 q.num.natAbs : Int) - (Nat.log2 q.den : Int)
  if pow2 k ≤ q then k else k - 1

/-- |q|. -/
def ratAbs (q : Rat) : Rat := if q < 0 then -q else q

/-- The largest finite value (Table 3.1). -/
def FFmt.maxFinite : FFmt → Rat
  | .fp32 => (2 - pow2 (-23)) * pow2 127
  | .fp16 => 65504
  | .bf16 => (2 - pow2 (-7)) * pow2 127
  | .e43 => 448
  | .e52 => 57344
  | .e21 => 6
  | .e80 => pow2 127

/-- Sign bit and magnitude of a code. -/
def FFmt.withSign (f : FFmt) (neg : Bool) (mag : Nat) : Nat :=
  if neg then 2 ^ (f.width - 1) + mag else mag

/-- A nonzero real from its sign and magnitude. -/
def FVal.ofMag (neg : Bool) (q : Rat) : FVal :=
  if q = 0 then .zero neg else .fin (if neg then -q else q)

/-- val(b, f): the value of a code (R99, R100). E2M1 code 0b1000 is the escape and has no value; the callers that
read E2M1 test for it first (R110), and here it reads as −0. -/
def valOf (f : FFmt) (code : Nat) : FVal :=
  match f with
  | .e80 => if code % 256 = 255 then .nan false 0x400000 else .fin (pow2 ((code % 256 : Nat) - 127))
  | _ =>
    let neg := code.testBit (f.width - 1)
    let e := code / 2 ^ f.mbits % 2 ^ f.ebits
    let m := code % 2 ^ f.mbits
    if f.ieee && e = 2 ^ f.ebits - 1 then
      if m = 0 then .inf neg else .nan neg (BitVec.ofNat 23 (m * 2 ^ (23 - f.mbits)))
    else if f = .e43 && e = 15 && m = 7 then .nan neg (BitVec.ofNat 23 (m * 2 ^ 20))
    else if e = 0 then .ofMag neg ((m : Rat) * pow2 (f.emin - f.mbits))
    else .ofMag neg (((2 ^ f.mbits + m : Nat) : Rat) * pow2 ((e : Int) - f.bias - f.mbits))

/-- The canonical NaN of R103. -/
def FVal.canonical : FVal := .nan false 0x400000
/-- Whether a value is a NaN. -/
def FVal.isNan : FVal → Bool
  | .nan _ _ => true
  | _ => false
/-- Whether a value is a signalling NaN: its quiet bit is clear (R103). -/
def FVal.isSignalling : FVal → Bool
  | .nan _ m => !m.getLsbD 22
  | _ => false
/-- Whether a value is an infinity. -/
def FVal.isInf : FVal → Bool
  | .inf _ => true
  | _ => false
/-- Whether a value is a zero of either sign. -/
def FVal.isZero : FVal → Bool
  | .zero _ => true
  | _ => false
/-- The sign of a value. -/
def FVal.isNeg : FVal → Bool
  | .nan n _ => n
  | .inf n => n
  | .zero n => n
  | .fin q => q < 0

/-- NV when some input is a signalling NaN (R103). -/
def sigFlags (xs : List FVal) : Flags := if xs.any FVal.isSignalling then Flag.nv else 0

/-- nan_out(f) of a NaN input: sign kept, mantissa aligned at the top, quiet bit set; E4M3 by sign; E2M1 and E8M0
have no such NaN and raise NV (R103, R472). -/
def nanCode (f : FFmt) (neg : Bool) (m : BitVec 23) : Nat × Flags :=
  match f with
  | .e43 => (f.withSign neg 0x7F, 0)
  | .e21 => (0, Flag.nv)
  | .e80 => (0xFF, Flag.nv)
  | _ => (f.withSign neg ((2 ^ f.ebits - 1) * 2 ^ f.mbits +
      (m.toNat / 2 ^ (23 - f.mbits) ||| 2 ^ (f.mbits - 1))), 0)

/-- The rounding modes: those of an RM field and of a slot's RND (R53, R107, R111, R113). Stochastic rounding
carries its draw (R115). -/
inductive RMode where
  | rne | rtz | rdn | rup
  | sr (draw : BitVec 64)
  | halfup | floor
  deriving DecidableEq, Repr

/-- The choice of the upper neighbour, by the fraction in (0, 1) of the way up (R111, R113, R115). -/
def RMode.picksUpper (rm : RMode) (neg lowerEven : Bool) (frac : Rat) : Bool :=
  match rm with
  | .rne => decide (frac > 1 / 2) || (decide (frac = 1 / 2) && !lowerEven)
  | .rtz => neg
  | .rdn => false
  | .rup => true
  | .sr z => decide (((z >>> 40).toNat : Int) < (frac * ((2 ^ 24 : Nat) : Rat)).floor)
  | .halfup => decide (frac ≥ 1 / 2)
  | .floor => false

/-- The code of the infinity of a format that has one. -/
def FFmt.infCode (f : FFmt) (neg : Bool) : Nat := f.withSign neg ((2 ^ f.ebits - 1) * 2 ^ f.mbits)

/-- The code of the largest finite magnitude. -/
def FFmt.maxCode (f : FFmt) (neg : Bool) : Nat :=
  match f with
  | .e43 => f.withSign neg 0x7E
  | .e21 => f.withSign neg 7
  | .e80 => 0xFE
  | _ => f.withSign neg ((2 ^ f.ebits - 1) * 2 ^ f.mbits - 1)

/-- The overflow results of R112. -/
def overflowCode (f : FFmt) (rm : RMode) (sat neg : Bool) : Nat :=
  match f with
  | .e43 => if sat then f.maxCode neg else f.withSign neg 0x7F
  | .e21 => f.maxCode neg
  | .e80 => if sat then 0xFE else 0xFF
  | _ =>
    if sat then f.maxCode neg
    else match rm with
      | .rtz => f.maxCode neg
      | .rdn => if neg then f.infCode true else f.maxCode false
      | .rup => if neg then f.maxCode true else f.infCode false
      | _ => f.infCode neg

/-- encode(y, f) of a representable y of magnitude `q` at most the largest finite; −0 into E2M1 is 0b0000 (R100). -/
def encodeMag (f : FFmt) (neg : Bool) (q : Rat) : Nat :=
  match f with
  | .e80 => (floorLog2 q + 127).toNat
  | _ =>
    if q = 0 then (if f = .e21 then 0 else f.withSign neg 0)
    else
      let e := floorLog2 q
      if e < f.emin then f.withSign neg (q / pow2 (f.emin - f.mbits)).floor.toNat
      else
        let m := (q / pow2 (e - f.mbits)).floor.toNat - 2 ^ f.mbits
        f.withSign neg ((e + f.bias).toNat * 2 ^ f.mbits + m)

/-- Table 3.6 for a nonzero real, with R111, R112, R114. -/
def roundReal (f : FFmt) (rm : RMode) (sat : Bool) (x : Rat) : Nat × Flags :=
  let neg : Bool := x < 0
  let e := max (floorLog2 (ratAbs x)) f.emin
  let quantum := pow2 (e - f.mbits)
  let n := (x / quantum).floor
  let frac := x / quantum - n
  let even := if f = .e80 then (e + 127) % 2 = 0 else n % 2 = 0
  let y : Rat := if frac = 0 then x else if rm.picksUpper neg even frac then (n + 1 : Int) * quantum else (n : Int) * quantum
  let nx : Flags := if frac = 0 then 0 else if ratAbs x < pow2 f.emin then Flag.nx ||| Flag.uf else Flag.nx
  if ratAbs y > f.maxFinite then (overflowCode f rm sat neg, nx ||| Flag.ovf ||| Flag.nx)
  else (encodeMag f neg (ratAbs y), nx)

/-- Rounding into E8M0 (R472), where zeros, negative values, NaN and values below 2^−127 are decided first. -/
def roundE80 (rm : RMode) (sat : Bool) (x : FVal) : Nat × Flags :=
  match x with
  | .nan _ _ => (0xFF, Flag.nv)
  | .zero _ => (0xFF, Flag.nv)
  | .inf neg => if neg then (0xFF, Flag.nv) else (overflowCode .e80 rm sat false, Flag.ovf ||| Flag.nx)
  | .fin q =>
    if q < 0 then (0xFF, Flag.nv)
    else if q < pow2 (-127) then (0, Flag.uf ||| Flag.nx)
    else roundReal .e80 rm sat q

/-- round(x, rm, f) under the SAT bit given (Table 3.6, R103, R112). -/
def roundTo (f : FFmt) (rm : RMode) (sat : Bool) (x : FVal) : Nat × Flags :=
  if f = .e80 then roundE80 rm sat x
  else match x with
    | .nan neg m => ((nanCode f neg m).1, (nanCode f neg m).2 ||| sigFlags [.nan neg m])
    | .inf neg => if f.ieee then (f.infCode neg, 0) else (overflowCode f rm sat neg, Flag.ovf ||| Flag.nx)
    | .zero neg => (encodeMag f neg 0, 0)
    | .fin q => roundReal f rm sat q

/-- The integer that rounding by `rm` gives, and whether it was inexact. -/
def roundInt (rm : RMode) (q : Rat) : Int × Bool :=
  let n := q.floor
  let frac := q - n
  if frac = 0 then (n, false)
  else (if rm.picksUpper (q < 0) (n % 2 = 0) frac then n + 1 else n, true)

/-- toint(x, ty, rm) with the range of ty (R113). -/
def toInt (lo hi : Int) (rm : RMode) (x : FVal) : Int × Flags :=
  match x with
  | .nan _ _ => (0, Flag.nv)
  | .zero _ => (0, 0)
  | .inf neg => (if neg then lo else hi, Flag.nv)
  | .fin q =>
    let r := roundInt rm q
    if r.1 < lo then (lo, Flag.nv) else if r.1 > hi then (hi, Flag.nv)
    else (r.1, if r.2 then Flag.nx else 0)

/-- A real as a value, zero taking the sign given. -/
def FVal.ofRat (q : Rat) (negZero : Bool) : FVal := if q = 0 then .zero negZero else .fin q

/-- An integer as a value. -/
def FVal.ofInt (n : Int) : FVal := FVal.ofRat n false

/-- −x. -/
def FVal.negate : FVal → FVal
  | .nan n m => .nan (!n) m
  | .inf n => .inf (!n)
  | .zero n => .zero (!n)
  | .fin q => .fin (-q)

/-- The real of a value that is neither infinite nor NaN. -/
def FVal.real : FVal → Rat
  | .fin q => q
  | _ => 0

/-- The exact product of two values that are no NaN; 0 × inf is the canonical NaN, for which the caller raises NV. -/
def FVal.times (x y : FVal) : FVal :=
  match x, y with
  | .nan n m, _ => .nan n m
  | _, .nan n m => .nan n m
  | .inf _, .zero _ => FVal.canonical
  | .zero _, .inf _ => FVal.canonical
  | .inf a, y => .inf (a != y.isNeg)
  | x, .inf b => .inf (x.isNeg != b)
  | .zero a, y => .zero (a != y.isNeg)
  | x, .zero b => .zero (x.isNeg != b)
  | .fin p, .fin q => .fin (p * q)

/-- The exact sum of terms, of which a NaN is an invalid product (R249): opposite infinities and NaN give the
canonical NaN with NV; an exact zero sum is −0 only under rdn or when every term is −0. -/
def exactSum (rdn : Bool) (terms : List FVal) : FVal × Flags :=
  if terms.any FVal.isNan then (FVal.canonical, Flag.nv)
  else if terms.any (fun t => t == .inf false) && terms.any (fun t => t == .inf true) then (FVal.canonical, Flag.nv)
  else if terms.any (fun t => t == .inf false) then (.inf false, 0)
  else if terms.any (fun t => t == .inf true) then (.inf true, 0)
  else
    let q := (terms.map FVal.real).foldl (· + ·) 0
    if q ≠ 0 then (.fin q, 0)
    else if terms.all (fun t => t == .zero true) then (.zero true, 0)
    else if terms.all (fun t => t == .zero false) then (.zero false, 0)
    else (.zero rdn, 0)

/-- R249 with R103: the first NaN of the inputs, in the order given, or the exact sum of the terms. -/
def nanOrSum (rdn : Bool) (inputs terms : List FVal) : FVal × Flags :=
  match inputs.find? FVal.isNan with
  | some n => (n, sigFlags inputs)
  | none => exactSum rdn terms

/-- Rounding what an operation computed, its own flags joined. -/
def roundWith (f : FFmt) (rm : RMode) (sat : Bool) (x : FVal × Flags) : Nat × Flags :=
  let r := roundTo f rm sat x.1
  (r.1, r.2 ||| x.2)

/-- Order of two values that are no NaN; the zeros are equal. -/
def FVal.lt (x y : FVal) : Bool :=
  match x, y with
  | .inf a, .inf b => a && !b
  | .inf a, _ => a
  | _, .inf b => !b
  | x, y => decide (x.real < y.real)

/-- IEEE less or equal, false when either is a NaN (R290). -/
def FVal.le (x y : FVal) : Bool := !x.isNan && !y.isNan && !y.lt x

/-- Order with −0 < +0 (R250). -/
def FVal.ltSigned (x y : FVal) : Bool := x.lt y || (x == .zero true && y == .zero false)

/-- floor(log2 |x|) compared through: |x| as a value's magnitude, an infinity above every real. -/
def FVal.absLt (x y : FVal) : Bool :=
  match x, y with
  | .inf _, _ => false
  | _, .inf _ => true
  | x, y => decide (ratAbs x.real < ratAbs y.real)

/-- The quotient of R292: exact; division by zero gives ±inf with DZ, 0/0 and inf/inf NaN with NV. -/
def FVal.over (x y : FVal) : FVal × Flags :=
  match x, y with
  | .nan n m, y => (.nan n m, sigFlags [.nan n m, y])
  | x, .nan n m => (.nan n m, sigFlags [x, .nan n m])
  | .inf _, .inf _ => (FVal.canonical, Flag.nv)
  | .zero _, .zero _ => (FVal.canonical, Flag.nv)
  | .inf a, .zero b => (.inf (a != b), Flag.dz)
  | .inf a, y => (.inf (a != y.isNeg), 0)
  | x, .inf b => (.zero (x.isNeg != b), 0)
  | .zero a, y => (.zero (a != y.isNeg), 0)
  | .fin p, .zero b => (.inf (decide (p < 0) != b), Flag.dz)
  | .fin p, .fin q => (.fin (p / q), 0)

/-- splitmix64 of R116. -/
def splitmix64 (z0 : BitVec 64) : BitVec 64 :=
  let z := z0 + 0x9E3779B97F4A7C15#64
  let z := (z ^^^ (z >>> 30)) * 0xBF58476D1CE4E5B9#64
  let z := (z ^^^ (z >>> 27)) * 0x94D049BB133111EB#64
  z ^^^ (z >>> 31)

/-- draw(item, lane, pc, sub) of R116 under a launch's seed. -/
def drawOf (seed : DWord) (item : Word) (lane : Nat) (pc : DWord) (sub : Nat) : BitVec 64 :=
  splitmix64 (splitmix64 (seed ^^^ pc) ^^^ item.setWidth 64 ^^^ (BitVec.ofNat 64 lane <<< 32) ^^^
    (BitVec.ofNat 64 sub <<< 39))

/-- pni_read of R106; `bits` lists bit(0), bit(1), …, plane 0 first, B of them. -/
def pniRead (bits : List Bool) (p : Nat) (halfup : Bool) : Int :=
  let bit (i : Nat) : Int := if bits.getD i false then 1 else 0
  let t := (List.range p).foldl (fun t i => if i = 0 then -(bit 0 * 2 ^ (p - 1)) else t + bit i * 2 ^ (p - 1 - i)) 0
  if halfup && p < bits.length then min (t + bit p) (2 ^ (p - 1) - 1) else t

/-- The bits of a two's-complement code of width `b`, plane 0 (the sign) first (R106). -/
def planeBits (b code : Nat) : List Bool := (List.range b).map fun i => code.testBit (b - 1 - i)

/-! ### Element formats of slots -/

/-- The element formats that a bound slot names (Table 3.4). -/
inductive ElemFmt where
  | flt (f : FFmt)
  | int (w : Nat) (signed : Bool)
  | pni
  deriving DecidableEq, Repr

/-- FMT of Table 3.4; none for a reserved or unbound code. -/
def ElemFmt.ofCode (c : Nat) : Option ElemFmt :=
  match c with
  | 0x00 => some (.flt .fp32) | 0x01 => some (.flt .bf16) | 0x02 => some (.flt .fp16) | 0x03 => some (.flt .e43)
  | 0x04 => some (.flt .e52) | 0x05 => some (.flt .e21) | 0x06 => some (.flt .e80) | 0x08 => some (.int 32 true)
  | 0x09 => some (.int 16 true) | 0x0A => some (.int 8 true) | 0x0B => some (.int 6 true)
  | 0x0C => some (.int 4 true) | 0x0D => some (.int 8 false) | 0x0E => some (.int 4 false) | 0x10 => some .pni
  | _ => none

/-- A format slot (Table 3.3). -/
structure FSlot where
  raw : DWord
  deriving DecidableEq, Repr

namespace FSlot
/-- FMT. -/
def fmt (s : FSlot) : Nat := (s.raw.extractLsb' 0 8).toNat
/-- SCALE. -/
def scale (s : FSlot) : Nat := (s.raw.extractLsb' 8 2).toNat
/-- PLANES. -/
def planes (s : FSlot) : Nat := (s.raw.extractLsb' 16 4).toNat
/-- SIDE. -/
def side (s : FSlot) : Nat := (s.raw.extractLsb' 24 8).toNat
/-- RND. -/
def rnd (s : FSlot) : Nat := (s.raw.extractLsb' 32 2).toNat
/-- SAT. -/
def sat (s : FSlot) : Bool := s.raw.getLsbD 40
/-- The element format. -/
def elem (s : FSlot) : Option ElemFmt := ElemFmt.ofCode s.fmt
end FSlot

/-- The range of an integer element. -/
def intRange (w : Nat) (signed : Bool) : Int × Int :=
  if signed then (-(2 ^ (w - 1)), 2 ^ (w - 1) - 1) else (0, 2 ^ w - 1)

/-- The integer that a code of width `w` stands for. -/
def intVal (w : Nat) (signed : Bool) (code : Nat) : Int :=
  let c := code % 2 ^ w
  if signed && c ≥ 2 ^ (w - 1) then (c : Int) - 2 ^ w else c

/-- The code of an integer in width `w`, wrapped. -/
def intCode (w : Nat) (x : Int) : Nat := (x % (2 ^ w : Int)).toNat

/-- RND of a slot as a mode (Table 3.3, R107): PNI has 0 half-up, 1 floor. -/
def FSlot.mode (s : FSlot) (draw : BitVec 64) : RMode :=
  if s.fmt = 0x10 then (if s.rnd = 0 then .halfup else .floor)
  else match s.rnd with
    | 0 => .rne
    | 1 => .rtz
    | _ => .sr draw

/-- conv of R292 and the narrowing of copies and mscl: a value into the slot's element format under its RND and SAT. -/
def FSlot.conv (s : FSlot) (draw : BitVec 64) (x : FVal) : Nat × Flags :=
  match s.elem with
  | some (.flt f) => roundTo f (s.mode draw) s.sat x
  | some (.int w sg) =>
    let r := toInt (intRange w sg).1 (intRange w sg).2 (s.mode draw) x
    (intCode w r.1, r.2)
  | some .pni =>
    let r := toInt (intRange s.planes true).1 (intRange s.planes true).2 (s.mode draw) x
    (intCode s.planes r.1, r.2)
  | none => (0, 0)

/-- The unscaled value of a code that is no escape, `p` planes of a PNI code being read (R106, R110). -/
def FSlot.codeVal (s : FSlot) (p code : Nat) : FVal :=
  match s.elem with
  | some (.flt f) => valOf f code
  | some (.int w sg) => FVal.ofInt (intVal w sg code)
  | some .pni => FVal.ofInt (pniRead (planeBits s.planes code) p (s.rnd = 0))
  | none => .zero false

/-- The side information of one element (R109): nothing, the block's record, or an FP32 factor. -/
inductive Side where
  | none
  | block (sidew : Word) (scale8 : Byte)
  | factor (s : Word)
  deriving DecidableEq, Repr

/-- elem_value of R110 with the side information at hand; `escapesBefore` is j. The flags are OL and NV. -/
def elemValue (s : FSlot) (p code escapesBefore : Nat) (side : Side) : FVal × Flags :=
  match s.fmt == 0x05 && code % 16 == 8, side with
  | true, .block w _ =>
    match escapesBefore with
    | 0 => (valOf .bf16 (w.extractLsb' 0 16).toNat, 0)
    | 1 => (valOf .bf16 (w.extractLsb' 16 16).toNat, 0)
    | _ => (.zero false, Flag.ol)
  | true, _ => (.zero false, Flag.ol)
  | false, .none => (s.codeVal p code, 0)
  | false, .block _ sc =>
    if sc = 0xFF#8 then (FVal.canonical, 0)
    else match s.codeVal p code with
      | .fin q => (.fin (q * pow2 ((sc.toNat : Int) - 127)), 0)
      | v => (v, 0)
  | false, .factor w =>
    let v := s.codeVal p code
    let f := valOf .fp32 w.toNat
    match [v, f].find? FVal.isNan with
    | some n => (n, sigFlags [v, f])
    | none => let t := v.times f; (t, if t.isNan then Flag.nv else 0)

/-! ### The matrix summation order (R118) -/

/-- Round into FP32 by rne without SAT. -/
def roundF32 (x : FVal × Flags) : Word × Flags :=
  let r := roundWith .fp32 .rne false x
  (BitVec.ofNat 32 r.1, r.2)

/-- Round into FP32 by rne, SAT governing overflow (R112). -/
def chunkRound (sat : Bool) (x : FVal × Flags) : Word × Flags :=
  let r := roundWith .fp32 .rne sat x
  (BitVec.ofNat 32 r.1, r.2)

/-- c + s in FP32, NaN always canonical, NV when c is signalling or opposite infinities meet (R118). -/
def addChunk (sat : Bool) (c s : Word) : Word × Flags :=
  let cv := valOf .fp32 c.toNat
  let sv := valOf .fp32 s.toNat
  if cv.isNan || sv.isNan then (0x7FC00000#32, sigFlags [cv])
  else chunkRound sat (exactSum false [cv, sv])

/-- The sum s of one chunk of 16 pairs of element values (R118), rounded rne to FP32. -/
def chunkSum (sat : Bool) (ab : List (FVal × FVal)) : Word × Flags :=
  if ab.any (fun x => x.1.isNan || x.2.isNan) then
    let products := (ab.filter fun x => !x.1.isNan && !x.2.isNan).map fun x => x.1.times x.2
    (0x7FC00000#32, if ab.any (fun x => x.1.isSignalling || x.2.isSignalling) then Flag.nv else (exactSum false products).2)
  else
    let r := chunkRound sat (exactSum false (ab.map fun x => x.1.times x.2))
    (if (valOf .fp32 r.1.toNat).isNan then 0x7FC00000#32 else r.1, r.2)

/-- chunk_mac(c, a, b, K), the pairs in increasing k, a chunk of 16 for each entry of `live`; one that is not live is
skipped (R118, R326). -/
def chunkMac (sat : Bool) : List Bool → Word → List (FVal × FVal) → Word × Flags
  | [], c, _ => (c, 0)
  | false :: live, c, ab => chunkMac sat live c (ab.drop 16)
  | true :: live, c, ab =>
    let s := chunkSum sat (ab.take 16)
    let c' := addChunk sat c s.1
    let r := chunkMac sat live c'.1 (ab.drop 16)
    (r.1, s.2 ||| c'.2 ||| r.2)

end Sys2Proof.Machine
end

