-- ==== Sys2Proof/Machine/Elementary.lean ====
section
/-!
DEFINITION. The correctly rounded functions of R287 to R289 and `fexp` of R460. An irrational f(x) is enclosed between
integers scaled by 2^p; a rational strictly between the same two multiples of a quarter of the format's quantum
rounds as f(x) does in every mode, and that rational is what is rounded.
-/
namespace Sys2Proof.Machine

/-- floor of the square root of `n`, by bits from `2^k` down. -/
def isqrtFrom : Nat → Nat → Nat → Nat
  | 0, _, r => r
  | k + 1, n, r => isqrtFrom k n (if (r + 2 ^ k) * (r + 2 ^ k) ≤ n then r + 2 ^ k else r)

/-- floor of the square root. -/
def isqrt (n : Nat) : Nat := isqrtFrom (Nat.log2 n / 2 + 1) n 0

/-- The scale 2^k of the digits that decide a rounding of a value near 2^e into `f`: a quarter of the quantum. -/
def digitScale (f : FFmt) (e : Int) : Int := f.mbits + 2 - max e f.emin

/-- A real strictly between n/2^k and (n+1)/2^k. -/
def between (n : Int) (k : Int) : Rat := ((2 * n + 1 : Int) : Rat) * pow2 (-k - 1)

/-- √q of a positive q, exactly when it is rational, and otherwise a rational that rounds into `f` as √q does. -/
def sqrtProxy (f : FFmt) (q : Rat) : Rat :=
  let rn := isqrt q.num.natAbs
  let rd := isqrt q.den
  if rn * rn = q.num.natAbs && rd * rd = q.den then mkRat rn rd
  else
    let k := digitScale f (floorLog2 q / 2)
    between (isqrt (q * pow2 (2 * k)).floor.toNat : Nat) k

/-- x/2^p truncated. -/
def fixDiv (x : Int) (p : Nat) : Int := x / (2 ^ p : Int)

/-- atan(1/m) in units of 2^-p, by its series: `t` is 1/m^j in those units, `j` odd. -/
def atanInv : Nat → Int → Int → Int → Bool → Int
  | 0, _, _, _, _ => 0
  | fuel + 1, t, m2, j, neg =>
    (if neg then -(t / j) else t / j) + atanInv fuel (t / m2) m2 (j + 2) (!neg)

/-- π in units of 2^-p (Machin). -/
def piFix (p : Nat) : Int :=
  let one : Int := 2 ^ p
  16 * atanInv (p / 4 + 4) (one / 5) 25 1 false - 4 * atanInv (p / 14 + 4) (one / 239) 57121 1 false

/-- 2 atanh z in units of 2^-p: `t` is z^j. -/
def atanhSum : Nat → Int → Int → Int → Nat → Int
  | 0, _, _, _, _ => 0
  | fuel + 1, t, z2, j, p => 2 * t / j + atanhSum fuel (fixDiv (t * z2) p) z2 (j + 2) p

/-- ln m for m in [1, 2) given in units of 2^-p. -/
def lnFix (p : Nat) (m : Int) : Int :=
  let one : Int := 2 ^ p
  let z := (m - one) * one / (m + one)
  atanhSum (p / 3 + 4) z (fixDiv (z * z) p) 1 p

/-- ln 2 in units of 2^-p. -/
def ln2Fix (p : Nat) : Int :=
  let one : Int := 2 ^ p
  let z := one / 3
  atanhSum (p / 3 + 4) z (fixDiv (z * z) p) 1 p

/-- Σ t^k/k! from the term given on, in units of 2^-p. -/
def expSum : Nat → Int → Int → Int → Nat → Int
  | 0, _, _, _, _ => 0
  | fuel + 1, term, t, k, p => term + expSum fuel (fixDiv (term * t) p / k) t (k + 1) p

/-- e^t for t in [0, 1) in units of 2^-p. -/
def expFix (p : Nat) (t : Int) : Int := expSum (p / 4 + 16) (2 ^ p) t 1 p

/-- The series of sine (from t, k = 2) and cosine (from 1, k = 1) for |t| < 1: terms alternate. -/
def trigSum : Nat → Int → Int → Int → Nat → Int
  | 0, _, _, _, _ => 0
  | fuel + 1, term, t2, k, p => term + trigSum fuel (-(fixDiv (term * t2) p / (k * (k + 1)))) t2 (k + 2) p

/-- sin t in units of 2^-p. -/
def sinFix (p : Nat) (t : Int) : Int := trigSum (p / 6 + 12) t (fixDiv (t * t) p) 2 p

/-- cos t in units of 2^-p. -/
def cosFix (p : Nat) (t : Int) : Int := trigSum (p / 6 + 12) (2 ^ p) (fixDiv (t * t) p) 1 p

/-- q in units of 2^-p, truncated. -/
def ratFix (p : Nat) (q : Rat) : Int := (q * pow2 p).floor

/-- Units by which a fixed-point value above may differ from the value it stands for: every sum above has fewer than
2^10 terms, each within 2^4 units, and the argument's error is scaled by less than 2^12. -/
def fixErr : Int := 2 ^ 32

/-- 2^x or e^x as scale 2^n and a fixed-point mantissa: x times `ln2`/`ln2` or x itself. -/
def expApprox (base2 : Bool) (x : Rat) (p : Nat) : Int × Int :=
  let l2 := ln2Fix p
  let n : Int := if base2 then x.floor else (ratFix p x) / l2
  let t : Int := if base2 then fixDiv (ratFix p (x - n) * l2) p else ratFix p x - n * l2
  (n, expFix p t)

/-- log2 of a positive q, in units of 2^-p. -/
def log2Approx (q : Rat) (p : Nat) : Int :=
  let n := floorLog2 q
  n * 2 ^ p + lnFix p (ratFix p (q * pow2 (-n))) * 2 ^ p / ln2Fix p

/-- sin and cos of x, in units of 2^-p: the multiple of π/2 nearest to x is taken off with π at a precision that x's
size requires (R289). -/
def sinCosApprox (x : Rat) (p : Nat) : Int × Int :=
  let ext : Nat := p + (max (floorLog2 (ratAbs x)) 0).toNat + 8
  let half := piFix ext / 2
  let xf := ratFix ext x
  let k := (2 * xf + half) / (2 * half)
  let r := fixDiv (xf - k * half) (ext - p)
  let s := sinFix p r
  let c := cosFix p r
  match (k % 4).toNat with
  | 0 => (s, c)
  | 1 => (c, -s)
  | 2 => (-s, -c)
  | _ => (-c, s)

/-- The functions whose values are irrational but for the exact cases. -/
inductive Elem where
  | exp2 | expE | log2 | sin | cos
  deriving DecidableEq, Repr

/-- An approximation `v · 2^(n−p)` of f(x), within fixErr units of v. -/
def Elem.approx (g : Elem) (x : Rat) (p : Nat) : Int × Int :=
  match g with
  | .exp2 => expApprox true x p
  | .expE => expApprox false x p
  | .log2 => (0, log2Approx x p)
  | .sin => (0, (sinCosApprox x p).1)
  | .cos => (0, (sinCosApprox x p).2)

/-- Number of a function for Config.undecidedDigit. -/
def Elem.code : Elem → Nat
  | .exp2 => 0 | .expE => 1 | .log2 => 2 | .sin => 3 | .cos => 4

/-- What one precision settles: the deciding digits when both ends of the enclosure share them. -/
def Elem.decideAt (g : Elem) (f : FFmt) (x : Rat) (p : Nat) : Option Rat :=
  let a := g.approx x p
  let lo := a.2 - fixErr
  let hi := a.2 + fixErr
  if lo ≤ 0 ∧ 0 ≤ hi then none
  else
    let unit := pow2 (a.1 - p)
    let k := digitScale f (floorLog2 (ratAbs ((a.2 : Rat) * unit)))
    let dl := ((lo : Rat) * unit * pow2 k).floor
    let dh := ((hi : Rat) * unit * pow2 k).floor
    if dl = dh then some (between dl k) else none

/-- f(x) where it is irrational, as a rational that rounds into `f` alike. The last resort is the free digit. -/
def Elem.proxy (g : Elem) (f : FFmt) (x : Rat) : Rat :=
  match g.decideAt f x 160 with
  | some q => q
  | none =>
    match g.decideAt f x 384 with
    | some q => q
    | none =>
      match g.decideAt f x 768 with
      | some q => q
      | none => between (Config.undecidedDigit g.code x) (digitScale f f.emin)

/-- The largest argument whose power is formed: beyond it 2^x and e^x over- or underflow every format alike. -/
def expBound : Rat := 1024

/-- 2^x or e^x of a nonzero real. -/
def expReal (base2 : Bool) (f : FFmt) (x : Rat) : Rat :=
  if x ≥ expBound then pow2 1024
  else if x ≤ -expBound then pow2 (-1024)
  else if base2 && x.den = 1 then pow2 x.num
  else (if base2 then Elem.exp2 else Elem.expE).proxy f x

/-- log2 of a positive real. -/
def log2Real (f : FFmt) (q : Rat) : FVal :=
  if q = pow2 (floorLog2 q) then FVal.ofInt (floorLog2 q) else .fin (Elem.log2.proxy f q)

/-- The functions of R287. -/
inductive Fun1 where
  | rcp | rsq | sqrt | exp2 | log2 | sin | cos | fexp
  deriving DecidableEq, Repr

/-- The exact value of a function, or what Table 8.2 gives at its special inputs, with the flags of the latter. -/
def Fun1.eval (g : Fun1) (f : FFmt) (x : FVal) : FVal × Flags :=
  match g, x with
  | _, .nan n m => (.nan n m, sigFlags [.nan n m])
  | .rcp, .zero n => (.inf n, Flag.dz)
  | .rcp, .inf n => (.zero n, 0)
  | .rcp, .fin q => (.fin (1 / q), 0)
  | .rsq, .zero n => (.inf n, Flag.dz)
  | .rsq, .inf n => if n then (FVal.canonical, Flag.nv) else (.zero false, 0)
  | .rsq, .fin q => if q < 0 then (FVal.canonical, Flag.nv) else (.fin (sqrtProxy f (1 / q)), 0)
  | .sqrt, .zero n => (.zero n, 0)
  | .sqrt, .inf n => if n then (FVal.canonical, Flag.nv) else (.inf false, 0)
  | .sqrt, .fin q => if q < 0 then (FVal.canonical, Flag.nv) else (.fin (sqrtProxy f q), 0)
  | .exp2, .zero _ => (.fin 1, 0)
  | .exp2, .inf n => (if n then .zero false else .inf false, 0)
  | .exp2, .fin q => (.fin (expReal true f q), 0)
  | .log2, .zero _ => (.inf true, Flag.dz)
  | .log2, .inf n => if n then (FVal.canonical, Flag.nv) else (.inf false, 0)
  | .log2, .fin q => if q < 0 then (FVal.canonical, Flag.nv) else (log2Real f q, 0)
  | .sin, .zero n => (.zero n, 0)
  | .sin, .inf _ => (FVal.canonical, Flag.nv)
  | .sin, .fin q => (.fin (Elem.sin.proxy f q), 0)
  | .cos, .zero _ => (.fin 1, 0)
  | .cos, .inf _ => (FVal.canonical, Flag.nv)
  | .cos, .fin q => (.fin (Elem.cos.proxy f q), 0)
  | .fexp, .zero _ => (.fin 1, 0)
  | .fexp, .inf n => (if n then .zero false else .inf false, 0)
  | .fexp, .fin q => (.fin (expReal false f q), 0)

/-- round(f(x), RM, fmt) on codes (R287, R288). -/
def Fun1.code (g : Fun1) (f : FFmt) (rm : RMode) (sat : Bool) (x : Nat) : Nat × Flags :=
  roundWith f rm sat (g.eval f (valOf f x))

end Sys2Proof.Machine
end

