-- ==== Sys2Proof/Machine/Alu.lean ====
section
/-!
DEFINITION. What the vector operations compute in one lane (07_vector_engine.md, 08_function_unit.md,
16_loading.md): pure functions of the operand values. An operand is 64 bits wide; every type but .d uses the low 32.
-/
namespace Sys2Proof.Machine

/-- The operand values of the 64 lanes. -/
abbrev LaneVals := Vector DWord 64

/-- Width of a sub-element (R104). -/
def tyWidth : Ty → Nat
  | .i32 | .u32 | .f32 => 32
  | .bf2 | .hf2 | .h2 | .uh2 => 16
  | .b4 | .ub4 | .e43 | .e52 => 8
  | .s5 | .us5 => 6
  | .n8 | .un8 => 4
  | .d => 64
/-- Sub-elements of a lane (R104). -/
def tyCount : Ty → Nat
  | .i32 | .u32 | .f32 | .d => 1
  | .bf2 | .hf2 | .h2 | .uh2 => 2
  | .b4 | .ub4 | .e43 | .e52 => 4
  | .s5 | .us5 => 5
  | .n8 | .un8 => 8
/-- Whether sub-elements are read as signed (R239). -/
def tySigned : Ty → Bool
  | .i32 | .h2 | .b4 | .s5 | .n8 | .d => true
  | _ => false
/-- The sub-element format of a float type. -/
def tyFloat : Ty → Option FFmt
  | .f32 => some .fp32 | .bf2 => some .bf16 | .hf2 => some .fp16 | .e43 => some .e43 | .e52 => some .e52
  | _ => none
/-- The float format, FP32 for a type that is none (such types are refused before issue). -/
def tyFmt (ty : Ty) : FFmt := (tyFloat ty).getD .fp32
/-- The packed types (07_vector_engine.md). -/
def tyPacked (ty : Ty) : Bool := tyCount ty > 1
/-- Bits of a lane value: 64 under .d, else 32. -/
def laneWidth (ty : Ty) : Nat := if ty = .d then 64 else 32

/-- Sub-element j of an operand. -/
def subElem (ty : Ty) (x : DWord) (j : Nat) : Nat := x.toNat / 2 ^ (tyWidth ty * j) % 2 ^ tyWidth ty

/-- A lane value from its sub-elements, element 0 lowest. -/
def joinSubs (ty : Ty) (xs : List Nat) : DWord :=
  BitVec.ofNat 64 (xs.foldr (fun x acc => x % 2 ^ tyWidth ty + 2 ^ tyWidth ty * acc) 0)

/-- The flags of sub-elements and lanes are ORed (R117). -/
def orFlags (fs : List Flags) : Flags := fs.foldl (· ||| ·) 0

/-- An operation on each sub-element alone (R105). -/
def mapSubs (ty : Ty) (g : Nat → Nat → Nat → Nat × Flags) (a b c : DWord) : DWord × Flags :=
  let rs := (List.range (tyCount ty)).map fun j => g (subElem ty a j) (subElem ty b j) (subElem ty c j)
  (joinSubs ty (rs.map Prod.fst), orFlags (rs.map Prod.snd))

/-- The integer that a sub-element code stands for under a type (R239). -/
def subInt (ty : Ty) (x : Nat) : Int := intVal (tyWidth ty) (tySigned ty) x

/-- sat(y, ty) if SAT else wrap(y, ty), as a code (R105, R239); under .d sat is to signed 64 bits (assumption 155). -/
def fitInt (ty : Ty) (sat : Bool) (y : Int) : Nat :=
  let r := intRange (tyWidth ty) (tySigned ty)
  intCode (tyWidth ty) (if sat then max r.1 (min r.2 y) else y)

/-- What a vector operation computes in one lane from A, B, C. -/
abbrev LaneFn := DWord → DWord → DWord → DWord × Flags

/-- An integer operation per sub-element (R239). -/
def intFn (ty : Ty) (sat : Bool) (f : Int → Int → Int → Int) : LaneFn :=
  mapSubs ty fun x y z => (fitInt ty sat (f (subInt ty x) (subInt ty y) (subInt ty z)), 0)

/-- The unsigned type of the same width (R241, absd). -/
def tyUnsigned : Ty → Ty
  | .i32 => .u32 | .h2 => .uh2 | .b4 => .ub4 | .s5 => .us5 | .n8 => .un8
  | t => t

/-- absd: the result is fitted to the unsigned type (R241). -/
def absdFn (ty : Ty) (sat : Bool) : LaneFn :=
  mapSubs ty fun x y _ => (fitInt (tyUnsigned ty) sat ((subInt ty x - subInt ty y).natAbs : Int), 0)

/-- dot4 (R243): a signed 32-bit sum. -/
def dot4Fn (ty : Ty) (sat : Bool) : LaneFn := fun a b c =>
  let y := (List.range (tyCount ty)).foldl (fun s j => s + subInt ty (subElem ty a j) * subInt ty (subElem ty b j))
    (subInt .i32 (subElem .i32 c 0))
  (joinSubs .i32 [fitInt .i32 sat y], 0)

/-- Clears what lies above a lane's width. -/
def laneMask (ty : Ty) (x : DWord) : DWord := if ty = .d then x else x &&& 0xFFFFFFFF#64

/-- A bitwise operation (R244). -/
def bitFn (ty : Ty) (f : DWord → DWord → DWord) : LaneFn := fun a b _ => (laneMask ty (f a b), 0)

/-- A shift per sub-element, the count unsigned (R245); under .d the count is all of B. -/
def shiftFn (ty : Ty) (f : Nat → Nat → Nat) : LaneFn :=
  mapSubs ty fun x n _ => (f x n, 0)

/-- shl (R245): a count at or above the width multiplies by 2^W at least, which wraps to 0 and saturates alike. -/
def shlFn (ty : Ty) (sat : Bool) : LaneFn :=
  shiftFn ty fun x n => fitInt ty sat (subInt ty x * 2 ^ min n (tyWidth ty))
/-- shr (R245). -/
def shrFn (ty : Ty) : LaneFn := shiftFn ty fun x n => if n ≥ tyWidth ty then 0 else x / 2 ^ n
/-- sar (R245), arithmetic whatever the signedness of TY. -/
def sarFn (ty : Ty) : LaneFn :=
  shiftFn ty fun x n => intCode (tyWidth ty) (intVal (tyWidth ty) true x / 2 ^ min n (tyWidth ty))
/-- rol (R245). -/
def rolFn (ty : Ty) : LaneFn :=
  shiftFn ty fun x n =>
    let k := n % tyWidth ty
    (x * 2 ^ k) % 2 ^ tyWidth ty + x / 2 ^ (tyWidth ty - k)

/-- One bits of a number below 2^n. -/
def popBits (n x : Nat) : Nat := (List.range n).foldl (fun s i => if x.testBit i then s + 1 else s) 0
/-- Bit order reversed within n bits. -/
def revBits (n x : Nat) : Nat := (List.range n).foldl (fun s i => if x.testBit i then s + 2 ^ (n - 1 - i) else s) 0
/-- Leading zero bits within n bits. -/
def leadZeros (n x : Nat) : Nat := if x % 2 ^ n = 0 then n else n - 1 - Nat.log2 (x % 2 ^ n)

/-- popc, clz, brev (R246). -/
def countFn (ty : Ty) (f : Nat → Nat → Nat) : LaneFn := fun a _ _ =>
  (BitVec.ofNat 64 (f (laneWidth ty) (a.toNat % 2 ^ laneWidth ty)), 0)

/-- Field descriptor F of bfe and bfi: position and the n of R247. -/
def fieldOf (w : Nat) (f : DWord) : Nat × Nat :=
  let pos := f.toNat % 64
  let len := f.toNat / 256 % 128
  (pos, if pos ≥ w || len = 0 then 0 else min len (w - pos))

/-- bfe (R247): the descriptor is B. -/
def bfeFn (ty : Ty) : LaneFn := fun a f _ =>
  let w := laneWidth ty
  let pn := fieldOf w f
  let x := a.toNat % 2 ^ w / 2 ^ pn.1 % 2 ^ pn.2
  let y : Int := if ty = .i32 && pn.2 > 0 then intVal pn.2 true x else x
  (BitVec.ofNat 64 (intCode w y), 0)

/-- bfi (R247): the descriptor is C. -/
def bfiFn (ty : Ty) : LaneFn := fun a b f =>
  let w := laneWidth ty
  let pn := fieldOf w f
  let m := 2 ^ pn.1 * (2 ^ pn.2 - 1)
  let x := a.toNat % 2 ^ w
  (BitVec.ofNat 64 (x - (x &&& m) + (b.toNat * 2 ^ pn.1 &&& m)), 0)

/-! ### Floating point (R249 to R255) -/

/-- An exact float operation rounded once per sub-element. -/
def floatFn (ty : Ty) (rm : RMode) (sat : Bool) (f : FVal → FVal → FVal → FVal × Flags) : LaneFn :=
  mapSubs ty fun x y z =>
    roundWith (tyFmt ty) rm sat (f (valOf (tyFmt ty) x) (valOf (tyFmt ty) y) (valOf (tyFmt ty) z))

/-- Whether an exact zero sum is −0 (R249). -/
def isRdn (rm : RMode) : Bool := rm == .rdn

/-- A + B. -/
def faddVal (rm : RMode) (a b _c : FVal) : FVal × Flags := nanOrSum (isRdn rm) [a, b] [a, b]
/-- A − B. -/
def fsubVal (rm : RMode) (a b _c : FVal) : FVal × Flags := nanOrSum (isRdn rm) [a, b] [a, b.negate]
/-- A × B. -/
def fmulVal (rm : RMode) (a b _c : FVal) : FVal × Flags := nanOrSum (isRdn rm) [a, b] [a.times b]
/-- A × B + C. -/
def fmaVal (rm : RMode) (a b c : FVal) : FVal × Flags := nanOrSum (isRdn rm) [a, b, c] [a.times b, c]
/-- A × B − C. -/
def fmsVal (rm : RMode) (a b c : FVal) : FVal × Flags := nanOrSum (isRdn rm) [a, b, c] [a.times b, c.negate]
/-- C − A × B. -/
def fnmaVal (rm : RMode) (a b c : FVal) : FVal × Flags :=
  nanOrSum (isRdn rm) [a, b, c] [if (a.times b).isNan then a.times b else (a.times b).negate, c]

/-- fmin and fmax on codes (R250); `gt` selects the greater. -/
def fminmaxCode (f : FFmt) (gt : Bool) (x y : Nat) : Nat × Flags :=
  let a := valOf f x
  let b := valOf f y
  if a.isNan && b.isNan then roundWith f .rne false (a, sigFlags [a, b])
  else if a.isNan then (y, sigFlags [a])
  else if b.isNan then (x, sigFlags [b])
  else (if (if gt then a.ltSigned b else b.ltSigned a) then y else x, 0)

/-- fmin and fmax. -/
def fminmaxFn (ty : Ty) (gt : Bool) : LaneFn := mapSubs ty fun x y _ => fminmaxCode (tyFmt ty) gt x y

/-- fabs (R251): the sign bit cleared, nothing quieted. -/
def fabsFn (ty : Ty) : LaneFn := mapSubs ty fun x _ _ => (x % 2 ^ (tyWidth ty - 1), 0)
/-- fneg (R251): the sign bit inverted. -/
def fnegFn (ty : Ty) : LaneFn := mapSubs ty fun x _ _ => ((x + 2 ^ (tyWidth ty - 1)) % 2 ^ tyWidth ty, 0)

/-- frnd (R252): only NV, and the sign of a value that rounds to zero is kept. -/
def frndCode (f : FFmt) (rm : RMode) (x : Nat) : Nat × Flags :=
  match valOf f x with
  | .fin q => ((roundTo f .rne false (FVal.ofRat ((roundInt rm q).1 : Int) (q < 0))).1, 0)
  | v => (roundTo f .rne false v)

/-- frnd. -/
def frndFn (ty : Ty) (rm : RMode) : LaneFn := mapSubs ty fun x _ _ => frndCode (tyFmt ty) rm x

/-- fclass (R253). -/
def fclassCode (f : FFmt) (x : Nat) : Nat :=
  match valOf f x with
  | .inf true => 1
  | .inf false => 0x80
  | .zero true => 8
  | .zero false => 0x10
  | .nan n m => if (FVal.nan n m).isSignalling then 0x100 else 0x200
  | .fin q =>
    if q < 0 then (if -q < pow2 f.emin then 4 else 2) else (if q < pow2 f.emin then 0x20 else 0x40)

/-- fclass. -/
def fclassFn (ty : Ty) : LaneFn := mapSubs ty fun x _ _ => (fclassCode (tyFmt ty) x, 0)

/-- A × 2^n (R254). Beyond 2^±4000 every format over- or underflows alike. -/
def fsclVal (a : FVal) (n : Int) : FVal × Flags :=
  match a with
  | .fin q => (.fin (q * pow2 (max (-4000) (min 4000 n))), 0)
  | v => (v, 0)

/-- fscl: n is B as .i32 under .f32 and as the .h2 sub-element otherwise. -/
def fsclFn (ty : Ty) (rm : RMode) (sat : Bool) : LaneFn :=
  mapSubs ty fun x n _ => roundWith (tyFmt ty) rm sat (fsclVal (valOf (tyFmt ty) x) (intVal (tyWidth ty) true n))

/-- fdot2 (R255): C is FP32 and so is the result. -/
def fdot2Fn (ty : Ty) (rm : RMode) (sat : Bool) : LaneFn := fun a b c =>
  let f := tyFmt ty
  let a0 := valOf f (subElem ty a 0)
  let a1 := valOf f (subElem ty a 1)
  let b0 := valOf f (subElem ty b 0)
  let b1 := valOf f (subElem ty b 1)
  let cv := valOf .fp32 (subElem .f32 c 0)
  let r := roundWith .fp32 rm sat (nanOrSum (isRdn rm) [a0, a1, b0, b1, cv] [a0.times b0, a1.times b1, cv])
  (BitVec.ofNat 64 r.1, r.2)

/-! ### Comparison (R256) -/

/-- cmp: conditions 0 to 7 of Table 7.2. -/
def cmpCode (ty : Ty) (cc : Nat) (x y : Nat) : Bool :=
  let a := subInt ty x
  let b := subInt ty y
  match cc with
  | 0 => x == y
  | 1 => x != y
  | 2 => decide (a < b)
  | 3 => decide (a ≤ b)
  | 4 => decide (a > b)
  | 5 => decide (a ≥ b)
  | 6 => decide (x < y)
  | _ => decide (x ≥ y)

/-- fcmp: conditions 0 to 7 of Table 7.2, with NV as its last column says. -/
def fcmpCode (cc : Nat) (x y : Nat) : Bool × Flags :=
  let a := valOf .fp32 x
  let b := valOf .fp32 y
  let un := a.isNan || b.isNan
  let sig := sigFlags [a, b]
  let hard : Flags := if un then Flag.nv else 0
  match cc with
  | 0 => (!un && !a.lt b && !b.lt a, sig)
  | 1 => (un || a.lt b || b.lt a, sig)
  | 2 => (!un && a.lt b, hard)
  | 3 => (!un && !b.lt a, hard)
  | 4 => (!un && b.lt a, hard)
  | 5 => (!un && !a.lt b, hard)
  | 6 => (!un, sig)
  | _ => (un, sig)

/-! ### Conversions (R272 to R275) -/

/-- One sub-element from a source type to a destination type (R273). -/
def convSub (src dst : Ty) (rm : RMode) (sat : Bool) (x : Nat) : Nat × Flags :=
  match tyFloat src, tyFloat dst with
  | some fs, some fd => roundTo fd rm sat (valOf fs x)
  | none, some fd => roundTo fd rm sat (FVal.ofInt (subInt src x))
  | some fs, none =>
    let r := intRange (tyWidth dst) (tySigned dst)
    let t := toInt r.1 r.2 rm (valOf fs x)
    (intCode (tyWidth dst) t.1, t.2)
  | none, none => (fitInt dst sat (subInt src x), 0)

/-- cvt (R273). -/
def cvtFn (dst src : Ty) (j : Nat) (rm : RMode) (sat : Bool) : LaneFn := fun a _ _ =>
  let nd := tyCount dst
  let rs := (List.range nd).map fun i => convSub src dst rm sat (subElem src a (j * nd + i))
  (joinSubs dst (rs.map Prod.fst), orFlags (rs.map Prod.snd))

/-- pack (R274). -/
def packFn (dst src : Ty) (g : Nat) (rm : RMode) (sat : Bool) : LaneFn := fun a b c =>
  let ns := tyCount src
  let rs := (List.range (tyCount dst)).map fun i =>
    if i < 2 * ns * g || i ≥ 2 * ns * g + 2 * ns then ((subElem dst c i, 0) : Nat × Flags)
    else
      let k := i - 2 * ns * g
      if k < ns then convSub src dst rm sat (subElem src a k) else convSub src dst rm sat (subElem src b (k - ns))
  (joinSubs dst (rs.map Prod.fst), orFlags (rs.map Prod.snd))

/-- unpk (R275). -/
def unpkFn (ty : Ty) (j : Nat) : LaneFn := fun a b _ =>
  let n := tyCount ty
  (joinSubs ty ((List.range n).map fun i =>
    if i % 2 = 0 then subElem ty a (j * n / 2 + i / 2) else subElem ty b (j * n / 2 + i / 2)), 0)

/-- extr (R272). -/
def extrFn (ty : Ty) (j : Nat) : LaneFn := fun a _ _ =>
  (BitVec.ofNat 64 (intCode 32 (if (tyFloat ty).isSome then (subElem ty a j : Int) else subInt ty (subElem ty a j))), 0)

/-- ins (R272). -/
def insFn (ty : Ty) (j : Nat) : LaneFn := fun a b _ =>
  (joinSubs ty ((List.range (tyCount ty)).map fun i => if i = j then subElem ty b 0 else subElem ty a i), 0)

/-! ### The function unit -/

/-- The signed or unsigned 32-bit factor. -/
def factor32 (ty : Ty) (x : DWord) : Int := intVal 32 (tySigned ty) (x.toNat % 2 ^ 32)

/-- mulhi (R284). -/
def mulhiFn (ty : Ty) : LaneFn := fun a b _ =>
  (BitVec.ofNat 64 (intCode 64 (factor32 ty a * factor32 ty b) / 2 ^ 32), 0)
/-- mulw (R285): 64 bits, a pair. -/
def mulwFn (ty : Ty) : LaneFn := fun a b _ => (BitVec.ofNat 64 (intCode 64 (factor32 ty a * factor32 ty b)), 0)

/-- Quotient and remainder of R286. -/
def divRem (signed : Bool) (w : Nat) (sat : Bool) (a b : Int) : Int × Int :=
  if b = 0 then (-1, a)
  else if signed && a = -(2 ^ (w - 1)) && b = -1 then (if sat then 2 ^ (w - 1) - 1 else a, 0)
  else (Int.tdiv a b, a - Int.tdiv a b * b)

/-- div and rem (R286), `w` 32 or 64. -/
def divFn (ty : Ty) (sat rem : Bool) : LaneFn := fun a b _ =>
  let w := laneWidth ty
  let r := divRem (tySigned ty) w sat (intVal w (tySigned ty) a.toNat) (intVal w (tySigned ty) b.toNat)
  (BitVec.ofNat 64 (intCode w (if rem then r.2 else r.1)), 0)

/-- The functions of R287 per sub-element. -/
def fun1Fn (g : Fun1) (ty : Ty) (rm : RMode) (sat : Bool) : LaneFn :=
  mapSubs ty fun x _ _ => g.code (tyFmt ty) rm sat x

/-- sincos (R289): sine low, cosine high. -/
def sincosFn (rm : RMode) (sat : Bool) : LaneFn := fun a _ _ =>
  let s := Fun1.sin.code .fp32 rm sat (subElem .f32 a 0)
  let c := Fun1.cos.code .fp32 rm sat (subElem .f32 a 0)
  (BitVec.ofNat 64 (s.1 + 2 ^ 32 * c.1), s.2 ||| c.2)

/-- One segment of a function table: BP, C0, C1, C2, C3 (Table 6.7), FP32 codes. -/
structure Segment where
  bp : Word
  c0 : Word
  c1 : Word
  c2 : Word
  c3 : Word
  deriving DecidableEq, Repr

/-- The value of an FP32 word. -/
def f32Val (w : Word) : FVal := valOf .fp32 w.toNat

/-- One fused step of ppev (R290). -/
def fusedStep (y : Word × Flags) (t c : Word) : Word × Flags :=
  let r := roundF32 (fmaVal .rne (f32Val y.1) (f32Val t) (f32Val c))
  (r.1, y.2 ||| r.2)

/-- The segment that serves x: the largest index with BP ≤ x, else 0 (R290). -/
def segmentIndex (segs : List Segment) (x : FVal) : Nat :=
  (segs.zipIdx.foldl (fun best (s : Segment × Nat) => if (f32Val s.1.bp).le x then s.2 else best) 0)

/-- ppev(x) of R290. -/
def ppevWord (segs : List Segment) (x : Word) : Word × Flags :=
  let v := f32Val x
  if v.isNan then roundF32 (v, 0)
  else match segs[segmentIndex segs v]? with
    | none => (0, 0)
    | some s =>
      let t := roundF32 (fsubVal .rne v (f32Val s.bp) v)
      fusedStep (fusedStep (fusedStep (s.c3, t.2) t.1 s.c2) t.1 s.c1) t.1 s.c0

/-- ppev. -/
def ppevFn (segs : List Segment) : LaneFn := fun a _ _ =>
  let r := ppevWord segs (a.setWidth 32)
  (r.1.setWidth 64, r.2)

/-! ### Retired operations (Table 16.5) -/

/-- sad. -/
def sadFn : LaneFn := fun a b c =>
  let s := (List.range 4).foldl (fun s j => s + ((subElem .ub4 a j : Int) - (subElem .ub4 b j : Int)).natAbs) 0
  (BitVec.ofNat 64 ((c.toNat % 2 ^ 32 + s) % 2 ^ 32), 0)
/-- mulq. -/
def mulqFn : LaneFn := mapSubs .h2 fun x y _ =>
  (fitInt .h2 true ((subInt .h2 x * subInt .h2 y + 2 ^ 14) / 2 ^ 15), 0)
/-- One bit of the reflected CRC-32C step. -/
def crcBit (c : Word) : Word := if c.getLsbD 0 then (c >>> 1) ^^^ 0x82F63B78#32 else c >>> 1
/-- One byte of the reflected CRC-32C. -/
def crcByte (c : Word) (b : Byte) : Word :=
  crcBit (crcBit (crcBit (crcBit (crcBit (crcBit (crcBit (crcBit (c ^^^ b.setWidth 32))))))))
/-- crc. -/
def crcFn : LaneFn := fun a b _ =>
  let c := (List.range 4).foldl (fun c i => crcByte c (b.extractLsb' (8 * i) 8)) (a.setWidth 32)
  (c.setWidth 64, 0)

end Sys2Proof.Machine
end

