-- ==== Sys2Proof/Machine/State.lean ====
section
/-!
DEFINITION. The state of the whole system: boughs, groves, cores, dies, modules, links, launches, memory, and what is
in flight between them; the outcomes that stop a run; and the machine right after reset. Plain data throughout.

Keys. A die address is 32 × module + die (R368). A core is 64 × die address + core number. A grove is
2^24 × launch identity + ordinal (R348). A bough is 16 × grove + bough number (R13).
-/
namespace Sys2Proof.Machine

/-- Why the machine stops. -/
inductive Fault where
  /-- Raised by `step` when every clock is stopped (R446, R471) and no event is left to come. Safe: no step of the
  hardware is left out. -/
  | allClocksStopped
  deriving DecidableEq, Repr

/-- Why an instruction has no meaning. -/
inductive Refusal where
  /-- Raised by an arm of `exec` that has no meaning yet. Safe: nothing is claimed of it. -/
  | notModelled (mnemonic : String)
  deriving DecidableEq, Repr

/-- Memory: strictly rising addresses, no byte listed that an unlisted address reads as (0). -/
abbrev Memory := List Host.Cell

/-! ### Results in flight (R26, R78, R80) -/

/-- Where a result is written. -/
inductive Dest where
  | none
  | vreg (n : Nat) | oreg (n : Nat) | row (n : Nat) | chan (n : Nat)
  | pred (n : Nat) | scalar (n : Nat) | creg (n : Nat)
  /-- An address step (R166): the value is added on top of any other write due. -/
  | stepped (n : Nat)
  deriving DecidableEq, Repr

/-- The latch path of a result (R77), in the code order of R363. -/
inductive Path where
  | none | vector | memory | function
  deriving DecidableEq, Repr

/-- A result: it enters its latch at `due` and its register at `due + 1`; a predicate at `due`, and a channel word too, once the
words of writes that issued before it have gone (R381). -/
structure Result where
  seq : Nat
  pc : DWord
  path : Path
  latched : Bool
  dest : Dest
  act : Mask
  vals : Lanes
  sval : DWord
  due : Nat
  flags : Flags
  /-- The value of an operation that completed by flag, which a fixed-latency result prevails over (R216). -/
  byFlag : Bool
  /-- The core cycle in which a write of a channel issued (R381). -/
  cc : Nat := 0
  deriving DecidableEq, Repr

/-! ### Boughs (Table 1.4) -/

/-- One level of the loop stack (R165). -/
structure LoopLevel where
  count : DWord
  start : DWord
  last : DWord
  deriving DecidableEq, Repr

/-- An address-step pair (R169); depth 0 is disarmed. -/
structure StepPair where
  reg : BitVec 5
  depth : Nat
  stride : DWord
  deriving DecidableEq, Repr

/-- A bough's part of one grove barrier (R177, R179). -/
structure BarArm where
  armed : Bool
  gen : Byte
  /-- An arrive issued and not yet in effect (R179). -/
  coming : Bool
  deriving DecidableEq, Repr

/-- What a bough that gave up its phase waits on (R44). -/
inductive WaitOn where
  | flag (k : Nat) (n : BitVec 24)
  | either (ka : Nat) (na : BitVec 24) (kb : Nat) (nb : BitVec 24)
  | barrier (b : Nat)
  | items
  /-- Trap entry: eligible from this bough cycle (R192). -/
  | cycle (bc : Nat)
  /-- A resumed bough whose die has yet to apply the image's writes and frames (R135, R406). -/
  | views
  deriving DecidableEq, Repr

/-- What a bough does. -/
inductive Status where
  /-- Holds a phase, or is eligible for one (R44). -/
  | ready
  | waiting (w : WaitOn)
  | halted
  /-- Stopped at a debug stop (R441, R442). -/
  | debug
  /-- Stopped on an unhandled trap (R192, R366). -/
  | unhandled
  /-- Pre-empted (R359): stopped at the boundary before the bough cycle given (R201). -/
  | stopped (s : Nat)
  deriving DecidableEq, Repr

/-- A trap that lands before the next bundle on behalf of an earlier one (R194, step 1), in that order. -/
structure PendTrap where
  rank : Nat
  cause : Byte
  tval : DWord
  frec : BitVec 7
  seq : Nat
  /-- The first bough cycle before whose bundle it lands. -/
  from_ : Nat
  deriving DecidableEq, Repr

/-- A bough. Stored span by span: bit j of `active`, entry j of `iid` and `iage` (R11). -/
structure Bough where
  grove : Nat
  bnum : Nat
  ctx : Nat
  pc : DWord
  v : Vector Lanes 128
  o : Vector Lanes 8
  p : Vector Mask 8
  s : Vector DWord 32
  lv0 : Lanes
  lv1 : Lanes
  lm0 : Lanes
  lf0 : Lanes
  results : List Result
  /-- Bundles issued: the issue order of results (R78, R80). -/
  seq : Nat
  /-- Innermost level first (R165). -/
  loops : List LoopLevel
  steps : Vector StepPair 4
  dsLeft : Nat
  dsTarget : DWord
  vserved : Mask
  vmask : Mask
  vsite : DWord
  active : Mask
  iid : Vector Word 64
  iage : Vector Word 64
  refc : Word
  prio : Nat
  raised : Nat
  /-- Core cycle since which the bough has been eligible (R43). -/
  eligSince : Nat
  status : Status
  phase : Option Nat
  grantCc : Nat
  /-- Earliest bough cycle of the next bundle (R76). -/
  earliest : Nat
  /-- The stretch of the presented bundle: bough cycle in which its finite part ends (R27, R86). -/
  stretchEnd : Option Nat
  /-- Bough cycle of the bundle's first request to the compatibility unit (R461). -/
  presented : Option Nat
  /-- The bough cycle in which the compatibility unit accepts the presented bundle (R461). -/
  compatAt : Option Nat
  /-- The open-ended stretches of the presented bundle so far: cause (Table 15.8) and bough cycles, in order. -/
  holds : List (Nat × Nat)
  fflags : Flags
  tvec : DWord
  cause : Word
  epc : DWord
  tval : DWord
  frec : BitVec 7
  tstatIn : Bool
  tstatDsn : Nat
  tdst : DWord
  tvmask : Mask
  bars : Vector BarArm 4
  pend : List PendTrap
  opseq : Word
  /-- A pre-emption has been commanded; the bough stops at its next boundary (R201). -/
  stopAsked : Bool
  /-- The bundle at pc ignores its D bit once (R443), and a single step is asked for. -/
  dbgSkip : Bool
  dbgStep : Bool
  dbgCause : Byte
  /-- The clock vector and the frame number that the die must have applied first (R135, R406). -/
  needClock : List Nat
  needFrame : Nat
  /-- Writes of the module where it stopped that a bough resumed on another is still to find at their homes (R135). -/
  needWrites : List Nat
  /-- HELD of its image (Table 11.5), the stop cycle that its results are counted from until its first grant after
  a resumption (R201), and its grants so far (R434). -/
  held : Nat
  /-- Core cycles for which it had been eligible without a grant as it stopped (Table 11.5). -/
  aged : Nat
  resumeFrom : Option Nat
  grants : Nat
  deriving DecidableEq, Repr

/-! ### Groves (Table 1.2, R31) -/

/-- A counting flag with its fault state (R36, R37). -/
structure CFlag where
  count : BitVec 24
  e : Bool
  frec : BitVec 7
  cause : Byte
  pc : DWord
  deriving DecidableEq, Repr

/-- A grove barrier (R177). -/
structure Barrier where
  a : Nat
  n : Nat
  g : Byte
  deriving DecidableEq, Repr

/-- A deferral queue: the ring lies in the partition; head entry and count (R186). -/
structure DeferQueue where
  head : Nat
  count : Nat
  deriving DecidableEq, Repr

/-- What happens in the scratchpad and its neighbours at a fixed bough cycle (R129, R130, R178, R185, R187, R231). -/
inductive ScratchAct where
  /-- Read `bytes` at each lane's offset for a load: lds, lda (rows), ldsu. -/
  | load (bytes : Nat) (signed : Bool) (offs : List (Nat × Nat)) (dests : List Dest) (path : Path) (due : Nat)
  | store (cells : List Host.Cell)
  | atomic (sub : Nat) (wide : Bool) (lanes : List (Nat × Nat × DWord × DWord)) (dests : List Dest)
  /-- The register blocks of a deferral batch (R185): per span its block address, width, first register and mask. -/
  | restore (spans : List (Nat × Nat × Nat × Nat))
  | loadTable (tb n addr : Nat)
  /-- The table takes the segments read (R231). -/
  | setTable (tb : Nat) (segs : List Segment)
  | arrive (bar n : Nat)
  deriving DecidableEq, Repr

/-- A scheduled act: bough cycle, core cycle of issue, bough number, seq and address of the bundle. -/
structure Timed where
  bc : Nat
  cc : Nat
  bnum : Nat
  seq : Nat
  pc : DWord
  act : ScratchAct
  deriving DecidableEq, Repr

/-- A fault offered by a completion (R37, R234, R235). -/
structure FaultInfo where
  cause : Byte
  pc : DWord
  lanes : Mask
  va : DWord
  aux : DWord
  src : Nat
  bid : Word
  iids : Lanes
  deriving DecidableEq, Repr

/-- A write to a flag in a bough cycle (R176): by the control slot or an arrival, or by a completion. -/
inductive FlagWrite where
  | set (k : Nat) (n : BitVec 24)
  | bump (k : Nat) (n : BitVec 24)
  | complete (k : Nat) (inc : Nat) (fault : Option FaultInfo)
  deriving DecidableEq, Repr

/-- Where a grove is in its life (R359, R361). -/
inductive GroveStage where
  | placed | stopping | saved | ended
  deriving DecidableEq, Repr

/-- A channel endpoint of a grove (R380, R381, Table 12.3). -/
structure Endpoint where
  bound : Bool
  receives : Bool
  broken : Bool
  /-- The peer's grove key and endpoint number. -/
  peer : Nat
  peerEnd : Nat
  /-- The bough cycle in which each credit held arrived; it may be used from the next one. -/
  credits : List Nat
  /-- Words present with the bough cycle in which each arrived, oldest first; readable from the next one. -/
  words : List (Nat × Lanes)
  deriving DecidableEq, Repr

/-- A grove. -/
structure Grove where
  launch : Nat
  ordinal : Nat
  stage : Nat
  gx : Nat
  gy : Nat
  gz : Nat
  core : Nat
  slot : Nat
  flagBase : Nat
  tileMap : List Nat
  life : GroveStage
  scratch : Memory
  /-- Words (byte offset / 4) that hold an uncorrectable soft error (R212). -/
  scratchBad : List Nat
  flags : Vector CFlag 32
  flagWrites : List FlagWrite
  /-- Tiles t0 to t3: row r of tile t is entry 64t + r (R278). -/
  tiles : Table Lanes
  queues : Vector DeferQueue 4
  tables : Vector (List Segment) 4
  bars : Vector Barrier 4
  /-- Indices held and not handed out, and whether a block request is outstanding (R353). -/
  held : List Nat
  reqOut : Bool
  /-- The supply has reported to it that it is exhausted (R354). -/
  told : Bool
  chans : Vector Endpoint 8
  pipe : List Timed
  /-- Where its image goes, or stands (R359, R362), and the module on which it stopped. -/
  saveAt : Option DWord
  savedOn : Nat
  /-- Ended by a kill where it stood: its core is freed with its launch's others (R367). -/
  keepsPlace : Bool
  deriving DecidableEq, Repr

/-! ### Launches (11_launch_engine.md) -/

/-- A launch's share on one module of its span: ordinals to place and those placed (R348, R350). -/
structure Share where
  next : Nat
  last : Nat
  /-- Placement has begun there (R347). -/
  begun : Bool
  deriving DecidableEq, Repr

/-- What the launch engine reports of a trap that finds no handler (R192, R366; assumption 22): the bough, the trap's argument and
cause, and the bough's cr.cause. -/
structure TrapReport where
  bough : Nat
  trap : Word
  cause : Word
  deriving DecidableEq, Repr

/-- Where a launch is in its life. -/
inductive LaunchLife where
  | queued | placing
  /-- The conditions of R22 hold; its last writes are on their way (R356). -/
  | draining
  | killed
  deriving DecidableEq, Repr

/-- A launch: its record and header as read at acceptance (Tables 11.1, 11.2), its parameters, item supplies (next
block per stage, R353) and what its completion word will say (R345). -/
structure Launch where
  module : Nat
  queue : Nat
  asid : Nat
  recVa : DWord
  record : BitVec 2048
  header : BitVec 2048
  params : List DWord
  life : LaunchLife
  shares : Table Share
  supply : List Nat
  placedGroves : Nat
  endedGroves : Nat
  unrun : Bool
  settleFault : Bool
  fflags : Flags
  logGap : Bool
  unhandled : Bool
  /-- Its unhandled traps so far, oldest first. -/
  reports : List TrapReport
  drops : Bool
  faults : Bool
  deriving DecidableEq, Repr

/-! ### Operations in flight -/

/-- What an operation of the memory engine or the sequencer does when it is performed (R204, R198, R199, R200). -/
inductive OpKind where
  | load (bytes : Nat) (signed : Bool)
  | store
  | atomg (sub : Nat) (wide : Bool)
  | red (sub : Nat) (wide : Bool)
  | settle
  | fence (acquire release : Bool) (scope : Nat)
  | bpub (sub : Nat)
  | bld (acquire : Bool)
  | bseq
  | pref
  | icinv
  | bbar (id count : Nat)
  /-- Completed by the acceptance of its record (R199). -/
  | launch (queue : Nat)
  deriving DecidableEq, Repr

/-- How far an access to another module has come (R371, R416, R417): not asked for; its request on the way; taken by the trust engine
of the home, under an epoch; performed, and its response on the way; answered. -/
inductive Reach where
  | here
  | asked
  | taken (home epoch : Nat)
  | answering
  | answered
  deriving DecidableEq, Repr

/-- One access of a lane of an operation: its address, size and data; what has come of it. A plain access of more than
one word is made of parts, one for each aligned 4-byte word (R136). -/
structure LaneReq where
  lane : Nat
  part : Nat
  va : DWord
  bytes : Nat
  data : Nat
  /-- 0 in its queue, 1 applied at the issuing die, 2 performed. -/
  stage : Nat
  pa : Nat
  /-- The write it sent, 0 for none. -/
  wid : Nat
  value : Nat
  /-- Cause and AUX. -/
  fault : Option (Byte × DWord)
  flags : Flags
  /-- The line was poisoned after this access had written it (R123). -/
  spoiled : Bool := false
  reach : Reach := .here
  /-- The slot whose request the access went in (R136). -/
  lead : Nat := 0
  deriving DecidableEq, Repr

/-- An operation that completes by flag. `ready` says that its conditions to complete have been reached where they are
a state of their own (frames applied, fences). -/
structure GOp where
  bough : Nat
  issued : Nat
  issuedCc : Nat
  order : Nat
  pc : DWord
  asid : Nat
  kind : OpKind
  queue : Nat
  flag : Nat
  bid : Word
  iids : Lanes
  lanes : List LaneReq
  dests : List Dest
  seq : Nat
  /-- Entry index, value and range of a beacon or icinv operation. -/
  arg0 : Nat
  arg1 : DWord
  arg2 : DWord
  /-- A beacon operation's frame has entered the send queue, and its SEQ once it has been sent (R395). -/
  sent : Bool
  numbered : Option Word
  /-- A BAR frame has been applied, and `arg1` is the generation that it joined; or it was refused (R402). -/
  applied : Bool
  bad : Bool
  /-- The bough cycle in which what a beacon operation waits for came to pass on its die (R398, R403). -/
  ended : Option Nat
  opseq : Word
  /-- The die's clock vector at issue (R140), and the number of the next write then; of a later moment where the bough has since made
  an access that it issued before (R143). -/
  snap : List Nat
  cut : Nat
  deriving DecidableEq, Repr

/-! ### Copies (R304, R310) -/

/-- What a copy-engine operation does (Table 9.1); `convert` carries its format slot. -/
inductive CopyForm where
  | plain | relay | multi | gather | scatter | fill
  | convert (slot : FSlot)
  | cancel
  | stamp (mark : Nat)
  deriving DecidableEq, Repr

/-- How far a copy is. -/
inductive CopyLife where
  /-- In the request queue of its core (R310). -/
  | waiting
  | running
  /-- Refused or of no bytes: completes at issue + 2 (R304, R305). -/
  | empty
  /-- Beyond its bough's limit: completes at issue + 2 (R310). -/
  | over
  deriving DecidableEq, Repr

/-- A fault of a copy: its row, its address, its cause and AUX (R315). -/
structure CopyFault where
  row : Nat
  at_ : Int
  cause : Byte × DWord
  deriving DecidableEq, Repr

/-- A row to be written: its number, the offset of its start, and its bytes, none where one faults. -/
structure CopyRow where
  row : Nat
  start : Int
  bytes : List (Option Byte)
  deriving DecidableEq, Repr

/-- How far a running copy is (R148, R149): the words of its index list once read, the source bytes read, row by row
(none: yet to be read; no byte: it faulted), the rows ready to be written, the lines and words of its targets that it is done with (by target and
unit), side records still to write (row, address, bytes), its writes of global memory, and the flags and faults met: of
the source, and of each target. -/
structure CopyProgress where
  index : Option (List (Option Nat))
  got : List (List (Option (Option Byte)))
  rows : List CopyRow
  landed : List (Nat × Int)
  sides : List (Nat × Nat × List Byte)
  sent : List Nat
  flags : Flags
  faults : List CopyFault
  putFaults : List (Nat × CopyFault)
  /-- Its data has started to move; its last byte has landed (R309). -/
  begun : Bool
  landedAll : Bool
  /-- Which of the increments that it makes have been posted, by their number (R307). -/
  posted : List Nat
  deriving DecidableEq, Repr

/-- A copy-engine operation with every scalar register it names as read at issue (R304): its two addresses with the
registers that complete them, its shape pair, its index-list register and its named grove. -/
structure CopyOp where
  bough : Nat
  issued : Nat
  issuedCc : Nat
  order : Nat
  pc : DWord
  asid : Nat
  bid : Word
  form : CopyForm
  src : DWord
  src1 : DWord
  dst : DWord
  dst1 : DWord
  dst2 : DWord
  shape0 : DWord
  shape1 : DWord
  idx : DWord
  named : DWord
  flag : Nat
  inc : Nat
  loc : Nat
  tag : Nat
  life : CopyLife
  refused : Bool
  cancelled : Bool
  /-- Copies that a cpyx waits for (R312). -/
  awaits : List Nat
  /-- The launch engine's, which counts against no bough (R352). -/
  preload : Bool
  /-- The place in issue order from which on it owns its destination lines (R147, R310). -/
  owns : Option Nat
  progress : CopyProgress
  deriving DecidableEq, Repr

/-- Nothing read, nothing written. -/
def CopyProgress.start : CopyProgress :=
  { index := none, got := [], rows := [], landed := [], sides := [], sent := [], flags := 0, faults := [], putFaults := [], begun := false, landedAll := false,
    posted := [] }

/-! ### Matrix operations (R330, R331) -/

/-- The matrix operations (Table 10.1). -/
inductive MatKind where
  | mma | mmag | mmas | mmags | mmap | mzero | mtr | mtrSp | mscl
  deriving DecidableEq, Repr

/-- A fault that the fetch stage has met (R336, R337): cause, the address of the byte that faulted where one did, AUX, lanes. -/
structure MatFault where
  cause : Byte
  va : Option DWord
  aux : DWord
  lanes : Mask
  deriving DecidableEq, Repr

/-- What the fetch stage has read: A by rows, B by columns, the live chunks (the scales of mscl stand in `a`), the stage
lengths in core cycles (Table 10.6), the flags and the faults. -/
structure Fetched where
  a : List (List FVal)
  b : List (List FVal)
  live : List Bool
  fetchCc : Nat
  arrayCc : Nat
  flags : Flags
  faults : List MatFault
  deriving DecidableEq, Repr

/-- An entry of the matrix queue. -/
structure MatOp where
  bough : Nat
  issued : Nat
  pc : DWord
  asid : Nat
  bid : Word
  iids : Lanes
  kind : MatKind
  tile : Nat
  fsa : FSlot
  fsb : FSlot
  fsc : FSlot
  da : DWord
  db : DWord
  idx : Lanes
  act : Mask
  mod : BitVec 8
  flag : Nat
  inc : Nat
  tag : Nat
  /-- The bough's number of the bundle that issued it. -/
  seq : Nat
  fetched : Option Fetched
  /-- Bough cycles in which the fetch and the array began. -/
  fb : Option Nat
  ab : Option Nat
  /-- Core cycles that its stage has lost to other traffic in the banks of its words (Table 10.6). -/
  shared : Nat
  /-- What the partition held when the fetch could first read it, of which a word may be what it reads (R333). -/
  seen : Option (List Host.Cell)
  /-- The draw by which some spilled words land before the others (R334, R149). -/
  early : Option Nat
  /-- The core cycle in which a killed operation's array stops (R340). -/
  halt : Option Nat
  deriving DecidableEq, Repr

/-! ### Cores (R32) -/

/-- A line of the read-only L1 (R138). -/
structure L1Line where
  asid : Nat
  line : Nat
  bytes : List Byte
  deriving DecidableEq, Repr

/-- A fetched copy of a bundle (R198): the bough that fetched it, the address space, its address and its bits. -/
structure FetchCopy where
  bough : Nat
  asid : Nat
  va : Nat
  word : BitVec 256
  deriving DecidableEq, Repr

/-- A stamp entry (R439): T0 and the four times, absolute core cycles; the grove whose event it took last. -/
structure Stamp where
  grove : Nat
  t0 : Nat
  cin : Option Nat
  opw : Option Nat
  cmp : Option Nat
  cout : Option Nat
  deriving DecidableEq, Repr

/-- A core. -/
structure Core where
  l1 : List L1Line
  /-- What the fetch buffers of its boughs hold (R198). -/
  fetched : List FetchCopy
  mq : List MatOp
  /-- Operations refused and not yet completed (R330). -/
  refused : List MatOp
  /-- Bough cycle of the last matrix finish on a tile, by 4 × grove + tile (R332). -/
  finished : Table Nat
  /-- By 256 × grove slot + TAG. -/
  stamps : Table Stamp
  deriving DecidableEq, Repr

/-! ### Global memory: views and writes on their way (R131 to R135) -/

/-- A byte of a die's replica: its value, the home order of the write that gave it (0: not yet known), a write of the
die's own not yet performed at its home (0: none), and the die where the value originated. -/
structure RepByte where
  val : Byte
  order : Nat
  own : Nat
  src : Nat
  deriving DecidableEq, Repr

/-- A write on its way: the clock vector it carries, the bytes of one of its elements, what the home held before it, its
place in the home order (0: not yet performed there), and the dies that have yet to apply it. -/
structure Write where
  origin : Nat
  clock : List Nat
  size : Nat
  cells : List Host.Cell
  old : List Host.Cell
  home : Nat
  order : Nat
  todo : List Nat
  bough : Nat
  deriving DecidableEq, Repr

/-- A translation held by a die (R127). -/
structure TlbEntry where
  asid : Nat
  va : Nat
  size : Nat
  pa : Nat
  w : Bool
  x : Bool
  deriving DecidableEq, Repr

/-! ### Dies -/

/-- An entry of the barrier table (R402). -/
structure BarEntry where
  a : Nat
  nb : Nat
  g : Word
  deriving DecidableEq, Repr

/-- A trace record waiting to be written (R437), and its bough. -/
structure TraceRec where
  bits : BitVec 256
  bough : Nat
  deriving DecidableEq, Repr

/-- What a flit is for (R371, R411, R418). -/
inductive FlitOp where
  | load | store | atomic | copy | word | credit | post | update | spdm
  /-- The delivery acknowledgement of a trust engine (R418). -/
  | ack
  deriving DecidableEq, Repr

/-- Whether a flit asks or answers (R371, R416). -/
inductive FlitStatus where
  | request | done | reject
  deriving DecidableEq, Repr

/-- The transaction fields of a flit (Table 12.1): operation, the requester's tag, length, status, the physical address where it is
for one; and the epoch under which what it answers was sent. -/
structure Transaction where
  op : FlitOp
  tag : Nat
  length : Nat
  status : FlitStatus
  pa : Option Nat
  answers : Nat
  deriving DecidableEq, Repr

/-- A flit (Table 12.1). `body` is its payload, ciphertext when EPOCH is not 0; `reply` is the payload of the response that its
destination will give. -/
structure Flit where
  seq : BitVec 24
  kind : BitVec 8
  ack : BitVec 24
  nak : Bool
  cls : BitVec 2
  vc : Bool
  da : Nat
  sa : Nat
  tseq : Nat
  epoch : Nat
  tag : BitVec 128
  body : List Byte
  tx : Transaction
  reply : List Byte
  /-- The members of a multicast flit, by die address (R377). -/
  members : List Nat
  /-- Its place among the flits that left its source (R376). -/
  order : Nat := 0
  deriving DecidableEq, Repr

/-- An entry of a multicast buffer (R377): the link over which it came, and the links still owed a copy, each with the members
beyond it. -/
structure McastEntry where
  flit : Flit
  cameBy : Option Nat
  owed : List (Nat × List Nat)
  deriving DecidableEq, Repr

/-- The TSEQ accepted from one sender, class and epoch (R416): the highest, and those of its window with their tags. -/
structure SeqWindow where
  sa : Nat
  cls : Nat
  epoch : Nat
  top : Nat
  seen : List (Nat × BitVec 128)
  deriving DecidableEq, Repr

/-- A reorder found by a die (R134): address of the element, the die where the write now first originated, the other's;
the launch it concerns and the core cycle. -/
structure Switch where
  addr : Nat
  first : Nat
  second : Nat
  launch : Nat
  time : Nat
  deriving DecidableEq, Repr

/-- A die. -/
structure Die where
  clock : List Nat
  rep : Table RepByte
  /-- Reorders whose records are yet to be written (R134, R447). -/
  reorders : List Switch
  tlb : List TlbEntry
  flagTab : Table DWord
  barTab : Table BarEntry
  /-- Frames forwarded by die 0 and not yet applied (R398), the last SEQ applied, and its wraps (R397). -/
  toApply : List (BitVec 512)
  lastSeq : Word
  wraps : Nat
  /-- The core cycle of the last application, plus 1 (R398), and the epoch that the die no longer accepts (R418). -/
  appliedCc : Nat
  closed : Nat
  /-- The bough cycle (plus 1) of the compatibility unit's last acceptances, and how many they were (R461). -/
  compatBc : Nat
  compatUsed : Nat
  /-- Record-engine registers (Table 15.1). -/
  logBase : DWord
  logCtl : DWord
  logWr : Nat
  logRd : Nat
  lostCnt : Nat
  gapLost : Nat
  gap : Bool
  diverged : Bool
  /-- Offsets of records written into the reserve and not yet consumed (RSV). -/
  reserve : List Nat
  playBase : DWord
  playLen : DWord
  /-- Records of the replay input already followed, by their number. -/
  played : List Nat
  trBase : DWord
  trCtl : DWord
  trWr : Nat
  trLost : Nat
  pgLost : Bool
  bufDrop : Bool
  lostVa : Nat
  /-- A LOSS record is due before the next trace record (R438). -/
  lossDue : Bool
  pending : List TraceRec
  /-- Bit c of DBGSTOP. -/
  dbgStop : Mask
  /-- TSEQ counters, by 4 × epoch + class (R415). -/
  tseq : Table Nat
  windows : List SeqWindow
  temp : BitVec 16
  power : BitVec 32
  mcast : Table McastEntry
  nextMcast : Nat
  /-- Multicast flits of the die's own that wait for room in the buffer. -/
  mcastWait : List Flit
  /-- Flits that have left the die; and flits that have come to it before older ones of their source and class (R376). -/
  nextFlit : Nat
  early : List Flit
  /-- By epoch: sealed flits that the die has sent and that have not been acknowledged (R418). -/
  owed : Table Nat
  deriving DecidableEq, Repr

/-! ### Links (12_fabric.md) -/

/-- One end of a link: its sending direction, and what it has received. -/
structure Link where
  en : Bool
  park : BitVec 4
  wthr : BitVec 16
  /-- Groups of the sending direction: active, failed, waking, parked. -/
  active : BitVec 4
  failed : BitVec 4
  waking : BitVec 4
  parked : BitVec 4
  /-- Wavelengths with light in the receiving direction. -/
  light : BitVec 16
  lols : Nat
  replayed : Nat
  nextSeq : BitVec 24
  unacked : List Flit
  /-- How many of `unacked` have been sent since the last replay began. -/
  sent : Nat
  /-- What waits to be sent, class by class in the order of each (R373); the class of the last flit taken, and control flits,
  which go first (R384, R385). -/
  queue : List Flit
  lastCls : BitVec 2
  control : List (List Byte)
  /-- The first sequence number that is cut under the present active set (R384). -/
  boundary : BitVec 24
  attempts : Nat
  down : Bool
  /-- Receiving direction: the last sequence in order, and a NAK owed. -/
  rxSeq : BitVec 24
  nakOwed : Bool
  /-- NAKs, loss notices (group, last in order) that have arrived at the sender, and the end of a pause. -/
  naks : List (BitVec 24)
  notices : List (Nat × BitVec 24)
  pauseTo : Option Nat
  wakeFrom : Option Nat
  parkWanted : Option (BitVec 4)
  /-- A change of the active set to come: the first sequence number to be cut under the new set, and whether the far end's control flit
  has agreed it (R384). -/
  pendingSet : Option (BitVec 24 × Bool) := none
  deriving DecidableEq, Repr

/-! ### Modules -/

/-- A frame in the send queue, or waiting in its engine for it (R394): what it says, and the operation it answers (0: none). -/
structure QFrame where
  type : Nat
  sdie : Nat
  payload : BitVec 288
  op : Nat
  deriving DecidableEq, Repr

/-- The lamp while a member holds it (R395). -/
structure Lamp where
  seq : Word
  lampc : DWord
  recov : Bool
  since : Nat
  deriving DecidableEq, Repr

/-- What a module says that it can do (Table 14.2). -/
inductive SpdmCap where
  | cert | meas | chal | keyEx | mutAuth | encrypt | mac | chunk
  deriving DecidableEq, Repr

/-- The traffic that a module sent before it left its domain: the core cycle at which it left, the domain, the epoch and the
key (R419). -/
structure LeftDomain where
  at_ : Nat
  tdom : Nat
  epoch : Nat
  key : BitVec 256
  deriving DecidableEq, Repr

/-- How far an SPDM exchange of a requester with one module has come (R411): messages answered in the order of Table 14.2,
whether the last answer was an ERROR, the capabilities that the module has named, what has been verified, and whether the session
stands. -/
structure Session where
  stage : Nat
  error : Bool
  caps : List SpdmCap
  certOk : Bool
  /-- Measurement indices whose signed digest is the expected one. -/
  measured : List Nat
  keyed : Bool
  secured : Bool
  deriving DecidableEq, Repr

/-- A re-key in progress on a member (R418). -/
structure Rekey where
  epoch : Nat
  slots : BitVec 64
  seq : Word
  /-- The REKEY frame has been received or sent. -/
  got : Bool
  /-- Core cycle in which the REKEY frame was applied on die 0. -/
  appliedCc : Option Nat
  barSent : Bool
  /-- Slots whose BAR frame on 0xFFF die 0 has applied (R419). -/
  arrived : List Nat
  deriving DecidableEq, Repr

/-- A module. -/
structure Module where
  /-- MSTAT: 0 boot, 1 run, 2 boot failed, 3 frozen, 4 thermal trip (R465). -/
  mstate : Nat
  pstate : Nat
  throt : Bool
  fwErr : Byte
  eqLost : Nat
  preq : BitVec 2
  compDis : BitVec 24
  /-- The firmware's address, whether the host has written it since reset (R466), and its length. -/
  fwAddr : DWord
  fwGiven : Bool
  fwLen : DWord
  eqBase : DWord
  eqCtl : DWord
  eqWr : Nat
  eqRd : Nat
  eqPhase : Bool
  /-- Events that wait while the ring is full: source and record (R468). -/
  waiting : List (Nat × BitVec 512)
  /-- MSI-X requests raised so far. -/
  msix : Nat
  lqAsid : DWord
  parg : DWord
  psave : DWord
  /-- Commands that wait for window writes (R473): PCMD with PARG and PSAVE as they were. -/
  commands : List (DWord × DWord × DWord)
  hwin : DWord
  asel : DWord
  tiBase : DWord
  tiLen : DWord
  /-- Root tables by ASID: as written, and as in force (R467). -/
  roots : Table Nat
  rootsLive : Table Nat
  /-- Invalidations queued: ASID, first address, bytes. -/
  invals : List (Nat × Nat × Nat)
  /-- Launch queues by number: launches, the head first (R346). -/
  queues : Table (List Nat)
  /-- Predecessor words found done, by launch (R347). -/
  ready : List Nat
  bcfg : DWord
  btim : DWord
  sendQ : List QFrame
  /-- Frames on their way to this receiver, oldest first. -/
  air : List (BitVec 512)
  ring : Table (BitVec 512)
  /-- Highest SEQ received or sent in order, and the highest of any frame seen. -/
  held : Word
  seen : Word
  lamp : Option Lamp
  lampc : DWord
  holder : Nat
  lastFrame : Nat
  gapHold : Bool
  recov : Bool
  /-- LAMPC of the LAMP frame with which this member has begun a recovery round (R401). -/
  regenerator : Option DWord
  /-- Frames to repeat at the next turn (R400). -/
  repeats : List Nat
  /-- The sender of the last frame received (R401), and whether the group has formed with this member in it (R392). -/
  lastSrc : Nat
  formed : Bool
  tcfg : DWord
  /-- The domain of a member and its slot, as it was admitted (R413). -/
  tdomain : Nat
  tslot : Nat
  left : Option LeftDomain
  tstate : Nat
  epoch : Nat
  rejects : Nat
  /-- Egress windows: words 0 and 1 (R420). -/
  egress : Vector (DWord × DWord) 8
  /-- Keys held by epoch, at most two (R414). -/
  keys : Table (BitVec 256)
  slots : BitVec 64
  leadSlot : Nat
  sessions : Table Session
  rekey : Option Rekey
  /-- A joiner that has yet to receive the tables (R399, R414). -/
  joining : Bool
  /-- An epoch beside its own under which frames have come to it, 0 for none: a REKEY frame has been sent, seen here or not (R407). -/
  seenEpoch : Nat := 0
  /-- Measurements 2 and 3 (R410), empty before they are taken. -/
  fwDigest : List Byte
  cfgDigest : List Byte
  clkStep : Nat
  tripped : Bool
  frozenAt : Option Nat
  /-- The host's physical memory as this module reaches it, and what its last read of the window returned. -/
  hostMem : Memory
  hostData : List Byte
  hostPoisoned : Bool
  deriving DecidableEq, Repr

/-! ### Messages -/

/-- What travels between cores, launch engines and channels. -/
inductive MsgKind where
  /-- A record handed to a queue (R199, R465): module, queue, address, ASID, and the `launch` operation (0: the host). -/
  | submit (m queue : Nat) (va : DWord) (asid op : Nat)
  /-- An increment for the flag of a named grove (R173), sent in the core cycle `since`. -/
  | postr (launch : Nat) (name : DWord) (flag n bough since : Nat)
  /-- A channel word for a grove's endpoint (R380). -/
  | word (grove endpoint : Nat) (lanes : Lanes) (since : Nat)
  /-- A credit for a grove's endpoint. -/
  | credit (grove endpoint since : Nat)
  deriving DecidableEq, Repr

/-- The bundle that is issuing (the model's own; entry 2). -/
structure Issue where
  bough : Nat
  bundle : Bundle
  /-- The extensions of `ximm` (R61). -/
  vx : BitVec 23
  mx : BitVec 16
  hasXimm : Bool
  /-- Transfer chosen by the control slot: a taken target, or a next bundle without delay slots. -/
  taken : Option DWord
  jump : Option DWord
  /-- brk popped a level, so end_iteration is not applied (R167, R168). -/
  popped : Bool
  /-- A trap to enter once the bundle has issued (R193). -/
  trap : Option (Word × DWord)
  giveUp : Bool
  returned : Bool
  deriving DecidableEq, Repr

/-- The state of the system. Modules, dies, cores and links that no entry names are as after reset. -/
structure State where
  /-- The module core-cycle count (R3, R426). -/
  cc : Nat
  /-- Modules of the system (R122). -/
  moduleCount : Nat
  /-- Physical memory by 62-bit address: every line as its home holds it (R122). -/
  mem : Memory
  /-- Poisoned lines, by physical address / 128 (R123). -/
  poison : List Nat
  modules : Table Module
  dies : Table Die
  cores : Table Core
  links : Table Link
  launches : Table Launch
  groves : Table Grove
  boughs : Table Bough
  ops : Table GOp
  copies : Table CopyOp
  writes : Table Write
  msgs : Table MsgKind
  /-- The model's own counters: what is in flight, home order, and free values. -/
  nextOp : Nat
  nextOrder : Nat
  free : Nat
  /-- Events of open time still to come, each with its earliest core cycle (assumption 1). -/
  agenda : List (Nat × Instr)
  cur : Issue
  deriving DecidableEq, Repr

/-! ### After reset -/

/-- A core after reset (R466): nothing held. -/
def Core.initial : Core := { l1 := [], fetched := [], mq := [], refused := [], finished := [], stamps := [] }

/-- A die after reset (R466). -/
def Die.initial : Die :=
  { clock := List.replicate 24 0, rep := [], reorders := [], tlb := [], flagTab := [], barTab := [], toApply := [], lastSeq := 0,
    wraps := 0, appliedCc := 0, closed := 0, compatBc := 0, compatUsed := 0, logBase := 0, logCtl := 0, logWr := 0, logRd := 0,
    lostCnt := 0, gapLost := 0, gap := false, diverged := false, reserve := [], playBase := 0, playLen := 0,
    played := [], trBase := 0, trCtl := 0, trWr := 0, trLost := 0, pgLost := false, bufDrop := false, lostVa := 0, lossDue := false,
    pending := [], dbgStop := 0, tseq := [], windows := [], temp := 0, power := 0, mcast := [], nextMcast := 0, mcastWait := [],
    nextFlit := 0, early := [], owed := [] }

/-- A link end after reset: enabled (R390), lit and active on every wavelength (assumption 9). -/
def Link.initial : Link :=
  { en := true, park := 0, wthr := 0, active := 0xF, failed := 0, waking := 0, parked := 0, light := 0xFFFF, lols := 0,
    replayed := 0, nextSeq := 1, unacked := [], sent := 0, queue := [], lastCls := 3, control := [], boundary := 1, attempts := 0, down := false, rxSeq := 0,
    nakOwed := false, naks := [], notices := [], pauseTo := none, wakeFrom := none, parkWanted := none }

/-- A module after reset: STATE 0, waiting for its firmware (R466); GUARD 4,000 (R393). -/
def Module.initial : Module :=
  { mstate := 0, pstate := 0, throt := false, fwErr := 0, eqLost := 0, preq := 0, compDis := 0, fwAddr := 0, fwGiven := false, fwLen := 0,
    eqBase := 0, eqCtl := 0, eqWr := 0, eqRd := 0, eqPhase := true, waiting := [], msix := 0, lqAsid := 0, parg := 0,
    psave := 0, commands := [], hwin := 0, asel := 0, tiBase := 0, tiLen := 0, roots := [], rootsLive := [], invals := [],
    queues := [], ready := [], bcfg := 0, btim := 4000, sendQ := [], air := [], ring := [], held := 0, seen := 0,
    lamp := none, lampc := 0, holder := 0, lastFrame := 0, gapHold := false, recov := false, regenerator := none,
    repeats := [], lastSrc := 0, formed := false, tcfg := 0, tdomain := 0, tslot := 0, left := none, tstate := 0, epoch := 0, rejects := 0,
    egress := Vector.replicate 8 (0, 0), keys := [], slots := 0, leadSlot := 0, sessions := [], rekey := none, joining := false,
    fwDigest := [], cfgDigest := [], clkStep := 0, tripped := false, frozenAt := none,
    hostMem := [], hostData := [], hostPoisoned := false }

/-- No bundle is issuing. -/
def Issue.idle : Issue :=
  { bough := 0, bundle := Bundle.empty, vx := 0, mx := 0, hasXimm := false, taken := none, jump := none,
    popped := false, trap := none, giveUp := false, returned := false }

/-- The system right after reset (R466): HBM clear, every table empty, no event to come. -/
def State.reset : State :=
  { cc := 0, moduleCount := 131072, mem := [], poison := [], modules := [], dies := [], cores := [], links := [],
    launches := [], groves := [], boughs := [], ops := [], copies := [], writes := [], msgs := [], nextOp := 1,
    nextOrder := 1, free := 0, agenda := [], cur := Issue.idle }

end Sys2Proof.Machine
end

