-- ==== Sys2Proof/Machine/Ops.lean ====
section
/-!
DEFINITION. The named operations over the state: tables, memory, the lifters that change one thing at a time, register
reads and writes, results in flight, counting flags, and taking a trap and returning from one (R192, R195), each once.
-/
namespace Sys2Proof.Machine

/-! ### Tables: rising keys -/

/-- The entry of a key. -/
def tget {α : Type} (t : Table α) (k : Nat) : Option α := t.lookup k

/-- The table with the entry of a key written; keys stay rising. -/
def tput {α : Type} : Table α → Nat → α → Table α
  | [], k, x => [(k, x)]
  | (j, y) :: t, k, x => if k < j then (k, x) :: (j, y) :: t else if k = j then (k, x) :: t else (j, y) :: tput t k x

/-- The table without a key. -/
def tdel {α : Type} (t : Table α) (k : Nat) : Table α := t.filter fun e => e.1 != k

/-- The table with the entry of a key changed, unchanged where there is none. -/
def tmod {α : Type} (t : Table α) (k : Nat) (f : α → α) : Table α :=
  t.map fun e => if e.1 = k then (e.1, f e.2) else e

/-- The entry of a key, or what stands for a key without one. -/
def tgetD {α : Type} (t : Table α) (k : Nat) (d : α) : α := (tget t k).getD d

/-- The table with the entry of a key changed, from `d` where there is none. -/
def tupd {α : Type} (t : Table α) (k : Nat) (d : α) (f : α → α) : Table α := tput t k (f (tgetD t k d))

/-- A vector with one entry changed. -/
def vmod {α : Type} {n : Nat} (v : Vector α n) (k : Nat) (f : α → α) : Vector α n :=
  v.mapIdx fun i x => if i = k then f x else x

/-! ### Memory -/

/-- One byte; an unlisted address reads as zero (R466 clears it). -/
def readByte (m : Memory) (a : Nat) : Byte := (m.lookup a).getD 0

/-- One byte written, in canonical form. -/
def writeByte : Memory → Nat → Byte → Memory
  | [], a, x => if x = 0 then [] else [(a, x)]
  | (b, y) :: m, a, x =>
    if a < b then (if x = 0 then (b, y) :: m else (a, x) :: (b, y) :: m)
    else if a = b then (if x = 0 then m else (a, x) :: m)
    else (b, y) :: writeByte m a x

/-- Bytes from an address up. -/
def readBytes (m : Memory) (a n : Nat) : List Byte := (List.range n).map fun i => readByte m (a + i)

/-- Bytes written from an address up, the first lowest. -/
def writeBytes : Memory → Nat → List Byte → Memory
  | m, _, [] => m
  | m, a, x :: xs => writeBytes (writeByte m a x) (a + 1) xs

/-- Listed cells written one after another. -/
def writeCells (m : Memory) (cs : List Host.Cell) : Memory := cs.foldl (fun m c => writeByte m c.1 c.2) m

/-- A little-endian number of `n` bytes (R1). -/
def readNum (m : Memory) (a n : Nat) : Nat := natOfBytes (readBytes m a n)

/-- The cells of a little-endian number. -/
def numCells (a n x : Nat) : List Host.Cell := (bytesOfNat n x).zipIdx.map fun e => (a + e.2, e.1)

/-! ### Time (R23) -/

/-- The bough cycle. -/
def State.bc (s : State) : Nat := s.cc / 4

/-! ### Lifters: one thing changed, nothing where the key names nothing -/

/-- A bough. -/
def State.bough? (s : State) (k : Nat) : Option Bough := tget s.boughs k
/-- Change a bough. -/
def State.onBough (s : State) (k : Nat) (f : Bough → Bough) : State := { s with boughs := tmod s.boughs k f }
/-- A grove. -/
def State.grove? (s : State) (k : Nat) : Option Grove := tget s.groves k
/-- Change a grove. -/
def State.onGrove (s : State) (k : Nat) (f : Grove → Grove) : State := { s with groves := tmod s.groves k f }
/-- A core; one that nothing has changed is as after reset. -/
def State.core (s : State) (k : Nat) : Core := tgetD s.cores k Core.initial
/-- Change a core. -/
def State.onCore (s : State) (k : Nat) (f : Core → Core) : State := { s with cores := tupd s.cores k Core.initial f }
/-- A die. -/
def State.die (s : State) (d : Nat) : Die := tgetD s.dies d Die.initial
/-- Change a die. -/
def State.onDie (s : State) (d : Nat) (f : Die → Die) : State := { s with dies := tupd s.dies d Die.initial f }
/-- A module. -/
def State.module (s : State) (m : Nat) : Module := tgetD s.modules m Module.initial
/-- Change a module. -/
def State.onModule (s : State) (m : Nat) (f : Module → Module) : State :=
  { s with modules := tupd s.modules m Module.initial f }
/-- A link end. -/
def State.link (s : State) (k : Nat) : Link := tgetD s.links k Link.initial
/-- Change a link end. -/
def State.onLink (s : State) (k : Nat) (f : Link → Link) : State := { s with links := tupd s.links k Link.initial f }
/-- Change a copy. -/
def State.onCopy (s : State) (k : Nat) (f : CopyOp → CopyOp) : State := { s with copies := tmod s.copies k f }
/-- Change a write on its way. -/
def State.onWrite (s : State) (k : Nat) (f : Write → Write) : State := { s with writes := tmod s.writes k f }
/-- Change a launch. -/
def State.onLaunch (s : State) (k : Nat) (f : Launch → Launch) : State := { s with launches := tmod s.launches k f }
/-- Change an operation in flight. -/
def State.onOp (s : State) (k : Nat) (f : GOp → GOp) : State := { s with ops := tmod s.ops k f }

/-- A fresh number for something in flight. -/
def State.fresh (s : State) : Nat × State := (s.nextOp, { s with nextOp := s.nextOp + 1 })

/-! ### Events to come -/

/-- An event at a core cycle that the manual fixes. -/
def State.atTime (s : State) (cc : Nat) (i : Instr) : State := { s with agenda := s.agenda ++ [(cc, i)] }

/-- An event of open time, no earlier than a core cycle (assumption 1). -/
def State.later (s : State) (cc : Nat) (i : Instr) : State :=
  { s with agenda := s.agenda ++ [(cc + Config.delay s.free, i)], free := s.free + 1 }

/-- Events of open time. -/
def State.laterAll (s : State) (cc : Nat) (is : List Instr) : State := is.foldl (fun s i => s.later cc i) s

/-- An event of open time within a bound of core cycles. -/
def State.within (s : State) (cc bound : Nat) (i : Instr) : State :=
  { s.atTime (cc + Config.delay s.free % (bound + 1)) i with free := s.free + 1 }

/-! ### Keys -/

/-- Key of bough `b` of a grove. -/
def boughKey (grove b : Nat) : Nat := grove * 16 + b
/-- The grove of a bough key. -/
def groveOf (bough : Nat) : Nat := bough / 16
/-- Key of a launch's grove. -/
def groveKey (launch ordinal : Nat) : Nat := launch * 2 ^ 24 + ordinal
/-- The die address of a core. -/
def dieOf (core : Nat) : Nat := core / 64
/-- The module of a die address. -/
def moduleOf (die : Nat) : Nat := die / 32

/-- The die on which a grove stands. -/
def Grove.die (g : Grove) : Nat := dieOf g.core

/-! ### Records and headers (Tables 11.1 to 11.3) -/

/-- `n` bytes at an offset of a 256-byte record. -/
def recField (r : BitVec 2048) (off n : Nat) : Nat := r.toNat / 2 ^ (8 * off) % 2 ^ (8 * n)

namespace Launch
/-- Revision of the kernel (R459). -/
def rev (l : Launch) : Nat := recField l.header 2 1
/-- Main-register allotment (R69). -/
def allot (l : Launch) : Nat := 32 * recField l.header 3 1
/-- Boughs per grove. -/
def boughsPer (l : Launch) : Nat := recField l.header 4 1
/-- Flag block size. -/
def flagBlock (l : Launch) : Nat := recField l.header 5 1
/-- Tiles of a grove. -/
def tileCount (l : Launch) : Nat := recField l.header 6 1
/-- Function tables of a grove. -/
def tableCount (l : Launch) : Nat := recField l.header 7 1
/-- Partition bytes. -/
def scratchBytes (l : Launch) : Nat := recField l.header 8 4
/-- Stages. -/
def stageCount (l : Launch) : Nat := recField l.header 12 1
/-- KADDR. -/
def kaddr (l : Launch) : DWord := BitVec.ofNat 64 (recField l.record 0 8)
/-- Address of the refill point. -/
def refillPoint (l : Launch) : DWord := l.kaddr + BitVec.ofNat 64 (recField l.header 16 4)
/-- TVEC offset. -/
def tvecOffset (l : Launch) : Nat := recField l.header 20 4
/-- Entry point of a stage. -/
def entry (l : Launch) (i : Nat) : DWord := l.kaddr + BitVec.ofNat 64 (recField l.header (24 + 8 * i) 4)
/-- Item width of a stage. -/
def itemWidth (l : Launch) (i : Nat) : Nat := recField l.header (28 + 8 * i) 1
/-- Drain threshold of a queue, 0 when it is not declared. -/
def drainAt (l : Launch) (q : Nat) : Nat := recField l.header (92 + 8 * q) 1
/-- Capacity of a queue. -/
def capacity (l : Launch) (q : Nat) : Nat := recField l.header (94 + 8 * q) 2
/-- Handler of a queue. -/
def handler (l : Launch) (q : Nat) : DWord := l.kaddr + BitVec.ofNat 64 (recField l.header (88 + 8 * q) 4)
/-- A format slot bound by the record. -/
def fslot (l : Launch) (n : Nat) : FSlot := { raw := BitVec.ofNat 64 (recField l.record (112 + 8 * n) 8) }
/-- The random seed. -/
def seed (l : Launch) : DWord := BitVec.ofNat 64 (recField l.record 16 8)
/-- CTL (Table 11.3). -/
def ctl (l : Launch) : Nat := recField l.record 24 8
/-- Trap enables. -/
def fpen (l : Launch) : Flags := BitVec.ofNat 6 (l.ctl / 2 ^ 13)
/-- ALLSTOP. -/
def allStop (l : Launch) : Bool := l.ctl.testBit 12
/-- TRFAULT. -/
def trFault (l : Launch) : Bool := l.ctl.testBit 11
/-- LOGGAP. -/
def gapMode (l : Launch) : Bool := l.ctl.testBit 10
/-- DET. -/
def det (l : Launch) : Bool := l.ctl.testBit 9
/-- REPLAY. -/
def replay (l : Launch) : Bool := l.ctl.testBit 8
/-- NPARAM. -/
def nparam (l : Launch) : Nat := l.ctl % 256
/-- NPRED. -/
def npred (l : Launch) : Nat := l.ctl / 2 ^ 24 % 8
/-- The watchdog limit in core cycles (Table 11.3). -/
def wdog (l : Launch) : Nat := if l.ctl / 2 ^ 19 % 32 = 0 then 2 ^ 24 else 2 ^ (l.ctl / 2 ^ 19 % 32)
/-- FAULTS. -/
def faultsVa (l : Launch) : Nat := recField l.record 32 8
/-- EVT. -/
def evt (l : Launch) : Nat := recField l.record 48 8
/-- PRED(j). -/
def pred (l : Launch) (j : Nat) : Nat := recField l.record (56 + 8 * j) 8
/-- RLEN. -/
def rlen (l : Launch) : Nat := recField l.record 40 8 % 2 ^ 40
/-- RFMT: the region holds BF16. -/
def rbf16 (l : Launch) : Bool := (recField l.record 40 8).testBit 40
/-- TDOM. -/
def tdom (l : Launch) : Nat := recField l.record 46 2
/-- RBASE. -/
def rbase (l : Launch) : Nat := recField l.record 88 8
/-- RSHADOW. -/
def rshadow (l : Launch) : Nat := recField l.record 96 8
/-- PLACE. -/
def place (l : Launch) : Nat := recField l.record 104 8
/-- First module of the span. -/
def mfirst (l : Launch) : Nat := l.place % 2 ^ 17
/-- Modules of the span. -/
def mcount (l : Launch) : Nat := l.place / 2 ^ 17 % 2 ^ 17 + 1
/-- CHANP. -/
def chanp (l : Launch) : Nat := l.place / 2 ^ 34 % 256
/-- PREN. -/
def pren (l : Launch) : Bool := l.place.testBit 42
/-- PRELD. -/
def preld (l : Launch) : Nat := l.place / 2 ^ 43 % 256
/-- ITEMS of a stage. -/
def items (l : Launch) (i : Nat) : Nat := recField l.record (176 + 10 * i) 4
/-- NX, NY, NZ of a stage. -/
def gridOf (l : Launch) (i : Nat) : Nat × Nat × Nat :=
  (recField l.record (180 + 10 * i) 2, recField l.record (182 + 10 * i) 2, recField l.record (184 + 10 * i) 2)
/-- Groves of a stage. -/
def stageGroves (l : Launch) (i : Nat) : Nat := let g := l.gridOf i; g.1 * g.2.1 * g.2.2
/-- Groves of the launch. -/
def groveCount (l : Launch) : Nat := ((List.range l.stageCount).map l.stageGroves).sum
/-- Priority of the launch's queue (R346). -/
def prio (l : Launch) : Nat := l.queue / 16
/-- Whether an ordinal of the stages is an index of the launch, and which: stage and coordinate (R348). -/
def coordOf (l : Launch) : Nat → Nat → Nat → Nat × Nat × Nat × Nat
  | 0, i, n => (i, n, 0, 0)
  | fuel + 1, i, n =>
    if n < l.stageGroves i then
      let g := l.gridOf i
      (i, n % g.1, n / g.1 % g.2.1, n / g.1 / g.2.1)
    else coordOf l fuel (i + 1) (n - l.stageGroves i)
/-- Ordinal of a grove by its name (R174, R348). -/
def ordinalOf (l : Launch) (st x y z : Nat) : Option Nat :=
  let g := l.gridOf st
  if st < l.stageCount && x < g.1 && y < g.2.1 && z < g.2.2 then
    some (((List.range st).map l.stageGroves).sum + x + g.1 * (y + g.2.1 * z))
  else none
end Launch

/-- A word from fields: value, lowest bit, width. -/
def packFields (fs : List (Nat × Nat × Nat)) : Nat := fs.foldl (fun n f => n + f.1 % 2 ^ f.2.2 * 2 ^ f.2.1) 0
/-- A field of a word. -/
def bitsOf (x lo width : Nat) : Nat := x / 2 ^ lo % 2 ^ width

/-- Whether the reserved bits of a grove name are zero (Table 5.2). -/
def nameClean (n : DWord) : Bool := n.toNat / 2 ^ 51 == 0

/-- The ordinal of the grove that a name denotes (Table 5.2, R174). -/
def Launch.named (l : Launch) (n : DWord) : Option Nat :=
  if nameClean n then l.ordinalOf (bitsOf n.toNat 48 3) (bitsOf n.toNat 0 16) (bitsOf n.toNat 16 16) (bitsOf n.toNat 32 16)
  else none

/-- The launch of a grove. -/
def State.launchOf (s : State) (g : Grove) : Option Launch := tget s.launches g.launch

/-- Whether a launch has been killed, or is no more (R367). -/
def State.killedLaunch (s : State) (launch : Nat) : Bool := ((tget s.launches launch).map fun l => l.life == .killed).getD true

/-- Whether an engine operation that a grove's boughs issued is still under way (R22, R46). -/
def State.workOut (s : State) (key : Nat) : Bool :=
  (s.ops.any fun e => groveOf e.2.bough == key) || (s.copies.any fun e => groveOf e.2.bough == key) ||
    s.cores.any fun c => (c.2.mq ++ c.2.refused).any fun m => groveOf m.bough == key

/-! ### Registers (R30, R55, R64) -/

/-- All lanes zero. -/
def zeroLanes : Lanes := Vector.replicate 64 0

namespace Bough
/-- A main register; past v127 reads zero (refused before issue). -/
def vreg (b : Bough) (n : Nat) : Lanes := b.v.toArray.getD n zeroLanes
/-- An operand-file register. -/
def oreg (b : Bough) (n : Nat) : Lanes := b.o.toArray.getD n zeroLanes
/-- A predicate; p0 reads true in every lane (Table 1.4). -/
def pred (b : Bough) (n : Nat) : Mask := if n = 0 then BitVec.allOnes 64 else b.p.toArray.getD n 0
/-- A scalar register; s0 reads zero (Table 1.4). -/
def sreg (b : Bough) (n : Nat) : DWord := if n = 0 then 0 else b.s.toArray.getD n 0
/-- Write a main register. -/
def setV (b : Bough) (n : Nat) (x : Lanes) : Bough := { b with v := b.v.setIfInBounds n x }
/-- Write an operand-file register. -/
def setO (b : Bough) (n : Nat) (x : Lanes) : Bough := { b with o := b.o.setIfInBounds n x }
/-- Write a predicate; a write to p0 is discarded (R64). -/
def setP (b : Bough) (n : Nat) (x : Mask) : Bough := if n = 0 then b else { b with p := b.p.setIfInBounds n x }
/-- Write a scalar register; a write to s0 is discarded (R64). -/
def setS (b : Bough) (n : Nat) (x : DWord) : Bough := if n = 0 then b else { b with s := b.s.setIfInBounds n x }
/-- A predicate field PR (R55). -/
def prMask (b : Bough) (pr : BitVec 4) : Mask :=
  let m := b.pred (pr.extractLsb' 0 3).toNat
  if pr.getLsbD 3 then ~~~m else m
end Bough

/-- The lanes of the active spans of width `w` (R11, R12). -/
def activeLanes (active : Mask) (w : Nat) : Mask :=
  BitVec.ofNat 64 (((List.range 64).filter fun l => active.getLsbD (l / w)).foldl (fun n l => n + 2 ^ l) 0)

/-- A mask from a test of lanes. -/
def maskOf (f : Nat → Bool) : Mask :=
  BitVec.ofNat 64 (((List.range 64).filter f).foldl (fun n l => n + 2 ^ l) 0)

/-- Lanes merged: those of `act` take the new words. -/
def mergeLanes (act : Mask) (new old : Lanes) : Lanes :=
  Vector.ofFn fun l => if act.getLsbD l.val then new.get l else old.get l

/-! ### Results in flight -/

/-- Results kept in issue order. -/
def insertResult : List Result → Result → List Result
  | [], r => [r]
  | x :: xs, r => if r.seq < x.seq then r :: x :: xs else x :: insertResult xs r

/-- A result put in flight. -/
def Bough.addResult (b : Bough) (r : Result) : Bough := { b with results := insertResult b.results r }

/-- A scalar result. -/
def scalarResult (b : Bough) (n : Nat) (x : DWord) (due : Nat) (flags : Flags) : Result :=
  { seq := b.seq, pc := b.pc, path := .none, latched := flags == 0, dest := .scalar n, act := 0, vals := zeroLanes,
    sval := x, due := due, flags := flags, byFlag := false }

/-- A per-lane result of one register. -/
def laneResult (b : Bough) (path : Path) (dest : Dest) (act : Mask) (vals : Lanes) (due : Nat) (flags : Flags) :
    Result :=
  { seq := b.seq, pc := b.pc, path := path, latched := false, dest := dest, act := act, vals := vals,
    sval := 0, due := due, flags := flags, byFlag := false }

/-! ### The host's event ring (R468, R469) -/

/-- Bytes of the event ring. -/
def Module.eqSize (m : Module) : Nat := 2 ^ bitsOf m.eqCtl.toNat 8 5
/-- The ring takes no entry: it is off, or its next entry would meet the oldest unconsumed one. -/
def Module.eqFull (m : Module) : Bool :=
  !m.eqCtl.getLsbD 0 || (m.eqWr + 128) % m.eqSize == m.eqRd % m.eqSize

/-- An entry written (R468). -/
def Module.writeEvent (m : Module) (src : Nat) (r : BitVec 512) : Module :=
  let next := (m.eqWr + 128) % m.eqSize
  { m with
    hostMem := writeBytes m.hostMem (m.eqBase.toNat + m.eqWr)
      (bytesOfNat 64 r.toNat ++ bytesOfNat 64 (src + (if m.eqPhase then 256 else 0))),
    eqWr := next, eqPhase := if next = 0 then !m.eqPhase else m.eqPhase, msix := m.msix + 1 }

/-- An event posted: written, made to wait, or counted in EQLOST. -/
def Module.post (m : Module) (src : Nat) (r : BitVec 512) : Module :=
  if m.waiting.isEmpty && !m.eqFull then m.writeEvent src r
  else if m.waiting.length < Config.eventsWaiting then { m with waiting := m.waiting ++ [(src, r)] }
  else { m with eqLost := min (m.eqLost + 1) (2 ^ 32 - 1) }

/-- Waiting events written as long as the ring has room. -/
def Module.drainEvents : Nat → Module → Module
  | 0, m => m
  | fuel + 1, m =>
    match m.waiting with
    | [] => m
    | e :: rest => if m.eqFull then m else Module.drainEvents fuel (Module.writeEvent { m with waiting := rest } e.1 e.2)

/-- A record of the launch engine (source 5) or the host (source 6) (R469). -/
def State.postLaunch (s : State) (m src kind launch word va : Nat) : State :=
  s.onModule m fun x => x.post src (BitVec.ofNat 512
    (packFields [(kind, 0, 8), (launch, 32, 32), (s.cc, 64, 64), (word, 128, 64), (va, 192, 64)]))

/-- Whether the clocks of a module run (R446, R471). -/
def Module.clocked (m : Module) : Bool := m.frozenAt.isNone && !m.tripped
/-- Whether the blocks of the management region but the control block answer: not after a failed boot (R466); in standby the
trust engine alone does (R470). -/
def Module.answers (m : Module) (trust : Bool) : Bool := m.clocked && m.mstate != 2 && (trust || m.pstate != 2)

/-! ### Taking a trap and returning from one -/

/-- The trap causes of Table 5.4. -/
inductive Cause where
  | illegalBundle | illegalOpcode | illegalOperand | delaySlotControl | misaligned | scratchBounds | pageFault
  | protection | uncorrectable | remoteError | trustReject | illegalState | watchdog | software | logFull | brk
  | bind | channelBroken | fpException | compatFault
  deriving DecidableEq, Repr

/-- Codes of Table 5.4. -/
def Cause.code : Cause → Byte
  | .illegalBundle => 0x01 | .illegalOpcode => 0x02 | .illegalOperand => 0x03 | .delaySlotControl => 0x04
  | .misaligned => 0x05 | .scratchBounds => 0x06 | .pageFault => 0x07 | .protection => 0x08
  | .uncorrectable => 0x09 | .remoteError => 0x0A | .trustReject => 0x0B | .illegalState => 0x0C
  | .watchdog => 0x0D | .software => 0x0E | .logFull => 0x0F | .brk => 0x10 | .bind => 0x11
  | .channelBroken => 0x12 | .fpException => 0x13 | .compatFault => 0x14

/-- The bough without its phase (R42). -/
def Bough.release (b : Bough) (st : Status) : Bough :=
  { b with phase := none, status := st, stretchEnd := none, presented := none, compatAt := none, holds := [] }

/-- Whether a trap is unhandled (R192). -/
def Bough.trapUnhandled (b : Bough) : Bool := b.tstatIn || b.tvec == 0

/-- trap_entry of R192 for a handled trap: what the bough becomes. `argCause` is {arg, cause}; the bough is eligible
from 2 bc after the bough cycle `at_`. -/
def Bough.enterTrap (b : Bough) (argCause : Word) (epc tval : DWord) (frec : BitVec 7) (at_ : Nat) : Bough :=
  { b.release (.waiting (.cycle (at_ + 2))) with
    cause := argCause, epc := epc, tval := tval, frec := frec,
    tstatDsn := b.dsLeft, tdst := b.dsTarget, dsLeft := 0, dsTarget := 0,
    tvmask := b.vmask, vmask := BitVec.allOnes 64, tstatIn := true, pc := b.tvec, earliest := at_ + 2,
    dbgSkip := false }

/-- {arg, cause} of cr.cause: CAUSE 7:0, ARG 31:16 (Table 5.5). -/
def causeWord (c : Byte) (arg : BitVec 16) : Word := arg ++ 0#8 ++ c

/-- Bits 63:5 of an address, as a program counter and a register whose bits 4:0 read zero hold it (R49, Table 5.5). -/
def bundleAddr (x : DWord) : DWord := x &&& ~~~(0x1F#64)

/-- rett (R195): the pc, delay-slot state and lane mask restored; of the pending target the program counter takes bits 63:5 alone
(R49, assumption 140). -/
def Bough.returnTrap (b : Bough) : Bough :=
  { b with pc := b.epc, dsLeft := b.tstatDsn, dsTarget := bundleAddr b.tdst, vmask := b.tvmask, tstatIn := false }

/-- A trap that finds no handler (R192, R366): the bough stops where it stands; the launch engine keeps its report of the bough, the
trap and cr.cause, of which the host's event has room for cr.cause (R469, assumption 22); and the launch reports UNHANDLED. -/
def State.unhandledTrap (s : State) (k : Nat) (trap : Word) : State :=
  let lid := k / 2 ^ 28
  let core := ((s.grove? (k / 16)).map (·.core)).getD 0
  let va := ((tget s.launches lid).map (·.recVa)).getD 0
  let cause := ((s.bough? k).map (·.cause)).getD 0
  ((s.onBough k fun b => b.release .unhandled).onLaunch lid fun l =>
    { l with unhandled := true, reports := l.reports ++ [{ bough := k, trap := trap, cause := cause }] }).postLaunch
    (moduleOf (dieOf core)) 5 0x74 lid cause.toNat va.toNat

/-- trap_entry of R192 on the state: handled, or the bough stops and its launch and host are told (R366). -/
def State.takeTrap (s : State) (k : Nat) (argCause : Word) (epc tval : DWord) (frec : BitVec 7) (at_ : Nat) : State :=
  match s.bough? k with
  | none => s
  | some b =>
    if b.trapUnhandled then s.unhandledTrap k argCause
    else s.onBough k fun b => b.enterTrap argCause epc tval frec at_

/-- A trap at the presented bundle itself, which does not issue (Table 5.4). -/
def State.trapHere (s : State) (k : Nat) (c : Cause) : State :=
  match s.bough? k with
  | none => s
  | some b => s.takeTrap k (causeWord c.code 0) b.pc b.pc 0 s.bc

/-! ### Counting flags (R36 to R40) -/

/-- A flag of a grove; a number past its block reads as clear (refused before issue). -/
def Grove.flag (g : Grove) (k : Nat) : CFlag :=
  g.flags.toArray.getD k { count := 0, e := false, frec := 0, cause := 0, pc := 0 }

/-- wait k, n is satisfied (R38). -/
def flagSatisfied (count n : BitVec 24) : Bool := (count - n).toNat < 2 ^ 23

/-- Put a write to a flag into this bough cycle (R40, R176). -/
def Grove.pushFlag (g : Grove) (w : FlagWrite) : Grove := { g with flagWrites := g.flagWrites ++ [w] }

/-- Put an act into the grove's scratchpad schedule. -/
def Grove.pushAct (g : Grove) (a : Timed) : Grove := { g with pipe := g.pipe ++ [a] }

/-! ### Banks that a matrix operation shares (Table 10.6) -/

/-- An operation whose stage takes words of the partition in this core cycle (Table 10.6): a product in its fetch, mtr.sp in its
array. -/
def MatOp.takesBanks (x : MatOp) (cc : Nat) : Bool :=
  match x.kind, x.fb, x.ab, x.fetched with
  | .mtrSp, _, some ab, some y => decide (cc < 4 * ab + y.arrayCc + x.shared)
  | .mtrSp, _, _, _ | .mzero, _, _, _ | .mtr, _, _, _ | .mscl, _, _, _ => false
  | _, some fb, none, some y => decide (cc < 4 * fb + y.fetchCc + x.shared)
  | _, some _, none, none => true
  | _, _, _, _ => false

/-- Traffic holds banks of a core's scratchpad for some core cycles: as many as find a matrix operation at the same banks are
added to its stage (Table 10.6, assumption 1). -/
def State.shareBanks (s : State) (core n : Nat) : State :=
  if n = 0 || !(s.core core).mq.any (fun x => x.takesBanks s.cc) then s
  else
    let share (x : MatOp) : MatOp :=
      if x.takesBanks s.cc = true then { x with shared := x.shared + Config.delay s.free % (n + 1) } else x
    let t := s.onCore core fun c => { c with mq := c.mq.map share }
    { t with free := s.free + 1 }

end Sys2Proof.Machine
end

