-- ==== Sys2Proof/Machine/Routing.lean ====
section
/-!
DEFINITION. Places in the fabric (R10, R368, R369): the links between them, the way of a packet (R370, R374, R375) with
the ways round what is down (R387, R388), and what the trust engines let pass (R416, R420).

A link end is named by its sender: an optical port of module m, face f, number j is 2 (64 m + 8 f + j); a die link of
die address d in direction g (0 +X, 1 -X, 2 +Y, 3 -Y, 4 +Z, 5 -Z) is 2 (8 d + g) + 1.
-/
namespace Sys2Proof.Machine

/-- Key of an optical port. -/
def portKey (m face j : Nat) : Nat := 2 * (64 * m + 8 * face + j)
/-- Key of a die link. -/
def dieLinkKey (die dir : Nat) : Nat := 2 * (8 * die + dir) + 1
/-- Whether a key names an optical port. -/
def isPort (k : Nat) : Bool := k % 2 == 0
/-- The module of a link end. -/
def linkModule (k : Nat) : Nat := if isPort k then k / 128 else k / 2 / 8 / 32
/-- Face of a port; 7 for a die link (R388). -/
def linkFace (k : Nat) : Nat := if isPort k then k / 2 % 64 / 8 else 7
/-- Port number, or the direction of a die link. -/
def linkPort (k : Nat) : Nat := k / 2 % 8

/-- Sizes of the die torus (R10). -/
def dieDims : List Nat := [4, 3, 2]
/-- Sizes of the module torus (R10). -/
def moduleDims : List Nat := [64, 64, 32]
/-- A coordinate of a number in a torus. -/
def coordAt (dims : List Nat) (n axis : Nat) : Nat := n / (dims.take axis).prod % dims.getD axis 1
/-- The number with one coordinate replaced. -/
def withCoord (dims : List Nat) (n axis x : Nat) : Nat :=
  n - coordAt dims n axis * (dims.take axis).prod + x * (dims.take axis).prod

/-- The neighbour along an axis. -/
def neighbour (dims : List Nat) (n axis : Nat) (positive : Bool) : Nat :=
  let s := dims.getD axis 1
  let x := coordAt dims n axis
  withCoord dims n axis (if positive then (x + 1) % s else (x + s - 1) % s)

/-- The die that holds port j of a face (R369). -/
def portDie (face j : Nat) : Nat := face / 2 * 8 + j
/-- The face opposite. -/
def oppositeFace (f : Nat) : Nat := if f % 2 = 0 then f + 1 else f - 1

/-- The other end of a link: the end that sends the opposite way. -/
def peerEnd (k : Nat) : Nat :=
  if isPort k then
    let f := linkFace k
    portKey (neighbour moduleDims (linkModule k) (f / 2) (f % 2 == 0)) (oppositeFace f) (linkPort k)
  else
    let d := k / 2 / 8
    let g := linkPort k
    dieLinkKey (32 * (d / 32) + neighbour dieDims (d % 32) (g / 2) (g % 2 == 0)) (oppositeFace g)

/-- The die address at which a link end stands. -/
def linkDie (k : Nat) : Nat := if isPort k then 32 * linkModule k + portDie (linkFace k) (linkPort k) else k / 2 / 8

/-- Whether the positive way is taken: the shorter, ties by the source's coordinate (R374, R375). -/
def positiveWay (dims : List Nat) (src cur dst axis : Nat) : Bool :=
  let s := dims.getD axis 1
  let ahead := (coordAt dims dst axis + s - coordAt dims cur axis) % s
  if 2 * ahead = s then coordAt dims src axis % 2 == 0 else decide (2 * ahead < s)

/-- The first axis in which two places differ. -/
def firstAxis (dims : List Nat) (a b : Nat) : Option Nat :=
  (List.range dims.length).find? fun i => coordAt dims a i != coordAt dims b i

/-- Whether a link end may send. -/
def State.linkUp (s : State) (k : Nat) : Bool := !(s.link k).down

/-- The links of a ring from one die to another, going one way. -/
def ringLinks (m axis : Nat) (positive : Bool) (dst : Nat) : Nat → Nat → List Nat
  | 0, _ => []
  | fuel + 1, cur =>
    if coordAt dieDims cur axis = coordAt dieDims dst axis then []
    else dieLinkKey (32 * m + cur) (2 * axis + (if positive then 0 else 1)) ::
      ringLinks m axis positive dst fuel (neighbour dieDims cur axis positive)

/-- The way along one axis of a module: that of R374, or the other way round when a link of it is down (R388); none
when the ring is cut. -/
def State.axisLinks (s : State) (m src cur dst axis : Nat) : Option (List Nat) :=
  let p := positiveWay dieDims src cur dst axis
  let one := ringLinks m axis p dst 4 cur
  let two := ringLinks m axis (!p) dst 4 cur
  if one.all s.linkUp then some one else if two.all s.linkUp then some two else none

/-- The links from die to die of one module, X then Y then Z. -/
def State.insideLinks (s : State) (m src dst : Nat) : Nat → Nat → Option (List Nat)
  | 0, _ => some []
  | fuel + 1, cur =>
    match firstAxis dieDims cur dst with
    | none => some []
    | some a =>
      match s.axisLinks m src cur dst a, s.insideLinks m src dst fuel (withCoord dieDims cur a (coordAt dieDims dst a)) with
      | some x, some y => some (x ++ y)
      | _, _ => none

/-- The port of a face that traffic for a die takes: number die mod 8, or the next live one (R370, R387). -/
def State.facePort (s : State) (m face die : Nat) : Option Nat :=
  ((List.range 8).map fun i => portKey m face ((die % 8 + i) % 8)).find? fun k => s.linkUp k && (s.link k).en

/-- The links from a die address on to another (R374, R375), none when there is no way left (R387, R388); ties go by the coordinates of the
source, `src`, wherever the packet is. -/
def State.route (s : State) (src dst : Nat) : Nat → Nat → Option (List Nat)
  | 0, _ => none
  | fuel + 1, cur =>
    let m := cur / 32
    match firstAxis moduleDims m (dst / 32) with
    | none => s.insideLinks m (src % 32) (dst % 32) 3 (cur % 32)
    | some a =>
      let face := 2 * a + (if positiveWay moduleDims (src / 32) m (dst / 32) a then 0 else 1)
      match s.facePort m face (dst % 32) with
      | none => none
      | some k =>
        match s.insideLinks m (src % 32) (portDie face (linkPort k)) 3 (cur % 32),
              s.route src dst fuel (linkDie (peerEnd k)) with
        | some x, some y => some (x ++ k :: y)
        | _, _ => none

/-- The way that a packet of a source takes from the die where it is; at most 81 modules lie on it. -/
def State.wayOn (s : State) (src cur dst : Nat) : Option (List Nat) := s.route src dst 82 cur

/-- The way from one die address to another. -/
def State.way (s : State) (src dst : Nat) : Option (List Nat) := s.wayOn src src dst

/-- Whether two die addresses reach each other. -/
def State.reaches (s : State) (src dst : Nat) : Bool := src == dst || ((s.way src dst).isSome && (s.way dst src).isSome)

/-! ### The trust engines (R415 to R420) -/

/-- TCFG.TDOM. -/
def Module.tdom (m : Module) : Nat := m.tcfg.toNat / 2 ^ 48
/-- The domain a module reports: 0 when it is no member (R413). -/
def Module.domain (m : Module) : Nat := if m.tstate = 2 || m.tstate = 3 then m.tdomain else 0

/-- The slot of a module: fixed while it is a member (R413), else that of TCFG. -/
def Module.slot (m : Module) : Nat := if m.tstate = 2 || m.tstate = 3 then m.tslot else bitsOf m.tcfg.toNat 8 6

/-- Whether a window is in force for a module (R420). -/
def windowFor (w : DWord × DWord) (p : Nat) : Bool :=
  w.1.getLsbD 63 && decide (w.1.toNat % 2 ^ 17 ≤ p) && decide (p ≤ w.1.toNat / 2 ^ 17 % 2 ^ 17)

/-- Whether a window accepts plaintext for a local address; a message without one is held to the range alone. -/
def windowAccepts (w : DWord × DWord) (p : Nat) (local? : Option Nat) : Bool :=
  windowFor w p && w.2.getLsbD 63 &&
    (match local? with
      | none => true
      | some a => decide (w.2.toNat % 2 ^ 24 ≤ a / 2 ^ 16) && decide (a / 2 ^ 16 ≤ w.2.toNat / 2 ^ 24 % 2 ^ 24))

/-- Whether one serial number comes before another (R395). -/
def serialLt (a b : Word) : Bool := a != b && decide ((b - a).toNat < 2 ^ 31)
/-- Whether one serial number comes before another or is it. -/
def serialLe (a b : Word) : Bool := a == b || serialLt a b
/-- The epoch under which a die sends: the new one from the core cycle after that in which it has applied the REKEY frame (R418). -/
def State.sendEpoch (s : State) (d : Nat) : Nat :=
  let m := s.module (d / 32)
  match m.rekey with
  | some r =>
    let x := s.die d
    if r.got && serialLe r.seq x.lastSeq && !(x.lastSeq == r.seq && x.appliedCc == s.cc + 1) then r.epoch else m.epoch
  | none => m.epoch

/-- Whether traffic from one die is accepted by another (R416, R418, R420): in plaintext through windows, encrypted under
the sender's epoch between members that both hold its key, as long as the receiver accepts the epoch, and in plaintext
where neither belongs to a domain. -/
def State.trusted (s : State) (src dst : Nat) (local? : Option Nat) : Bool :=
  let m := src / 32
  let p := dst / 32
  let a := s.module m
  let b := s.module p
  let e := s.sendEpoch src
  let accepts := b.domain == 0 || b.egress.toList.any fun w => windowAccepts w m local?
  if m = p then true
  else if a.domain != 0 && a.egress.toList.any fun w => windowFor w p then accepts
  else if a.domain != 0 && a.domain == b.domain then
    (match tget a.keys e, tget b.keys e with
      | some x, some y => x == y && (s.die dst).closed != e
      | _, _ => false)
  else if a.domain != 0 then false
  else accepts

/-- Whether a request that a die sent under the old epoch, before its module left its domain, is still accepted (R419): an
operation issued by core cycle `since` has sent it by then (assumption 132). -/
def State.leftTrusted (s : State) (since src dst : Nat) : Bool :=
  match (s.module (src / 32)).left with
  | none => false
  | some x =>
    let b := s.module (dst / 32)
    decide (since < x.at_) && b.domain == x.tdom && tget b.keys x.epoch == some x.key && (s.die dst).closed != x.epoch

/-- What a request of an operation of core cycle `since` from a die to another meets on its way: REMOTE_ERROR where no way is left
(R387, R388), TRUST_REJECT where a trust engine refuses it (R417). -/
def State.sentCause (s : State) (since src dst : Nat) (local? : Option Nat) : Option Cause :=
  if !s.reaches src dst then some .remoteError
  else if s.trusted src dst local? || s.leftTrusted since src dst then none
  else some .trustReject

/-- What a request that leaves now meets on its way. -/
def State.pathCause (s : State) (src dst : Nat) (local? : Option Nat) : Option Cause := s.sentCause s.cc src dst local?

/-- How traffic leaves a die for another (R415, R420): in plaintext, encrypted, or not at all. -/
inductive Leaving where
  | plain | sealed | never
  deriving DecidableEq, Repr

/-- The rule for outgoing traffic. -/
def State.leaving (s : State) (src dst : Nat) : Leaving :=
  let a := s.module (src / 32)
  if src / 32 = dst / 32 || a.domain = 0 || a.egress.toList.any fun w => windowFor w (dst / 32) then .plain
  else if a.domain = (s.module (dst / 32)).domain then .sealed
  else .never

/-- Whether the requester accepts the response to such a request (R417, R420): in the form of the request, an encrypted one
under the epoch under which the answering die now sends. -/
def State.answered (s : State) (since src dst : Nat) : Bool :=
  if src / 32 = dst / 32 || (s.leaving src dst == .plain && !s.leftTrusted since src dst) then true
  else
    let e := s.sendEpoch dst
    (match tget (s.module (src / 32)).keys e, tget (s.module (dst / 32)).keys e with
      | some x, some y => x == y && (s.die src).closed != e
      | _, _ => false)

end Sys2Proof.Machine
end

