-- ==== Sys2Proof/Machine/Links.lean ====
section
/-!
DEFINITION. Flits (R372, R373, R415): their layout, the security fields, how traffic between dies enters the links, virtual
channels (R374), multicast buffers (R377), and what a destination's trust engine does with one (R416). The links carry the
traffic that the events of accesses, copies and channels make, beside them (assumption 44).
-/
namespace Sys2Proof.Machine

/-! ### The layout of a flit (Tables 12.1, 14.3) -/

/-- Bytes padded with zero, or cut, to a length. -/
def padBytes (n : Nat) (bs : List Byte) : List Byte := (bs ++ List.replicate n 0).take n

/-- Numbers for the operation and the status of a flit, as `Config.transactionBytes` takes them. -/
def FlitOp.code : FlitOp → Nat
  | .load => 0 | .store => 1 | .atomic => 2 | .copy => 3 | .word => 4 | .credit => 5 | .post => 6 | .update => 7 | .spdm => 8
  | .ack => 9
/-- The number of a status. -/
def FlitStatus.code : FlitStatus → Nat
  | .request => 0 | .done => 1 | .reject => 2

/-- Bytes 16 to 63: transaction, extension, security. The endpoint identifier is that of the destination (R371). -/
def Flit.head (f : Flit) : List Byte :=
  bytesOfNat 24 (Config.transactionBytes f.tx.op.code f.tx.tag f.tx.length f.tx.status.code (f.tx.pa.getD 0 % 2 ^ 40) f.da).toNat ++ bytesOfNat 8 (packFields [(f.da, 0, 22), (f.sa, 22, 22)]) ++
    bytesOfNat 8 (f.tseq % 2 ^ 54) ++ bytesOfNat 8 (f.epoch % 2 ^ 16)

/-- Bytes 0 to 11: sequence and kind, acknowledgement, class and virtual channel. -/
def Flit.front (f : Flit) : List Byte :=
  bytesOfNat 12 (packFields [(f.seq.toNat, 0, 24), (f.kind.toNat, 24, 8), (f.ack.toNat, 32, 24), (if f.nak then 1 else 0, 56, 1),
    (f.cls.toNat, 64, 2), (if f.vc then 1 else 0, 66, 1)])

/-- CRC-32C of bytes: initial value and result inverted (PRESUMED, assumption 40). -/
def crc32c (bs : List Byte) : Word := ~~~ bs.foldl crcByte (BitVec.allOnes 32)

/-- Bytes 16 to 335. -/
def Flit.rest (f : Flit) : List Byte := f.head ++ bytesOfNat 16 f.tag.toNat ++ padBytes 256 f.body

/-- The CRC of a flit. -/
def Flit.crc (f : Flit) : Word := crc32c (f.front ++ f.rest)

/-- The 336 bytes of a flit. -/
def Flit.image (f : Flit) : BitVec 2688 :=
  BitVec.ofNat 2688 (natOfBytes (f.front ++ bytesOfNat 4 f.crc.toNat ++ f.rest))

/-- Whether the CRC of 336 received bytes checks. -/
def imageSound (x : BitVec 2688) : Bool :=
  let bs := bytesOfNat 336 x.toNat
  crc32c (bs.take 12 ++ bs.drop 16) == BitVec.ofNat 32 (natOfBytes ((bs.drop 12).take 4))

/-- A flit as 336 received bytes state it. -/
def Flit.ofImage (f : Flit) (x : BitVec 2688) : Flit :=
  let n (lo w : Nat) : Nat := bitsOf x.toNat lo w
  { f with seq := BitVec.ofNat 24 (n 0 24), kind := BitVec.ofNat 8 (n 24 8), ack := BitVec.ofNat 24 (n 32 24), nak := n 56 1 == 1,
           cls := BitVec.ofNat 2 (n 64 2), vc := n 66 1 == 1, da := n 320 22, sa := n 342 22, tseq := n 384 54,
           epoch := n 448 16, tag := BitVec.ofNat 128 (n 512 128), body := bytesOfNat 256 (n 640 2048) }

/-- An idle flit. -/
def Flit.idle : Flit :=
  { seq := 0, kind := 0, ack := 0, nak := false, cls := 0, vc := false, da := 0, sa := 0, tseq := 0, epoch := 0, tag := 0,
    body := [], tx := { op := .load, tag := 0, length := 0, status := .done, pa := none, answers := 0 }, reply := [], members := [] }

/-! ### Security fields (R415) -/

/-- The IV of a flit. -/
def Flit.iv (f : Flit) : BitVec 96 :=
  BitVec.ofNat 96 (packFields [(f.tseq, 0, 54), (f.sa, 54, 22), (f.cls.toNat, 76, 2), (1, 78, 2), (f.epoch, 80, 16)])

/-- The TAG of a flit under a key: over CLASS, bytes 16 to 63, and the payload as it stands. -/
def Flit.tagUnder (f : Flit) (key : BitVec 256) : BitVec 128 :=
  Config.gcmTag key f.iv (BitVec.ofNat 8 f.cls.toNat :: f.head) (padBytes 256 f.body)

/-- The next TSEQ of a class under the epoch of a die; a counter that reaches 2^53 has the leader start a re-key. -/
def State.takeTseq (s : State) (d cls : Nat) : Nat × State :=
  let key := 4 * s.sendEpoch d + cls
  let n := tgetD (s.die d).tseq key 0
  let t := s.onDie d fun x => { x with tseq := tput x.tseq key (n + 1) }
  (n, if n + 1 = 2 ^ 53 then t.atTime s.cc (.tseqExhaustion d) else t)

/-- A flit encrypted under the sender's epoch. -/
def State.seal (s : State) (f : Flit) : Flit × State :=
  let e := s.sendEpoch f.sa
  let key := tgetD (s.module (f.sa / 32)).keys e 0
  let r := s.takeTseq f.sa f.cls.toNat
  let g := { f with tseq := r.1, epoch := e }
  let g := { g with body := Config.gcmText key g.iv (padBytes 256 f.body) }
  ({ g with tag := g.tagUnder key }, r.2)

/-! ### The destination's trust engine (R416) -/

/-- What becomes of a flit. -/
inductive FlitFate where
  | accepted | discarded | rejected
  deriving DecidableEq, Repr

/-- The address by which a window judges a request: traffic without one is held to the range of modules alone (R420). -/
def Transaction.local? (t : Transaction) : Option Nat :=
  t.pa.map (· % 2 ^ 40)

/-- Whether a die accepts a flit in plaintext (R411, R416, R420): a response in the form of its request. -/
def State.plainAccepted (s : State) (d : Nat) (f : Flit) : Bool :=
  let p := s.module (d / 32)
  f.sa / 32 == d / 32 || p.domain == 0 || f.tx.op == .spdm || (f.tx.status != .request && s.leaving d f.sa == .plain) ||
    p.egress.toList.any fun w => windowAccepts w (f.sa / 32) f.tx.local?

/-- The fate of a flit at a die, by the window of its sender, class and epoch. -/
def State.flitFate (s : State) (d : Nat) (f : Flit) : FlitFate :=
  if f.epoch = 0 then (if s.plainAccepted d f then .accepted else .rejected)
  else
    match tget (s.module (d / 32)).keys f.epoch with
    | none => .rejected
    | some key =>
      if (s.die d).closed = f.epoch || f.tag != f.tagUnder key then .rejected
      else
        match (s.die d).windows.find? fun w => w.sa == f.sa && w.cls == f.cls.toNat && w.epoch == f.epoch with
        | none => .accepted
        | some w =>
          if f.tseq + 64 < w.top then .rejected
          else
            match w.seen.lookup f.tseq with
            | some t => if t = f.tag then .discarded else .accepted
            | none => .accepted

/-- A TSEQ marked; the window advances with the highest. -/
def Die.mark (x : Die) (f : Flit) : Die :=
  let same (w : SeqWindow) : Bool := w.sa == f.sa && w.cls == f.cls.toNat && w.epoch == f.epoch
  let old := (x.windows.find? same).getD { sa := f.sa, cls := f.cls.toNat, epoch := f.epoch, top := f.tseq, seen := [] }
  let top := max old.top f.tseq
  let new := { old with top := top, seen := ((f.tseq, f.tag) :: old.seen).filter fun e => decide (top ≤ e.1 + 64) }
  { x with windows := new :: x.windows.filter fun w => !same w }

/-! ### Onto the links -/

/-- The ring of a link: an axis of the die torus or of the module torus. -/
def linkAxis (k : Nat) : Nat := if isPort k then 8 + linkFace k / 2 else linkPort k / 2

/-- Whether a link crosses the dateline of its ring (R374). -/
def atDateline (k : Nat) : Bool :=
  let positive := (if isPort k then linkFace k else linkPort k) % 2 == 0
  let x := if isPort k then coordAt moduleDims (linkModule k) (linkFace k / 2)
    else coordAt dieDims (k / 2 / 8 % 32) (linkPort k / 2)
  let n := if isPort k then moduleDims.getD (linkFace k / 2) 1 else dieDims.getD (linkPort k / 2) 1
  if positive then x + 1 == n else x == 0

/-- Whether a packet of a die has crossed the dateline of a module ring before the port that it takes now: it has gone on from the source
module's coordinate past the end of the ring (R374, R375). -/
def pastDateline (src k : Nat) : Bool :=
  let x := coordAt moduleDims (linkModule k) (linkFace k / 2)
  let x0 := coordAt moduleDims (src / 32) (linkFace k / 2)
  if linkFace k % 2 == 0 then decide (x < x0) else decide (x0 < x)

/-- The virtual channel on its next link of a flit from a die, having come over another: of a module ring it is that of the ring, also
where die links lie between two ports (R370); of a die ring it begins anew where the packet enters it. -/
def hopVc (src : Nat) (before : Option Nat) (vc : Bool) (k : Nat) : Bool :=
  (if isPort k then pastDateline src k else (before.map fun b => linkAxis b == linkAxis k).getD false && vc) || atDateline k

/-- A queue above WTHR wakes parked groups (R389). -/
def State.askWake (s : State) (k : Nat) : State :=
  let x := s.link k
  if x.parked != 0 && x.wthr != 0 && decide (x.wthr.toNat < x.queue.length) && isPort k then s.atTime s.cc (.autoWake k) else s

/-- A flit joins the sending queue of a link. -/
def State.sendFlit (s : State) (k : Nat) (f : Flit) : State :=
  ((s.onLink k fun x => { x with queue := x.queue ++ [f] }).later (s.cc + 1) (.flitReceive (peerEnd k) 0)).askWake k

/-- A flit numbered among those of its source. -/
def State.numberFlit (s : State) (f : Flit) : Flit × State :=
  ({ f with order := (s.die f.sa).nextFlit }, s.onDie f.sa fun x => { x with nextFlit := x.nextFlit + 1 })

/-- A sealed flit that leaves is to be acknowledged `n` times: by its response, or by delivery acknowledgements (R418). -/
def State.oweFlit (s : State) (f : Flit) (n : Nat) : State :=
  if f.epoch = 0 || f.tx.op = .ack then s else s.onDie f.sa fun x => { x with owed := tput x.owed f.epoch (tgetD x.owed f.epoch 0 + n) }

/-- What answers a flit of a die acknowledges it (R418). -/
def State.acknowledged (s : State) (d : Nat) (f : Flit) : State :=
  if f.tx.answers = 0 || f.tx.status = .request then s
  else s.onDie d fun x => { x with owed := tput x.owed f.tx.answers (tgetD x.owed f.tx.answers 0 - 1) }

/-- A flit leaves a die for another, in a form. -/
def State.dispatch (s : State) (form : Leaving) (f : Flit) : State :=
  if f.sa = f.da then s
  else
    match form, (s.way f.sa f.da).bind (·.head?) with
    | .never, _ | _, none => s
    | form, some k =>
      let n := s.numberFlit { f with vc := hopVc f.sa none false k }
      let r := if form = .sealed then n.2.seal n.1 else n
      (r.2.oweFlit r.1 1).sendFlit k r.1

/-- A flit of a class from a die to another. -/
def flitFor (src dst cls : Nat) (t : Transaction) (body reply : List Byte) : Flit :=
  { Flit.idle with kind := 1, cls := BitVec.ofNat 2 cls, da := dst, sa := src, body := body, tx := t, reply := reply }

/-- A request from a die to another; its response, of the payload given, follows its arrival (R371). -/
def State.request (s : State) (src dst cls : Nat) (op : FlitOp) (tag : Nat) (pa : Option Nat) (body reply : List Byte) : State :=
  s.dispatch (s.leaving src dst)
    (flitFor src dst cls { op := op, tag := tag, length := max body.length reply.length, status := .request, pa := pa, answers := 0 } body reply)

/-- What answers nothing and is not answered: a credit. -/
def State.notify (s : State) (src dst cls : Nat) (op : FlitOp) (tag : Nat) : State :=
  s.dispatch (s.leaving src dst)
    (flitFor src dst cls { op := op, tag := tag, length := 0, status := .done, pa := none, answers := 0 } [] [])

/-- The members of a multicast flit by the links that lead to them from a die, for a packet of a source. -/
def State.branches (s : State) (src d : Nat) (members : List Nat) : List (Nat × List Nat) :=
  let firsts := members.filterMap fun m => if m = d then none else (s.wayOn src d m).bind fun w => w.head?.map fun k => (k, m)
  ((firsts.map (·.1)).eraseDups).map fun k => (k, (firsts.filter fun e => e.1 == k).map (·.2))

/-- What a die answers to a flit that it has accepted (R371, R418): to a request a response, in the form of the request and with
its tag; to any other sealed flit the delivery acknowledgement of its trust engine. -/
def State.respond (s : State) (d : Nat) (f : Flit) : State :=
  let form := if f.epoch = 0 then Leaving.plain else .sealed
  if f.tx.status = .request then
    s.dispatch form (flitFor d f.sa 1 { f.tx with status := .done, answers := f.epoch } f.reply [])
  else if f.epoch != 0 && f.tx.op != .ack then
    s.dispatch form (flitFor d f.sa 1 { f.tx with op := .ack, status := .done, answers := f.epoch } [] [])
  else s

/-- The answer to a rejected request: status REJECT, under the die's current send epoch, or in plaintext to a plaintext request
(R416, R420). -/
def State.respondReject (s : State) (d : Nat) (f : Flit) : State :=
  if f.tx.status != .request then s
  else
    s.dispatch (if f.epoch = 0 || (s.module (d / 32)).domain = 0 then .plain else .sealed)
      (flitFor d f.sa 1 { f.tx with status := .reject, answers := f.epoch } [] [])

/-- Tag of the request of an access: its operation, and the slot that leads what goes in one request. -/
def laneTag (id slot : Nat) : Nat := 1024 * id + slot

/-- Whether a flit is of a global access. -/
def FlitOp.isAccess : FlitOp → Bool
  | .load | .store | .atomic => true
  | _ => false

/-- Whether an access went in the request of a tag. -/
def LaneReq.wentIn (r : LaneReq) (tag : Nat) : Bool := r.reach != .here && r.lead == tag % 1024

/-- The accesses that went in the request of a tag, changed. -/
def State.onAsked (s : State) (tag : Nat) (f : LaneReq → LaneReq) : State :=
  s.onOp (tag / 1024) fun o => { o with lanes := o.lanes.map fun r => if r.wentIn tag then f r else r }

/-- A request that the home's trust engine accepts is performed there, whenever nothing holds it. -/
def State.takeAccess (s : State) (f : Flit) : State :=
  s.onAsked f.tx.tag fun r => if r.reach = .asked then { r with reach := .taken f.da f.epoch } else r

/-- An access that is not performed, or whose response is not accepted (R417). -/
def LaneReq.refuse (r : LaneReq) : LaneReq :=
  { r with stage := 2, fault := some (r.fault.getD (Cause.trustReject.code, 0)), flags := 0, reach := .answered }

/-- A response that is rejected, or that says REJECT: TRUST_REJECT, and no line of an ldr stays in the core's L1 (R417). -/
def State.refuseAccess (s : State) (tag : Nat) : State :=
  match tget s.ops (tag / 1024) with
  | none => s
  | some o =>
    let t := s.onAsked tag LaneReq.refuse
    if o.queue != 2 then t
    else
      let gone := (o.lanes.filter fun r => r.wentIn tag).map fun r => r.va.toNat / 128
      match s.grove? (groveOf o.bough) with
      | none => t
      | some g => t.onCore g.core fun c => { c with l1 := c.l1.filter fun x => !(x.asid == o.asid && gone.contains x.line) }

/-- A response to an access that its requester accepts. -/
def State.endAccess (s : State) (f : Flit) : State :=
  if f.tx.status = .reject then s.refuseAccess f.tx.tag
  else s.onAsked f.tx.tag fun r => if r.reach = .answering then { r with reach := .answered } else r

/-- An accepted flit from another module does what it is for: a request of an access waits for its turn at the home, which answers it
then; any other, or one that its requester no longer waits for, is answered at once. -/
def State.accept (s : State) (d : Nat) (f : Flit) : State :=
  if !f.tx.op.isAccess || (tget s.ops (f.tx.tag / 1024)).isNone then s.respond d f
  else if f.tx.status = .request then s.takeAccess f
  else (s.endAccess f).respond d f

/-- A flit reaches the die it names, or one of its members: within its module it is taken as it is; from another it is checked, marked
and does what it is for, or is counted in REJECTS (R416); a rejected response ends its access (R417). -/
def State.arrive (s : State) (d : Nat) (f : Flit) : State :=
  if f.sa / 32 = d / 32 then s.respond d f
  else
    match s.flitFate d f with
    | .accepted => ((if f.epoch = 0 then s else s.onDie d fun x => x.mark f).acknowledged d f).accept d f
    | .discarded => s
    | .rejected =>
      let t := s.onModule (d / 32) fun x => { x with rejects := min (x.rejects + 1) 65535 }
      if f.tx.status != .request && f.tx.op.isAccess then (t.acknowledged d f).refuseAccess f.tx.tag else t.respondReject d f

/-- The home's answer to an access that it has performed, in the form of its request. -/
def State.answerAccess (s : State) (home d : Nat) (op : FlitOp) (tag pa epoch : Nat) (body : List Byte) : State :=
  s.dispatch (if epoch = 0 then .plain else .sealed)
    (flitFor home d 1 { op := op, tag := tag, length := body.length, status := .done, pa := some pa, answers := epoch } body [])

/-- The flits of a link end that its far end has not received. -/
def State.notReceived (s : State) (k : Nat) : List Flit :=
  let x := s.link k
  let last := (s.link (peerEnd k)).rxSeq
  x.queue ++ x.unacked.filter fun f => !decide ((last - f.seq).toNat < 2 ^ 23)

/-- Whether some flit is on its way that has a property: on a link, in a multicast buffer with the members it is owed to, or early at a
die. -/
def State.flitOut (s : State) (p : Flit → Bool) : Bool :=
  (s.links.any fun e => (s.notReceived e.1).any p) ||
    s.dies.any fun e => e.2.early.any p || e.2.mcastWait.any p || e.2.mcast.any fun x => x.2.owed.any fun o => p { x.2.flit with members := o.2 }

/-- Whether a flit of an access is on its way. -/
def State.accessOut (s : State) (tag : Nat) : Bool := s.flitOut fun f => f.tx.op.isAccess && f.tx.tag == tag

/-- An access whose request or response is lost. -/
def LaneReq.lose (r : LaneReq) : LaneReq :=
  { r with stage := 2, reach := .answered, flags := 0, fault := some (r.fault.getD (Cause.remoteError.code, BitVec.ofNat 64 (r.pa / 128 * 128))) }

/-- Accesses of an operation whose request or response no link carries any more: REMOTE_ERROR (R387, R417). -/
def State.loseAccesses (s : State) (id : Nat) : State :=
  match tget s.ops id with
  | none => s
  | some o =>
    let lost (r : LaneReq) : Bool := (r.reach == .asked || r.reach == .answering) && !s.accessOut (laneTag id r.lead)
    if o.lanes.any lost then
      s.onOp id fun o => { o with lanes := o.lanes.map fun r => if lost r then r.lose else r }
    else s

/-! ### In order (R376) -/

/-- Whether a flit goes to a die. -/
def Flit.goesTo (f : Flit) (d : Nat) : Bool := if f.cls = 2 then f.members.contains d else f.da == d

/-- Whether a flit for a die came before one that left its source earlier, of one class (R376). -/
def State.olderOut (s : State) (d : Nat) (f : Flit) : Bool :=
  s.flitOut fun x => x.sa == f.sa && x.cls == f.cls && decide (x.order < f.order) && x.goesTo d

/-- Flits that came early to a die, and whose turn it is now. -/
def State.takeEarly (d : Nat) : Nat → State → State
  | 0, s => s
  | fuel + 1, s =>
    match (s.die d).early.find? fun f => !s.olderOut d f with
    | none => s
    | some f => State.takeEarly d fuel ((s.onDie d fun x => { x with early := x.early.erase f }).arrive d f)

/-- Flits that may no longer wait for what has been lost, on every die. -/
def State.takeAllEarly (s : State) : State :=
  (s.dies.filter fun e => !e.2.early.isEmpty).foldl (fun t e => State.takeEarly e.1 e.2.early.length t) s

/-- A flit comes to its destination, where those of its source and class arrive in the order in which they left (R376, R387, R388). -/
def State.deliverFlit (s : State) (d : Nat) (f : Flit) : State :=
  if s.olderOut d f then s.onDie d fun x => { x with early := x.early ++ [f] }
  else State.takeEarly d (s.die d).early.length (s.arrive d f)

/-! ### Multicast buffers (R377) -/

/-- Flits that the multicast buffer of a router holds: 4 MiB. -/
def mcastRoom : Nat := 2 ^ 22 / 336

/-- Multicast flits on a link that its far end has yet to receive. -/
def State.mcastOnLink (s : State) (k : Nat) : Nat :=
  ((s.notReceived k).filter fun f => f.cls == 2).length

/-- Whether the multicast buffer of a router has room, beside what is on the way to it. -/
def State.mcastFits (s : State) (d : Nat) : Bool :=
  let coming := (s.links.filter fun e => linkDie (peerEnd e.1) == d).foldl (fun n e => n + s.mcastOnLink e.1) 0
  decide ((s.die d).mcast.length + coming < mcastRoom)

/-- A multicast flit enters the buffer of a router, having come over a link: a member there takes its copy from the entry, and
each link that leads on is owed one (R377). -/
def State.holdMcast (s : State) (d : Nat) (cameBy : Option Nat) (f : Flit) : State :=
  let n := (s.die d).nextMcast
  let bs := s.branches f.sa d f.members
  let t := if f.members.contains d then s.deliverFlit d f else s
  if bs.isEmpty then t
  else
    (t.onDie d fun x => { x with nextMcast := n + 1, mcast := tput x.mcast n { flit := f, cameBy := cameBy, owed := bs } }).laterAll
      (s.cc + 1) (bs.map fun b => .multicastForward d n b.1)

/-- Multicast flits of the die's own enter its buffer as far as it has room. -/
def State.admitMcast (d : Nat) : Nat → State → State
  | 0, s => s
  | fuel + 1, s =>
    match (s.die d).mcastWait with
    | [] => s
    | f :: rest =>
      if !s.mcastFits d then s
      else State.admitMcast d fuel ((s.onDie d fun x => { x with mcastWait := rest }).holdMcast d none f)

/-- One multicast flit of a die, for members to which it goes in one form. -/
def State.sendMulti (s : State) (form : Leaving) (f : Flit) : State :=
  if f.members.isEmpty then s
  else
    let n := s.numberFlit f
    let r := if form = .sealed then n.2.seal n.1 else n
    let t := (r.2.oweFlit r.1 f.members.length).onDie f.sa fun x => { x with mcastWait := x.mcastWait ++ [r.1] }
    State.admitMcast f.sa (t.die f.sa).mcastWait.length t

/-- What a copy sends to several dies (R377, R415): one flit for those of its module and of windows, and one, encrypted once, for
the members of other modules. -/
def State.injectMulti (s : State) (src : Nat) (members : List Nat) (tag : Nat) (body : List Byte) : State :=
  [Leaving.plain, Leaving.sealed].foldl (fun t form =>
    t.sendMulti form { flitFor src 0 2 { op := .copy, tag := tag, length := body.length, status := .request, pa := none, answers := 0 } body []
      with members := members.filter fun d => s.leaving src d == form }) s

end Sys2Proof.Machine
end

