-- ==== Sys2Proof/Machine/Views.lean ====
section
/-!
DEFINITION. Global memory: physical addresses and homes (R121 to R123), translation (R124 to R127), the view of a die
and the writes on their way between views (R131 to R135).
-/
namespace Sys2Proof.Machine

/-- What an access meets instead of a value: its cause, and AUX of Table 6.9. -/
abbrev XFault := Byte × DWord

/-- A fault with AUX 0. -/
def xfault (c : Cause) : XFault := (c.code, 0)
/-- UNCORRECTABLE or REMOTE_ERROR at a line (Table 6.9). -/
def lineFault (c : Cause) (pa : Nat) : XFault := (c.code, BitVec.ofNat 64 (pa / 128 * 128))

/-- A cause met on the way to a line: AUX is set for REMOTE_ERROR alone (Table 6.9). -/
def wayFault (c : Cause) (pa : Nat) : XFault := if c = .remoteError then lineFault c pa else xfault c

/-! ### Physical addresses -/

/-- The home of a physical address, as a die address (R122). -/
def paHome (a : Nat) : Nat := a / 2 ^ 40
/-- Local address bits 39:0 (R122). -/
def paLocal (a : Nat) : Nat := a % 2 ^ 40

/-- A physical address that the system has (R122). -/
def State.paOk (s : State) (a : Nat) : Bool :=
  decide (a < 2 ^ 62) && a / 2 ^ 37 % 8 == 0 && decide (paHome a % 32 < 24) && decide (paHome a / 32 < s.moduleCount)

/-- Whether the line of an address is poisoned (R123). -/
def State.poisoned (s : State) (a : Nat) : Bool := s.poison.contains (a / 128)
/-- The accesses of a store to a line that is poisoned after them. -/
def GOp.spoil (o : GOp) (line : Nat) : GOp :=
  { o with lanes := o.lanes.map fun r => if r.stage = 2 && r.pa / 128 == line then { r with spoiled := true } else r }
/-- Poison a line: what has been written to it before covers it no longer (R123). -/
def State.setPoison (s : State) (a : Nat) : State :=
  { s with poison := if s.poison.contains (a / 128) then s.poison else (a / 128) :: s.poison
           ops := s.ops.map fun e => (e.1, e.2.spoil (a / 128)) }
/-- Lines that a single write covers whole are poisoned no longer (R123). -/
def State.unpoison (s : State) (cells : List Host.Cell) : State :=
  { s with poison := s.poison.filter fun n =>
      !(List.range 128).all fun i => (cells.lookup (128 * n + i)).isSome }

/-! ### Translation -/

/-- Read, write or fetch (R126). -/
inductive AccessKind where
  | read | write | fetch
  deriving DecidableEq, Repr

/-- Lowest VA bit of a level (Table 4.2). -/
def levelShift : Nat → Nat
  | 0 => 16 | 1 => 21 | 2 => 30 | 3 => 39 | _ => 48
/-- Entries of a table of a level (Table 4.2). -/
def levelEntries : Nat → Nat
  | 0 => 32 | _ => 512
/-- The alignment of a table of a level (Table 4.2). -/
def tableAlign : Nat → Nat
  | 0 => 256 | _ => 4096

/-- The walk of R126 from level `n - 1` down, from the table at `a`; entries are read at their homes. -/
def State.walk (s : State) (asid va : Nat) : Nat → Nat → Except XFault TlbEntry
  | 0, _ => .error (xfault .pageFault)
  | level + 1, a =>
    let at_ := a + 8 * (va / 2 ^ levelShift level % levelEntries level)
    if !s.paOk at_ then .error (xfault .protection)
    else if s.poisoned at_ then .error (lineFault .uncorrectable at_)
    else
      let e := readNum s.mem at_ 8
      let addr := e / 2 ^ 8 % 2 ^ 54 * 2 ^ 8
      let leaf := e.testBit 1
      let size := 2 ^ levelShift level
      if !e.testBit 0 || e / 2 ^ 62 != 0 || e / 2 ^ 4 % 16 != 0 then .error (xfault .pageFault)
      else if leaf && decide (3 ≤ level) then .error (xfault .pageFault)
      else if !leaf && level == 0 then .error (xfault .pageFault)
      else if addr % (if leaf then size else tableAlign (level - 1)) != 0 then .error (xfault .pageFault)
      else if leaf then
        .ok { asid := asid, va := va / size * size, size := size, pa := addr, w := e.testBit 2, x := e.testBit 3 }
      else s.walk asid va level addr

/-- The root table of an ASID in force on a module; 0 means no address space (R467). -/
def State.rootOf (s : State) (m asid : Nat) : Nat := (tget (s.module m).rootsLive asid).getD 0

/-- The translation of the page of an address that a die uses: the one it holds, else that of a walk (R127). -/
def State.pageOf (s : State) (d asid va : Nat) : Except XFault TlbEntry :=
  match (s.die d).tlb.find? fun e => e.asid == asid && decide (e.va ≤ va) && decide (va < e.va + e.size) with
  | some e => .ok e
  | none =>
    if s.rootOf (moduleOf d) asid = 0 then .error (xfault .pageFault)
    else s.walk asid va 5 (s.rootOf (moduleOf d) asid)

/-- translate of R126, then R122. -/
def State.xlate (s : State) (d asid : Nat) (kind : AccessKind) (va : Nat) : Except XFault Nat :=
  if va ≥ 2 ^ 57 then .error (xfault .protection)
  else
    match s.pageOf d asid va with
    | .error f => .error f
    | .ok e =>
      if (kind = .write && !e.w) || (kind = .fetch && !e.x) then .error (xfault .protection)
      else if s.paOk (e.pa + va % e.size) then .ok (e.pa + va % e.size)
      else .error (xfault .protection)

/-- The die keeps the translation that it used (R127); what it holds already goes before it. -/
def State.touch (s : State) (d asid va : Nat) : State :=
  if va ≥ 2 ^ 57 then s
  else
    match s.pageOf d asid va with
    | .error _ => s
    | .ok e => if (s.die d).tlb.contains e then s else s.onDie d fun x => { x with tlb := x.tlb ++ [e] }

/-- The die keeps the translations of a range. -/
def State.touchRange (s : State) (d asid va n : Nat) : State :=
  (List.range (n / 2 ^ 16 + 2)).foldl (fun s i => s.touch d asid (min (va + i * 2 ^ 16) (va + n - 1))) s

/-! ### Views -/

/-- Whether a home lies in another module than the die, or on the die itself: the view is the home (R131). -/
def atHome (d home : Nat) : Bool := home == d || home / 32 != d / 32

/-- The writes performed at their home that a die has yet to apply to a byte, and what the byte held before the first
of them. -/
def State.missedOld (s : State) (d a : Nat) : Option Byte :=
  let ws := s.writes.filterMap fun w =>
    if w.2.order != 0 && w.2.todo.contains d then (w.2.old.lookup a).map fun x => (w.2.order, x) else none
  match ws with
  | [] => none
  | w :: rest => some (rest.foldl (fun x y => if y.1 < x.1 then y else x) w).2

/-- A byte in the view of a die (R131 to R135). -/
def State.viewByte (s : State) (d a : Nat) : Byte :=
  if atHome d (paHome a) then readByte s.mem a
  else
    match tget (s.die d).rep a with
    | some e => e.val
    | none => (s.missedOld d a).getD (readByte s.mem a)

/-- A number in the view of a die. -/
def State.viewNum (s : State) (d a n : Nat) : Nat := natOfBytes ((List.range n).map fun i => s.viewByte d (a + i))

/-- The entry of a die in its own clock vector, and others (R133). -/
def clockOf (c : List Nat) (d : Nat) : Nat := c.getD (d % 32) 0
/-- A clock vector with one entry raised. -/
def clockTick (c : List Nat) (d : Nat) : List Nat := c.mapIdx fun i x => if i = d % 32 then x + 1 else x
/-- A clock vector that counts every write that another counts. -/
def clockCovers (mine other : List Nat) : Bool := (List.range 24).all fun i => decide (other.getD i 0 ≤ mine.getD i 0)

/-- The dies of a die's module but that die. -/
def otherDies (d : Nat) : List Nat := ((List.range 24).map (32 * (d / 32) + ·)).filter (· != d)

/-- A byte of a replica written. -/
def State.setRep (s : State) (d a : Nat) (e : RepByte) : State := s.onDie d fun x => { x with rep := tput x.rep a e }

/-- Writes of a home that have not reached every view keep the replicas' bytes; a byte with none is the home's. -/
def State.dropRep (s : State) (cells : List Host.Cell) : State :=
  let free := (cells.map (·.1)).filter fun a => !s.writes.any fun w => (w.2.cells.lookup a).isSome
  match free with
  | [] => s
  | a :: _ => (otherDies (paHome a)).foldl (fun s d => s.onDie d fun x => { x with rep := free.foldl tdel x.rep }) s

/-- A write that has been performed at its home and applied by every die is on its way no longer. -/
def State.retireWrite (s : State) (id : Nat) : State :=
  match tget s.writes id with
  | none => s
  | some w =>
    if w.order != 0 && w.todo.isEmpty then { s with writes := tdel s.writes id }.dropRep w.cells else s

/-- What the home held at the cells of a write. -/
def State.before (s : State) (cells : List Host.Cell) : List Host.Cell := cells.map fun c => (c.1, readByte s.mem c.1)

/-- The home's memory takes a write, next in its order. -/
def State.homeTakes (s : State) (cells : List Host.Cell) : State :=
  { s with mem := writeCells s.mem cells, nextOrder := s.nextOrder + 1 }.unpoison cells

/-- A write that originates at its home, where it is performed at once (Table 4.3); its number. -/
def State.originate (s : State) (home bough size : Nat) (cells : List Host.Cell) : Nat × State :=
  let id := s.nextOp
  let w : Write := { origin := home, clock := (s.die home).clock, size := size, cells := cells, old := s.before cells, home := home,
                     order := s.nextOrder, todo := otherDies home, bough := bough }
  let t := (s.homeTakes cells).onDie home fun x => { x with clock := clockTick x.clock home }
  (id, { t with nextOp := id + 1, writes := tput t.writes id w })

/-- A write applied to the issuing die's view and sent to its home in the same module (Table 4.3); its number. -/
def State.sendWrite (s : State) (d home bough size : Nat) (cells : List Host.Cell) : Nat × State :=
  let id := s.nextOp
  let w : Write := { origin := d, clock := (s.die d).clock, size := size, cells := cells, old := [], home := home, order := 0,
                     todo := otherDies d, bough := bough }
  let t := cells.foldl (fun s c => s.setRep d c.1 { val := c.2, order := 0, own := id, src := d }) s
  let t := t.onDie d fun x => { x with clock := clockTick x.clock d }
  (id, { t with nextOp := id + 1, writes := tput t.writes id w })

/-- The events that bring a write of a home to the other views (R133). -/
def State.spread (s : State) (id : Nat) : State :=
  match tget s.writes id with
  | none => s
  | some w =>
    (w.todo.foldl (fun t d => t.request w.home d 0 .update id (w.cells.head?.map (·.1)) (w.cells.map (·.2)) []) s).laterAll (s.cc + 1)
      (w.todo.map fun d => .replicaApply d id)

/-! ### The replay input (R434, R435) -/

/-- LOGCTL.PLAY. -/
def Die.playOn (d : Die) : Bool := d.logCtl.getLsbD 2

/-- A record of the replay input. -/
def State.playRecord (s : State) (d i : Nat) : Nat := readNum s.mem ((s.die d).playBase.toNat + 32 * i) 32

/-- Records of the replay input. -/
def Die.playCount (x : Die) : Nat := x.playLen.toNat / 32

/-- Whether a launch follows the replay input of a die. -/
def State.plays (s : State) (d launch : Nat) : Bool :=
  (s.die d).playOn && !(s.die d).diverged && ((tget s.launches launch).map (·.replay)).getD false

/-- The first record of the input that is not yet followed and has the property. -/
def State.nextPlay (s : State) (d : Nat) (p : Nat → Bool) : Option (Nat × Nat) :=
  ((List.range (s.die d).playCount).find? fun i => !(s.die d).played.contains i && p (s.playRecord d i)).map fun i =>
    (i, s.playRecord d i)

/-- A record of the input has been followed. -/
def State.followed (s : State) (d i : Nat) : State := s.onDie d fun x => { x with played := i :: x.played }

/-- TYPE of a record. -/
def recType (r : Nat) : Nat := r % 256
/-- Whether a record names a bough by its place: CTX, BNUM, SLOT and CORE. A replay runs its one recorded launch under an identity of
its own, so LAUNCH is not compared (R434; assumption 143). -/
def recOf (r ids : Nat) : Bool := bitsOf r 96 16 == ids % 2 ^ 16

/-! ### Writes on their way -/

/-- Whether a die has applied every write that a write's vector counts (R133). -/
def State.mayApply (s : State) (d : Nat) (w : Write) : Bool := clockCovers (s.die d).clock w.clock

/-- The launch of a bough key. -/
def launchOfKey (bough : Nat) : Nat := bough / 2 ^ 28

/-- The input states a reorder (WORDER of R434) in which this write comes first and another die's, not yet applied here,
second: as in the run that it logs, the second is applied before (assumption 129). -/
def State.playHolds (s : State) (d : Nat) (w : Write) : Bool :=
  s.plays d (launchOfKey w.bough) &&
    w.cells.any fun c =>
      (s.nextPlay d fun r => recType r == 0x05 && bitsOf r 128 40 == paLocal c.1 && bitsOf r 168 22 == w.origin).any
        fun x => ((tget (s.die d).rep c.1).map fun e => e.src != bitsOf x.2 190 22).getD true

/-- Reorders of bytes noted by a die, once for each element (R134). -/
def State.noteSwitches (s : State) (d size launch : Nat) (xs : List Switch) : State :=
  let ys := xs.foldl (fun acc x =>
    if acc.any fun (y : Switch) => y.addr / size == x.addr / size && y.first == x.first && y.second == x.second then acc
    else acc ++ [{ x with launch := launch, time := s.cc }]) []
  if ys.isEmpty then s else s.onDie d fun x => { x with reorders := x.reorders ++ ys }

/-- A reorder of a byte. -/
def switchOf (a first second : Nat) : Switch := { addr := paLocal a, first := first, second := second, launch := 0, time := 0 }

/-- Whether what a store has written covers a line whole. -/
def GOp.covers (o : GOp) (line : Nat) : Bool :=
  o.kind == .store && (List.range 128).all fun i => o.lanes.any fun r =>
    r.stage == 2 && r.fault.isNone && !r.spoiled && decide (r.pa ≤ 128 * line + i) && decide (128 * line + i < r.pa + r.bytes)

/-- Lines that one store has covered whole, in as many parts as it may, are poisoned no longer (R123). -/
def State.unpoisonStored (s : State) : State :=
  if s.poison.isEmpty then s
  else { s with poison := s.poison.filter fun n => !s.ops.any fun e => e.2.covers n }

/-- The home performs a write that was sent to it, once it may (R133): its place in the home order is the arrival order
(R134), and a write that originates there carries the home's vector of then. The issuing die puts its bytes in that order. -/
def State.performSent (s : State) (id : Nat) : State :=
  match tget s.writes id with
  | none => s
  | some w =>
    if w.order != 0 || !s.mayApply w.home w then s
    else
      let n := s.nextOrder
      let t := s.homeTakes w.cells
      let t := t.onDie w.home fun x => { x with clock := clockTick x.clock w.origin }
      let t := { t with writes := tmod t.writes id fun x =>
                  { x with order := n, old := s.before w.cells, todo := x.todo.filter (· != w.home)
                           clock := if w.origin = w.home then (s.die w.home).clock else w.clock } }
      let step := fun (p : State × List Switch) (c : Host.Cell) =>
        match tget (p.1.die w.origin).rep c.1 with
        | none => p
        | some e =>
          if e.own = id then (p.1.setRep w.origin c.1 { e with order := n, own := 0 }, p.2)
          else if e.own = 0 then
            (p.1.setRep w.origin c.1 { val := c.2, order := n, own := 0, src := w.origin },
              p.2 ++ [switchOf c.1 e.src w.origin])
          else p
      let r := w.cells.foldl step (t, [])
      let t := (r.1.retireWrite id).noteSwitches w.origin w.size (launchOfKey w.bough) r.2
      { t with ops := t.ops.map fun (e : Nat × GOp) =>
          (e.1, { e.2 with lanes := e.2.lanes.map fun (x : LaneReq) => if x.wid = id then { x with stage := 2 } else x }) }.unpoisonStored

/-- Whether a write of a bough's own that a die has applied and its home has not performed names a byte. -/
def State.ownPending (s : State) (d bough a : Nat) : Bool :=
  s.writes.any fun x => x.2.order == 0 && x.2.origin == d && x.2.bough == bough && (x.2.cells.lookup a).isSome

/-- A die applies a write that its home has performed, once it has applied what the write's vector counts (R133); a byte that holds a
write later in the home order keeps it (R134), as it does where a later write of the same bough is still on its way to the home
(R132, R135). -/
def State.applyReplica (s : State) (d id : Nat) : State :=
  match tget s.writes id with
  | none => s
  | some w =>
    if w.order = 0 || !w.todo.contains d || !s.mayApply d w || s.playHolds d w then s
    else
      let step := fun (p : State × List Switch) (c : Host.Cell) =>
        match tget (p.1.die d).rep c.1 with
        | some e =>
          if (e.own = 0 && decide (w.order < e.order)) || s.ownPending d w.bough c.1 then (p.1, p.2 ++ [switchOf c.1 w.origin e.src])
          else (p.1.setRep d c.1 { val := c.2, order := w.order, own := 0, src := w.origin }, p.2)
        | none => (p.1.setRep d c.1 { val := c.2, order := w.order, own := 0, src := w.origin }, p.2)
      let r := w.cells.foldl step (s, [])
      let t := r.1.onDie d fun x => { x with clock := clockTick x.clock w.origin }
      let t := { t with writes := tmod t.writes id fun x => { x with todo := x.todo.filter (· != d) } }
      (t.retireWrite id).noteSwitches d w.size (launchOfKey w.bough) r.2

/-- A write that a home is sent arrives there: performed, and on its way to the other views (R131, R133). -/
def State.performArrived (s : State) (id : Nat) : State :=
  let t := s.performSent id
  if (tget t.writes id).map (·.order) == (tget s.writes id).map (·.order) then t else t.spread id

end Sys2Proof.Machine
end

