-- ==== Sys2Proof/Machine/CopyShape.lean ====
section
/-!
DEFINITION. The geometry of a copy (R300 to R308): its shape, its rows, the elements of a conversion, and the global
lines it will write and owns (R147); and the reads and writes of the engines, which wait for the copy that owns a line.
-/
namespace Sys2Proof.Machine

/-- SPACE of a space-tagged address (Table 9.3). -/
def spaceOf (x : DWord) : Nat := bitsOf x.toNat 61 3

namespace CopyOp
/-- ROWS. -/
def rows (c : CopyOp) : Nat := bitsOf c.shape0.toNat 0 16
/-- RLEN. -/
def rlen (c : CopyOp) : Nat := bitsOf c.shape0.toNat 16 21
/-- CONV. -/
def conv (c : CopyOp) : Nat := bitsOf c.shape0.toNat 40 4
/-- SIDX. -/
def sidx (c : CopyOp) : Nat := bitsOf c.shape0.toNat 44 20
/-- SPITCH. -/
def spitch (c : CopyOp) : Int := (c.shape1.extractLsb' 0 32).toInt
/-- DPITCH. -/
def dpitch (c : CopyOp) : Int := (c.shape1.extractLsb' 32 32).toInt
end CopyOp

/-- Bits of one element of a slot's format. -/
def FSlot.elemBits (s : FSlot) : Nat :=
  match s.elem with
  | some (.flt f) => f.width
  | some (.int w _) => w
  | some .pni => s.planes
  | none => 8

/-- Bits of a source element and of a destination element (Table 9.5). -/
def convBits (s : FSlot) (conv : Nat) : Nat × Nat :=
  match conv with
  | 0 => (s.elemBits, 32)
  | 1 => (s.elemBits, 16)
  | 2 => (32, s.elemBits)
  | _ => (16, s.elemBits)

/-- Bytes of a source row and of a destination row. -/
def CopyOp.rowBytes (c : CopyOp) : Nat × Nat :=
  match c.form with
  | .convert slot => (c.rlen * (convBits slot c.conv).1 / 8, c.rlen * (convBits slot c.conv).2 / 8)
  | _ => (c.rlen, c.rlen)

/-- Whether a form moves rows at all. -/
def CopyOp.moves (c : CopyOp) : Bool :=
  (match c.form with
    | .cancel | .stamp _ => false
    | _ => true) && c.rows != 0 && c.rlen != 0

/-- Word r of a copy's index list, in its own partition (R304); none outside it. -/
def copyIndex (g : Grove) (l : Launch) (c : CopyOp) (r : Nat) : Option Nat :=
  let at_ := c.idx.toNat % 2 ^ 20 + 4 * r
  if at_ + 4 ≤ l.scratchBytes then some (readNum g.scratch at_ 4) else none

/-- Start of a row at its destination, as an exact address (R301, R304). -/
def rowDst (base : Nat) (c : CopyOp) (dr : Nat) : Int := base + dr * c.dpitch
/-- Start of a row at its source. -/
def rowSrc (base : Nat) (c : CopyOp) (sr : Nat) : Int := base + sr * c.spitch

/-- The row that a destination row index is (cpys scatters by its list). -/
def CopyOp.dstRow (c : CopyOp) (g : Grove) (l : Launch) (r : Nat) : Option Nat :=
  match c.form with
  | .scatter => match c.progress.index with
    | some xs => xs.getD r none
    | none => copyIndex g l c r
  | _ => some r

/-- The lines of global memory that a copy writes, by virtual address / 128 (R147). -/
def CopyOp.virtualLines (c : CopyOp) (g : Grove) (l : Launch) : List Int :=
  if !c.moves || c.refused || spaceOf c.dst != 0 then []
  else
    ((List.range c.rows).map fun r =>
      match c.dstRow g l r with
      | none => []
      | some dr =>
        let a := rowDst c.dst.toNat c dr
        (List.range ((a + c.rowBytes.2 - 1) / 128 - a / 128 + 1).toNat).map fun (i : Nat) => a / 128 + (i : Int)).flatten.eraseDups

/-! ### Ownership (R147) -/

/-- The grove of an operation's bough, and its launch. -/
def State.opHome (s : State) (bough : Nat) : Option (Grove × Launch) :=
  match s.grove? (groveOf bough) with
  | none => none
  | some g => (s.launchOf g).map fun l => (g, l)

/-- The lines of global memory that a copy writes, by virtual and by physical line (R147). -/
def State.copyLines (s : State) (c : CopyOp) : List (Int × Nat) :=
  match s.opHome c.bough with
  | none => []
  | some (g, l) =>
    (c.virtualLines g l).filterMap fun n =>
      match s.xlate g.die l.asid .write (BitVec.ofInt 64 (128 * n)).toNat with
      | .ok pa => some (n, pa / 128)
      | .error _ => none

/-- Whether a copy is done with a line: it has written it, or leaves it as it is, and its write stands in every view. -/
def State.lineWritten (s : State) (c : CopyOp) (x : Int × Nat) : Bool :=
  c.progress.landed.contains (0, x.1) &&
    !s.writes.any fun w => c.progress.sent.contains w.1 && w.2.cells.any fun e => e.1 / 128 == x.2

/-- The physical lines that some of the copies own (R147). -/
def State.ownedLines (s : State) (some_ : CopyOp → Bool) : List Nat :=
  (s.copies.map fun e =>
    if (e.2.life == .waiting || e.2.life == .running) && some_ e.2 then
      ((s.copyLines e.2).filter fun x => !s.lineWritten e.2 x).map (·.2)
    else []).flatten

/-- The physical lines that copies own. -/
def State.owned (s : State) : List Nat := s.ownedLines fun c => c.owns.isSome

/-- Whether a range of an address space meets some lines. -/
def State.rangeOn (s : State) (lines : List Nat) (d asid va n : Nat) : Bool :=
  !lines.isEmpty && n != 0 && (List.range (n / 128 + 2)).any fun i =>
    match s.xlate d asid .read (min (va + 128 * i) (va + n - 1)) with
    | .ok pa => lines.contains (pa / 128)
    | .error _ => false

/-- Whether a copy owns a line of a range of an address space: an engine's access to it waits (R147). -/
def State.rangeOwned (s : State) (d asid va n : Nat) : Bool := !s.copies.isEmpty && s.rangeOn s.owned d asid va n

/-- Whether no write of another party to a line that a copy is to write is on its way to its home: what the copy comes to own now,
every other access is before or after (R147). -/
def State.linesFree (s : State) (c : CopyOp) : Bool :=
  let lines := (s.copyLines c).map (·.2)
  lines.isEmpty || s.writes.all fun w => w.2.order != 0 || w.2.bough == c.bough || !w.2.cells.any fun e => lines.contains (e.1 / 128)

/-- Copies of a bough come to own their lines at the latest before an access that it issued after them, as far as they may
(R147). -/
def State.claim (s : State) (bough order : Nat) : State :=
  let mine (c : CopyOp) : Bool :=
    c.bough == bough && (c.life == .waiting || c.life == .running) && c.owns.isNone && decide (c.order < order)
  if s.copies.any fun e => mine e.2 then
    { s with copies := s.copies.map fun e => (e.1, if mine e.2 && s.linesFree e.2 then { e.2 with owns := some s.nextOp } else e.2) }
  else s

/-- Whether a copy that a bough issued before an access has yet to own its lines. -/
def State.unclaimed (s : State) (bough order : Nat) : Bool :=
  s.copies.any fun e => e.2.bough == bough && (e.2.life == .waiting || e.2.life == .running) && e.2.owns.isNone &&
    decide (e.2.order < order) && !s.linesFree e.2

/-! ### Records of the engines -/

/-- Every write on its way that a die has applied reaches its home and every view of the module (assumption 20); one of the host or
of an engine that waits at its home has been applied nowhere. -/
def State.pushOut (s : State) (o : Nat) : State :=
  (s.writes.filter fun w => w.2.home / 32 == o / 32 && !w.2.todo.contains o && (w.2.order != 0 || w.2.origin != w.2.home)).foldl (fun t w =>
    w.2.todo.foldl (fun t d => t.applyReplica d w.1) (t.performSent w.1)) s

/-- The dies of a die's module. -/
def diesBeside (d : Nat) : List Nat := (List.range 24).map (32 * (d / 32) + ·)

/-- Bytes that stand in every view at once; bytes of writes still on their way are ordered before them. -/
def State.setAll (s : State) (cells : List Host.Cell) : State :=
  let n := s.nextOrder
  let t := s.homeTakes cells
  let late := cells.filter fun c => s.writes.any fun w => (w.2.cells.lookup c.1).isSome
  late.foldl (fun t c =>
    (otherDies (paHome c.1)).foldl (fun t d => t.setRep d c.1 { val := c.2, order := n, own := 0, src := paHome c.1 }) t) t

/-- A write that waits to be performed at its home, where it originates; `source` stands for whose it is. -/
def State.sendLater (s : State) (source home size : Nat) (cells : List Host.Cell) : State :=
  let id := s.nextOp
  let w : Write := { origin := home, clock := (s.die home).clock, size := size, cells := cells, old := [], home := home, order := 0,
                     todo := otherDies home, bough := source }
  { s with nextOp := id + 1, writes := tput s.writes id w }.atTime (s.cc + 1) (.homeAccess id 0 false)

/-- What stands for the engines of a die as the source of writes; no bough has this key. -/
def engineKey (d : Nat) : Nat := 2 ^ 62 + d

/-- Bytes that an engine writes at once: what its die has applied goes before them, then they stand in every view, and every die
counts them (R133, R425; assumption 20). -/
def State.putNow (s : State) (d : Nat) (cells : List Host.Cell) : State :=
  let origins := (cells.map fun c => if paHome c.1 / 32 = d / 32 then d else paHome c.1).eraseDups
  let t := (origins.foldl State.pushOut s).setAll cells
  origins.foldl (fun t o => (diesBeside o).foldl (fun t e => t.onDie e fun x => { x with clock := clockTick x.clock o }) t) t

/-- A record of an engine of a die; what of it lies on a line that a copy owns is performed after the copy (R147). -/
def State.putEverywhere (s : State) (d : Nat) (cells : List Host.Cell) : State :=
  let lines := if s.copies.isEmpty then [] else s.owned
  let held := cells.filter fun c => lines.contains (c.1 / 128)
  if held.isEmpty then s.putNow d cells
  else
    let free := cells.filter fun c => !lines.contains (c.1 / 128)
    let t := if free.isEmpty then s else s.putNow d free
    ((held.map fun c => paHome c.1).eraseDups).foldl (fun t h => t.sendLater (engineKey d) h 4 (held.filter fun c => paHome c.1 == h)) t

/-! ### Accesses of the engines by virtual address -/

/-- Bytes read at their homes in an address space (R126); the first fault in address order ends the reading. -/
def State.readVa (s : State) (d asid va n : Nat) : Except XFault (List Byte) :=
  (List.range n).foldr (fun i acc =>
    match s.xlate d asid .read (va + i) with
    | .error f => .error f
    | .ok pa =>
      if s.poisoned pa then .error (lineFault .uncorrectable pa)
      else
        match s.pathCause d (paHome pa) (some (paLocal pa)), acc with
        | some c, _ => .error (wayFault c pa)
        | none, .ok xs => .ok (s.viewByte d pa :: xs)
        | none, .error f => .error f) (.ok [])

/-- The physical cells of bytes to be written from a virtual address up. -/
def State.cellsVa (s : State) (d asid va : Nat) (bytes : List Byte) : Except XFault (List Host.Cell) :=
  bytes.zipIdx.foldr (fun e acc =>
    match s.xlate d asid .write (va + e.2) with
    | .error f => .error f
    | .ok pa =>
      match s.pathCause d (paHome pa) (some (paLocal pa)), acc with
      | some c, _ => .error (wayFault c pa)
      | none, .ok xs => .ok ((pa, e.1) :: xs)
      | none, .error f => .error f) (.ok [])

/-- An engine writes bytes at a virtual address, whole or, at a fault, not at all. -/
def State.writeVa (s : State) (d asid va : Nat) (bytes : List Byte) : Except XFault State :=
  match s.cellsVa d asid va bytes with
  | .error f => .error f
  | .ok cells => .ok ((s.touchRange d asid va bytes.length).putEverywhere d cells)

/-- What comes of such a write: the state, and whether it was performed; the die keeps the translations either way (R127). -/
def State.tryWrite (s : State) (d asid va : Nat) (bytes : List Byte) : State × Bool :=
  match s.writeVa d asid va bytes with
  | .ok t => (t, true)
  | .error _ => (s.touchRange d asid va bytes.length, false)

end Sys2Proof.Machine
end

