-- ==== Sys2Proof/Machine/Record.lean ====
section
/-!
DEFINITION. What the module tells: the host's event ring (R391, R408, R422, R445, R468, R469), the log ring of a die with
its gaps (R423 to R433), the replay input (R434, R435), stamps (R439, R440) and trace records (R436 to R438).
-/
namespace Sys2Proof.Machine

/-! ### Events of the other sources -/

/-- A record in the layout of R408: beacon (2), trust (3) and record engine (4). -/
def State.postBeacon (s : State) (m src kind member seq : Nat) : State :=
  s.onModule m fun x => x.post src (BitVec.ofNat 512
    (packFields [(kind, 0, 8), (member, 8, 6), (m, 32, 17), (s.cc, 64, 64), (seq, 128, 32)]))

/-- Wavelengths of a set of groups (R384). -/
def groupWaves (g : BitVec 4) : Nat :=
  ((List.range 4).filter fun i => g.getLsbD i).foldl (fun n i => n + 15 * 16 ^ i) 0

/-- A fabric event of a link end (Table 12.8). -/
def State.postFabric (s : State) (k kind : Nat) (old new : BitVec 4) (seq replayed : Nat) : State :=
  let m := linkModule k
  s.onModule m fun x => x.post 1 (BitVec.ofNat 512
    (packFields [(kind, 0, 8), (linkFace k, 8, 3), (linkPort k, 11, 3), (linkDie k, 16, 5), (m, 32, 17), (s.cc, 64, 64),
      (groupWaves old, 128, 16), (groupWaves new, 144, 16), (seq, 160, 24), (replayed, 192, 32),
      (linkModule (peerEnd k), 224, 17), ((s.link k).light.toNat, 256, 16)]))

/-! ### The log ring -/

/-- LOGCTL.EN. -/
def Die.logOn (d : Die) : Bool := d.logCtl.getLsbD 0
/-- Bytes of the log ring. -/
def Die.logSize (d : Die) : Nat := 2 ^ bitsOf d.logCtl.toNat 3 5
/-- Free space of the log ring (R425). -/
def Die.logFree (d : Die) : Nat := d.logSize - 32 - (d.logWr + d.logSize - d.logRd) % d.logSize

/-- A record written at LOGWR, which then advances (R425); one written into the last 256 slots is counted in RSV. -/
def State.logPut (s : State) (d rec_ : Nat) : State :=
  let x := s.die d
  let t := s.putEverywhere d (numCells (x.logBase.toNat + x.logWr) 32 rec_)
  t.onDie d fun y =>
    { y with logWr := (x.logWr + 32) % x.logSize,
             reserve := if x.logFree < 257 * 32 then y.reserve ++ [x.logWr] else y.reserve }

/-- What a record is for the rules of a filling ring (R431, R440). -/
inductive LogKind where
  | bough | other | stamp
  deriving DecidableEq, Repr

/-- A record of Table 15.4; `ids` are bits 127:96. -/
def logRecord (ty aux ids body time : Nat) : Nat :=
  packFields [(ty, 0, 8), (time, 16, 48), (aux, 64, 32), (ids, 96, 32), (body, 128, 128)]

/-- Bits 127:96 of a record for a bough (R426). -/
def State.boughIds (s : State) (k : Nat) : Nat :=
  match s.bough? k with
  | none => 0
  | some b =>
    match s.grove? b.grove with
    | none => 0
    | some g => packFields [(b.ctx, 0, 4), (b.bnum, 4, 4), (g.slot, 8, 2), (g.core % 64, 10, 6), (g.launch, 16, 16)]

/-- The identity fields of a launch alone, which a BLOCK record carries for its grove ordinal (assumption 136). -/
def launchIds (l : Nat) : Nat := l % 2 ^ 16 * 2 ^ 16

/-- An event not logged (R425, R433): a recorded launch's completion word tells of it. -/
def State.logLost (s : State) (d launch : Nat) : State :=
  (s.onDie d fun x => { x with lostCnt := min (x.lostCnt + 1) (2 ^ 32 - 1), gapLost := x.gapLost + 1 }).onLaunch launch
    fun l => { l with logGap := l.logGap || l.replay }

/-- A gap opened by an event (R433). -/
def State.openGap (s : State) (d launch : Nat) : State :=
  let t := if 32 ≤ (s.die d).logFree then s.logPut d (logRecord 0x08 0 0 0 s.cc) else s
  let t := (t.onDie d fun x => { x with gap := true, gapLost := 0 }).logLost d launch
  t.postBeacon (d / 32) 4 0x62 0 (t.die d).lostCnt

/-- A record for the ring of a die, and whether it was refused (R431 to R433). Recorded launches alone write other
records than stamps. -/
def State.log (s : State) (d launch : Nat) (kind : LogKind) (rec_ : Nat) : State × Bool :=
  match tget s.launches launch with
  | none => (s, false)
  | some l =>
    let x := s.die d
    if kind != .stamp && !l.replay then (s, false)
    else if !x.logOn then (s.logLost d launch, false)
    else if x.gap && l.replay then (s.logLost d launch, false)
    else
      match kind with
      | .bough =>
        if 257 * 32 ≤ x.logFree then (s.logPut d rec_, false)
        else if l.gapMode then (s.openGap d launch, false)
        else (s, true)
      | .other => if 64 ≤ x.logFree then (s.logPut d rec_, false) else (s.openGap d launch, false)
      | .stamp =>
        if 64 ≤ x.logFree then (s.logPut d rec_, false)
        else (if x.gap then s.logLost d launch else s.openGap d launch, false)

/-- A record of a bough for the ring of its die, and whether it was refused. -/
def State.logBough (s : State) (k ty aux body : Nat) (kind : LogKind) : State × Bool :=
  match s.grove? (groveOf k) with
  | none => (s, false)
  | some g => s.log g.die g.launch kind (logRecord ty aux (s.boughIds k) body s.cc)

/-- A bough event of an operation that has taken effect: a refusal traps LOG_FULL before the next bundle (R432). -/
def State.logAfter (s : State) (k ty aux body : Nat) : State :=
  let r := s.logBough k ty aux body .bough
  if r.2 then r.1.onBough k fun b =>
    { b with pend := b.pend ++ [{ rank := 3, cause := Cause.logFull.code, tval := 0, frec := 0, seq := b.seq, from_ := 0 }] }
  else r.1

/-- Logging resumes once a quarter of the ring is free (R433). -/
def State.endGap (s : State) (d : Nat) : State :=
  let x := s.die d
  if x.gap && decide (x.logSize / 4 ≤ x.logFree) then
    (s.logPut d (logRecord 0x09 0 0 x.gapLost s.cc)).onDie d fun y => { y with gap := false, gapLost := 0 }
  else s

/-! ### The end of a replay (R435) -/

/-- Whether a launch may still have a grove where it has none now: one to be placed or to be resumed. -/
def State.mayPlace (s : State) (launch : Nat) : Bool :=
  ((tget s.launches launch).map fun l => l.shares.any fun x => decide (x.2.next < x.2.last)).getD false ||
    s.groves.any fun g => g.2.launch == launch && g.2.life == .saved

/-- Whether a record of the input, of a bough on die `d`, may still be followed: the bough has not halted or has an operation out, or a
grove may yet stand in its place. -/
def State.recordLive (s : State) (d launch r : Nat) : Bool :=
  s.mayPlace launch || s.boughs.any fun e =>
    ((s.grove? e.2.grove).map fun g => g.core == d * 64 + bitsOf r 106 6 && g.launch == launch).getD false && recOf r (s.boughIds e.1) &&
      (e.2.status != .halted || s.ops.any fun o => o.2.bough == e.1)

/-- The input can be followed no longer (R435); `ids` are those of the bough whose bundle is concerned, else 0 (R426). -/
def State.diverge (s : State) (d launch ty pc core ids : Nat) : State :=
  let t := (s.log d launch .other (logRecord 0x0B ty ids pc s.cc)).1
  let t := t.onDie d fun x => { x with diverged := true }
  (t.postBeacon (d / 32) 4 0x63 core ty).onLaunch launch fun l => { l with logGap := true }

/-- The records of the reorders that a die has noted (R134, Table 15.8); one that the input states has been followed. -/
def State.logReorders (s : State) (d : Nat) : State :=
  (s.die d).reorders.foldl (fun s x =>
    let t := (s.log d x.launch .other (logRecord 0x05 0 0
      (packFields [(x.addr, 0, 40), (x.first, 40, 22), (x.second, 62, 22)]) x.time)).1
    if !s.plays d x.launch then t
    else
      match s.nextPlay d fun r => recType r == 0x05 && bitsOf r 128 84 ==
          packFields [(x.addr, 0, 40), (x.first, 40, 22), (x.second, 62, 22)] with
      | some (i, _) => t.followed d i
      | none => t) (s.onDie d fun x => { x with reorders := [] })

/-- The records of the reorders noted on every die. -/
def State.logAllReorders (s : State) : State :=
  (s.dies.filter fun d => !d.2.reorders.isEmpty).foldl (fun s d => s.logReorders d.1) s

/-! ### Stamps (R439, R440) -/

/-- An event of a tag. -/
inductive StampEvent where
  | copyStart | copyLand | matrixStart | matrixEnd
  deriving DecidableEq, Repr

/-- An empty stamp entry of a grove whose first event is at `t`. -/
def Stamp.at (grove t : Nat) : Stamp := { grove := grove, t0 := t, cin := none, opw := none, cmp := none, cout := none }

/-- The table of R439. -/
def Stamp.event (x : Stamp) (e : StampEvent) (t : Nat) : Stamp :=
  match e with
  | .copyStart => x
  | .copyLand =>
    if x.cmp.isSome then { x with cout := some t } else if x.opw.isNone then { x with cin := some t } else x
  | .matrixStart => if x.opw.isNone then { x with opw := some t } else x
  | .matrixEnd => { x with cmp := some t }

/-- A tagged event of a grove updates its core's entry; tag 0 makes none. -/
def State.stamp (s : State) (grove tag : Nat) (e : StampEvent) : State :=
  if tag = 0 then s
  else
    match s.grove? grove with
    | none => s
    | some g =>
      s.onCore g.core fun c =>
        { c with stamps := tupd c.stamps (256 * g.slot + tag) (Stamp.at grove s.cc) fun x => { x.event e s.cc with grove := grove } }

/-- An offset of a STAMP record: absent, or above 2^32 - 2, reads 0xFFFF_FFFF. -/
def stampOffset (t0 : Nat) (x : Option Nat) : Nat :=
  match x with
  | some t => min (t - t0) (2 ^ 32 - 1)
  | none => 2 ^ 32 - 1

/-- A STAMP record (Table 15.8). -/
def stampRecord (x : Stamp) (tag ids : Nat) (incomplete : Bool) : Nat :=
  logRecord 0x20 (packFields [(tag, 0, 8), (if incomplete then 1 else 0, 10, 1)]) ids
    (packFields [(stampOffset x.t0 x.cin, 0, 32), (stampOffset x.t0 x.opw, 32, 32), (stampOffset x.t0 x.cmp, 64, 32),
      (stampOffset x.t0 x.cout, 96, 32)]) x.t0

/-! ### Trace (R436 to R438) -/

/-- Whether a bundle of a launch is traced (R436): `taken` says that its transfer was taken. -/
def Die.traces (x : Die) (launch bc : Nat) (taken refill : Bool) : Bool :=
  let c := x.trCtl.toNat
  let want := bitsOf c 48 16
  c.testBit 0 && (want == 0 || want == launch % 2 ^ 16) &&
    (match bitsOf c 1 2 with
      | 0 => taken
      | 1 => true
      | 2 => bc % 2 ^ bitsOf c 16 6 == 0
      | _ => refill)

/-- A lost trace record (R437, R438). -/
def Die.traceLoss (x : Die) : Die := { x with trLost := min (x.trLost + 1) (2 ^ 32 - 1) }

/-- A TRACE record waits to be written; one that finds 64 waiting is dropped (R437). -/
def Die.pushTrace (x : Die) (r : TraceRec) : Die :=
  if x.pending.length < Config.tracePending then { x with pending := x.pending ++ [r] }
  else { x.traceLoss with bufDrop := true }

/-- A TRACE record waits, and its writing comes; the host hears of the first that is dropped (R437, R445). -/
def State.traced (s : State) (d : Nat) (r : TraceRec) : State :=
  let x := s.die d
  let t := s.onDie d fun x => x.pushTrace r
  if x.pending.length < Config.tracePending then t.later (t.cc + 1) (.traceRecordWrite d)
  else if x.bufDrop then t
  else t.postBeacon (d / 32) 4 0x61 0 (t.die d).trLost

/-- The lowest iid among active spans (R427). -/
def lowestIid (b : Bough) (w : Nat) : Nat :=
  ((List.range (64 / w)).filter fun j => b.active.getLsbD j).foldl
    (fun m j => min m (b.iid.toArray.getD j 0).toNat) (2 ^ 32 - 1)

/-- The TRACE record of a bundle that has issued (R437). -/
def State.traceBundle (s : State) (k : Nat) (pc : DWord) (taken refill : Bool) : State :=
  match s.bough? k with
  | none => s
  | some b =>
    match s.grove? b.grove with
    | none => s
    | some g =>
      match s.launchOf g with
      | none => s
      | some l =>
        if (s.die g.die).traces g.launch s.bc taken refill then
          s.traced g.die
            { bits := BitVec.ofNat 256 (logRecord 0x10 (lowestIid b (l.itemWidth g.stage)) (s.boughIds k)
                (packFields [(pc.toNat, 0, 64), (b.active.toNat, 64, 64)]) s.cc), bough := k }
        else s

/-! ### What a completing launch reports (R345) -/

/-- A drop reported with the launch (R173, R298). -/
def State.dropped (s : State) (launch : Nat) : State := s.onLaunch launch fun l => { l with drops := true }

end Sys2Proof.Machine
end

