-- ==== Sys2Proof/Machine/Flags.lean ====
section
/-!
DEFINITION. Flags: the floating-point flags of a bough (R117), the counting flags of a grove with their fault records
(R36 to R41, R175, R176, R234, R235), and flags that stand in a saved image (R173, R217, R311).
-/
namespace Sys2Proof.Machine

/-! ### cr.fflags (R117) -/

/-- Flags raised by an operation of an engine go to its bough when its completion is applied (R117), to be seen from then on
(assumption 122). -/
def State.raiseFlags (s : State) (k : Nat) (f : Flags) : State := s.onBough k fun b => { b with fflags := b.fflags ||| f }

/-- Whether raised flags are enabled (R117). -/
def enabledRaised (en f : Flags) : Bool := en &&& f != 0

/-! ### Counting flags -/

/-- kset (R175): COUNT, and E, FREC and the fault state cleared. -/
def CFlag.set (n : BitVec 24) : CFlag := { count := n, e := false, frec := 0, cause := 0, pc := 0 }

/-- An increment (R37), with wrap24. -/
def CFlag.bump (f : CFlag) (n : BitVec 24) : CFlag := { f with count := f.count + n }

/-- A completion that ended with a fault whose record has index `n` (R37, R39). -/
def CFlag.offer (f : CFlag) (n : Nat) (x : FaultInfo) : CFlag :=
  if f.e then f else { f with e := true, frec := BitVec.ofNat 7 n, cause := x.cause, pc := x.pc }

/-- A flag of a grove changed. -/
def Grove.onFlag (g : Grove) (k : Nat) (f : CFlag → CFlag) : Grove := { g with flags := vmod g.flags k f }

/-- The register of a flag (R36). -/
def CFlag.word (f : CFlag) : Word := f.frec ++ BitVec.ofBool f.e ++ f.count

/-- Whether a record is free: no flag with E set names it (R235); `taken` are records offered in this bough cycle. -/
def Grove.recordFree (g : Grove) (taken : List Nat) (n : Nat) : Bool :=
  !taken.contains n && !g.flags.toList.any fun f => f.e && f.frec.toNat == n

/-- Address of record n of a grove (R234, R355). -/
def recordVa (l : Launch) (ordinal n : Nat) : Nat := l.faultsVa + 40960 * ordinal + 320 * (n - 1)

/-- The 320 bytes of a fault record (Table 6.9, R234). -/
def recordBytes (x : FaultInfo) (flag : Nat) : List Byte :=
  bytesOfNat 64 (packFields [(x.cause.toNat, 0, 8), (x.bid.toNat, 16, 16), (flag, 32, 5), (x.src, 48, 4),
    (x.aux.toNat, 64, 64), (x.pc.toNat, 128, 64), (x.lanes.toNat, 192, 64), (x.va.toNat, 256, 64)]) ++
  ((List.range 64).map fun l =>
    if x.lanes.getLsbD l then bytesOfNat 4 (x.iids.toArray.getD l 0).toNat else bytesOfNat 4 0).flatten

/-- A record written; one that its area does not take is dropped, and the launch reports FAULTS (R355). -/
def State.putRecord (s : State) (g : Grove) (n : Nat) (bytes : List Byte) (off : Nat) : State :=
  match s.launchOf g with
  | none => s
  | some l =>
    match s.tryWrite g.die l.asid (recordVa l g.ordinal n + off) bytes with
    | (t, true) => t
    | (t, false) => t.onLaunch g.launch fun l => { l with faults := true }

/-- Further faults merged into record 127 (R235). -/
def State.mergeRecord (s : State) (g : Grove) : State :=
  match s.launchOf g with
  | none => s
  | some l =>
    match s.readVa g.die l.asid (recordVa l g.ordinal 127 + 7) 1 with
    | .ok (x :: _) => s.putRecord g 127 [if x = 255 then 255 else x + 1] 7
    | _ => (s.touch g.die l.asid (recordVa l g.ordinal 127 + 7)).onLaunch g.launch fun l => { l with faults := true }

/-- The record of a faulting completion (R235): its index, and the state with the record written. -/
def State.offerRecord (s : State) (g : Grove) (taken : List Nat) (k : Nat) (x : FaultInfo) : Nat × State :=
  match (List.range 126).find? fun i => g.recordFree taken (i + 1) with
  | some i => (i + 1, s.putRecord g (i + 1) (recordBytes x k) 0)
  | none =>
    if g.recordFree taken 127 then (127, s.putRecord g 127 (recordBytes x k) 0) else (127, s.mergeRecord g)

/-- One completion applied to the flags of a grove (R37, R39): the state, the grove, the records offered so far. -/
def State.applyCompletion (p : State × Grove × List Nat) (k inc : Nat) (fault : Option FaultInfo) :
    State × Grove × List Nat :=
  let g := p.2.1.onFlag k fun f => f.bump (BitVec.ofNat 24 inc)
  match fault with
  | none => (p.1, g, p.2.2)
  | some x =>
    let r := p.1.offerRecord g p.2.2 k x
    (r.2, g.onFlag k fun f => f.offer r.1 x, r.1 :: p.2.2)

/-- The control slot's writes and arrivals of a bough cycle, in their order (R176). -/
def Grove.controlWrites (g : Grove) (ws : List FlagWrite) : Grove :=
  ws.foldl (fun g w =>
    match w with
    | .set k n => g.onFlag k fun _ => CFlag.set n
    | .bump k n => g.onFlag k fun f => f.bump n
    | .complete _ _ _ => g) g

/-- Every write of a list to a grove's flags: control writes, then completions (R176). -/
def State.applyFlagWrites (s : State) (g : Grove) (ws : List FlagWrite) : State × Grove :=
  let r := ws.foldl (fun p w =>
    match w with
    | .complete k inc fault => State.applyCompletion p k inc fault
    | _ => p) (s, g.controlWrites ws, [])
  (r.1, r.2.1)

/-- The flag writes of this bough cycle applied, as it ends (R40). -/
def State.settleFlags (s : State) (key : Nat) : State :=
  match s.grove? key with
  | none => s
  | some g =>
    if g.flagWrites.isEmpty then s
    else
      let r := s.applyFlagWrites g g.flagWrites
      r.1.onGrove key fun _ => { r.2 with flagWrites := [] }

/-! ### Flags of a saved grove (Table 11.6) -/

/-- The fault state of a flag as the image holds it. -/
def CFlag.stateWord (f : CFlag) : Nat := if f.e then f.pc.toNat / 32 * 32 + f.cause.toNat % 32 else 0

/-- A flag from its register and its fault state. -/
def flagOfImage (w st : Nat) : CFlag :=
  let e := w.testBit 24
  { count := BitVec.ofNat 24 w, e := e, frec := BitVec.ofNat 7 (w / 2 ^ 25),
    cause := if e then BitVec.ofNat 8 (st % 32) else 0, pc := if e then BitVec.ofNat 64 (st / 32 * 32) else 0 }

/-- The flag registers of a grove image. -/
def flagWords (g : Grove) : List Byte := (g.flags.toList.map fun f => bytesOfNat 4 f.word.toNat).flatten
/-- The fault states of a grove image. -/
def flagStates (g : Grove) : List Byte := (g.flags.toList.map fun f => bytesOfNat 8 f.stateWord).flatten

/-- A number within bytes read. -/
def numAt (bytes : List Byte) (off n : Nat) : Nat := natOfBytes ((bytes.drop off).take n)

/-- The flags that an image's bytes hold. -/
def flagsOfBytes (words states : List Byte) : Vector CFlag 32 :=
  Vector.ofFn fun k => flagOfImage (numAt words (4 * k.val) 4) (numAt states (8 * k.val) 8)

/-- The die that reads and writes a saved grove's image: die 0 of the module on which it stopped. -/
def Grove.saveDie (g : Grove) : Nat := 32 * g.savedOn

/-- A flag write to a saved grove is applied to its image; one that the image does not take is a drop. -/
def State.imageFlag (s : State) (g : Grove) (l : Launch) (w : FlagWrite) : State :=
  match g.saveAt with
  | none => s
  | some at_ =>
    let d := g.saveDie
    let a := at_.toNat
    match s.readVa d l.asid (a + 0x100) 128, s.readVa d l.asid (a + 0x700) 256 with
    | .ok ws, .ok st =>
      let r := s.applyFlagWrites { g with flags := flagsOfBytes ws st } [w]
      let x := r.1.tryWrite d l.asid (a + 0x100) (flagWords r.2)
      if !x.2 then x.1.dropped g.launch
      else
        let y := x.1.tryWrite d l.asid (a + 0x700) (flagStates r.2)
        if y.2 then y.1 else y.1.dropped g.launch
    | _, _ => ((s.touchRange d l.asid (a + 0x100) 128).touchRange d l.asid (a + 0x700) 256).dropped g.launch

/-- The flag that a write names. -/
def FlagWrite.flag : FlagWrite → Nat
  | .set k _ => k
  | .bump k _ => k
  | .complete k _ _ => k

/-- A flag write reaches a grove wherever it stands (R173, R217, R311): a flag that the grove does not have is a drop. To a grove whose
module's clocks are stopped nothing comes any more (R446). -/
def State.reachFlag (s : State) (launch key : Nat) (w : FlagWrite) : State :=
  match s.grove? key with
  | none => s.dropped launch
  | some g =>
    match s.launchOf g with
    | none => s
    | some l =>
      if l.flagBlock ≤ w.flag then s.dropped launch
      else if !(s.module (moduleOf g.die)).clocked then s
      else
        match g.life with
        | .saved => s.imageFlag g l w
        | _ => s.onGrove key fun g => g.pushFlag w

end Sys2Proof.Machine
end

