-- ==== Sys2Proof/Machine/Atomics.lean ====
section
/-!
DEFINITION. What atomic and reduction operations compute: the sub-operations of Tables 6.3 and 6.4 (R218 to R221), and
the exact sums of a deterministic region (R151 to R154).
-/
namespace Sys2Proof.Machine

/-- The operations that atoms, atomg and red share. -/
inductive AtomOp where
  | add | sub | min | max | and | or | xor | xchg | cas | fadd | fadd2
  deriving DecidableEq, Repr

/-- Table 6.3. -/
def atomOf (sub : Nat) (wide : Bool) : AtomOp :=
  match sub with
  | 0 => .add | 1 => .sub | 2 => .min | 3 => .max | 4 => .and | 5 => .or
  | 6 => if wide then .xchg else .xor
  | _ => if wide then .cas else .fadd

/-- Table 6.4. -/
def redOf (sub : Nat) : AtomOp :=
  match sub with
  | 0 => .add | 1 => .fadd | 2 => .min | 3 => .max | 4 => .and | 5 => .or | 6 => .xor | _ => .fadd2

/-- A sum of two codes of a format, rne, the element first among NaNs (R219). -/
def faddCode (f : FFmt) (m d : Nat) : Nat × Flags :=
  roundWith f .rne false (nanOrSum false [valOf f m, valOf f d] [valOf f m, valOf f d])

/-- atomic(op, m, d, w) of R219; a cas carries its new value above its compare value. -/
def atomNew (op : AtomOp) (w m d : Nat) : Nat × Flags :=
  let sm := intVal w true m
  let sd := intVal w true d
  match op with
  | .add => (intCode w (sm + sd), 0)
  | .sub => (intCode w (sm - sd), 0)
  | .min => (intCode w (Min.min sm sd), 0)
  | .max => (intCode w (Max.max sm sd), 0)
  | .and => (m &&& d, 0)
  | .or => (m ||| d, 0)
  | .xor => (m ^^^ d, 0)
  | .xchg => (d % 2 ^ w, 0)
  | .cas => (if m = d % 2 ^ w then d / 2 ^ w % 2 ^ w else m, 0)
  | .fadd => faddCode .fp32 m d
  | .fadd2 =>
    let lo := faddCode .bf16 (m % 2 ^ 16) (d % 2 ^ 16)
    let hi := faddCode .bf16 (m / 2 ^ 16 % 2 ^ 16) (d / 2 ^ 16 % 2 ^ 16)
    (lo.1 + 2 ^ 16 * hi.1, lo.2 ||| hi.2)

/-! ### The reduction region (R151 to R154) -/

/-- The format of region elements. -/
def Launch.regionFmt (l : Launch) : FFmt := if l.rbf16 then .bf16 else .fp32
/-- Bytes of a region element. -/
def Launch.regionBytes (l : Launch) : Nat := if l.rbf16 then 2 else 4

/-- The region element that holds a byte address, in deterministic mode. -/
def Launch.elementAt (l : Launch) (va : Nat) : Option Nat :=
  if l.det && decide (l.rbase ≤ va) && decide (va < l.rbase + l.regionBytes * l.rlen) then
    some ((va - l.rbase) / l.regionBytes)
  else none

/-- Address of an element's shadow. -/
def Launch.shadowVa (l : Launch) (i : Nat) : Nat := l.rshadow + 64 * i
/-- Address of an element. -/
def Launch.elementVa (l : Launch) (i : Nat) : Nat := l.rbase + l.regionBytes * i

/-- A shadow (R151). -/
structure Shadow where
  acc : Int
  cnt : Nat
  live : Bool
  pinf : Bool
  ninf : Bool
  nan : Bool
  snan : Bool
  nzp : Bool
  deriving DecidableEq, Repr

/-- The layout of R151. -/
def Shadow.ofNat (n : Nat) : Shadow :=
  { acc := intVal 320 true (bitsOf n 0 320), cnt := bitsOf n 320 48, live := n.testBit 384, pinf := n.testBit 385,
    ninf := n.testBit 386, nan := n.testBit 387, snan := n.testBit 388, nzp := n.testBit 389 }

/-- One bit. -/
def bit01 (b : Bool) : Nat := if b then 1 else 0

/-- The layout of R151. -/
def Shadow.toNat (s : Shadow) : Nat :=
  packFields [(intCode 320 s.acc, 0, 320), (s.cnt, 320, 48), (bit01 s.live, 384, 1), (bit01 s.pinf, 385, 1),
    (bit01 s.ninf, 386, 1), (bit01 s.nan, 387, 1), (bit01 s.snan, 388, 1), (bit01 s.nzp, 389, 1)]

/-- contribute of R152. -/
def Shadow.contribute (s : Shadow) (x : FVal) : Shadow :=
  match x with
  | .nan _ _ => { s with nan := true, snan := s.snan || x.isSignalling }
  | .inf false => { s with pinf := true }
  | .inf true => { s with ninf := true }
  | .zero true => s
  | v => { s with acc := s.acc + (v.real * pow2 149).floor, nzp := true }

/-- red_add of R152; `elem` is the array element's value as it stands. -/
def Shadow.redAdd (s : Shadow) (elem v : FVal) : Shadow :=
  let s := if s.live then s else { s.contribute elem with live := true }
  let s := s.contribute v
  { s with cnt := s.cnt + 1 }

/-- settle_value of R153: the code and its flags. -/
def Shadow.settle (s : Shadow) (f : FFmt) : Nat × Flags :=
  let both := s.pinf && s.ninf
  if s.nan || both then ((nanCode f false 0x400000#23).1, if s.snan || both then Flag.nv else 0)
  else if s.pinf then (f.infCode false, 0)
  else if s.ninf then (f.infCode true, 0)
  else if s.acc = 0 then (f.withSign (!s.nzp) 0, 0)
  else roundTo f .rne false (.fin ((s.acc : Rat) * pow2 (-149)))

end Sys2Proof.Machine
end

