-- ==== Sys2Proof/Machine/CrossLane.lean ====
section
/-!
DEFINITION. Across the lanes of a bough (R260 to R270): permuting reads, groups, reductions, scans, compaction; and
the block quantisation of qnt and dqt (R291 to R295), whose blocks are 32 consecutive lanes.
-/
namespace Sys2Proof.Machine

/-- Lane l of a vector of lanes, zero past lane 63. -/
def laneOf (v : LaneVals) (l : Nat) : DWord := v.toArray.getD l 0

/-- perm(l, j, S) of R262; `w` is the item width and `fill` the fill operand's lanes. -/
def permRead (w : Nat) (spanned : Bool) (a fill : LaneVals) (l : Nat) (j : Int) : DWord :=
  if j < 0 || j > 63 then laneOf fill l
  else if spanned && j.toNat / w ≠ l / w then laneOf fill l
  else laneOf a j.toNat

/-- The lane that a modifier on SA asks for (Table 7.5). -/
def modLane (m : XMode) (k l : Nat) : Int :=
  let d : Nat := 2 ^ k
  match m with
  | .none => l
  | .xor | .sxor => (l ^^^ d : Nat)
  | .dn | .sdn => (l + d : Nat)
  | .up | .sup => (l : Int) - d
  | .rot => ((l + d) % 64 : Nat)

/-- Whether a modifier stays within the span (Table 7.5). -/
def modSpanned : XMode → Bool
  | .sxor | .sdn | .sup => true
  | _ => false

/-- SA through the lane modifier (R269). -/
def modRead (m : XMode) (k w : Nat) (a fill : LaneVals) : LaneVals :=
  Vector.ofFn fun l => permRead w (modSpanned m) a fill l.val (modLane m k l.val)

/-- The permuting forms of Table 7.4. -/
inductive Perm where
  | xshf | xswp | xrot | xbc
  deriving DecidableEq, Repr

/-- The lane a permuting form asks for (Table 7.4); −1 asks for the fill. -/
def permLane (p : Perm) (spanned : Bool) (w n b l : Nat) : Int :=
  let base := l / w * w
  match p with
  | .xshf => if spanned then (if b ≥ w then -1 else (base + b : Nat)) else b
  | .xswp => (l ^^^ n : Nat)
  | .xrot => if spanned then (base + (l - base + n) % w : Nat) else ((l + n) % 64 : Nat)
  | .xbc => if spanned then (if n ≥ w then -1 else (base + n : Nat)) else n

/-- A permuting form in every lane. -/
def permForm (p : Perm) (spanned : Bool) (w n : Nat) (a b fill : LaneVals) : LaneVals :=
  Vector.ofFn fun l =>
    permRead w spanned a fill l.val (permLane p spanned w n ((laneOf b l.val).toNat % 2 ^ 32) l.val)

/-- The group operations of R265, in code order. -/
inductive RedOp where
  | add | min | max | and | or | xor
  deriving DecidableEq, Repr

/-- op of IMM9[2:0]; 6 and 7 are refused before issue. -/
def RedOp.ofCode : Nat → RedOp
  | 0 => .add | 1 => .min | 2 => .max | 3 => .and | 4 => .or | _ => .xor

/-- combine(op, x, y) of R265 on lane values. -/
def combine (op : RedOp) (ty : Ty) (rm : RMode) (sat : Bool) (x y : DWord) : DWord × Flags :=
  match op, tyFloat ty with
  | .add, some _ => floatFn ty rm sat (faddVal rm) x y 0
  | .min, some _ => fminmaxFn ty false x y 0
  | .max, some _ => fminmaxFn ty true x y 0
  | .add, none => intFn ty sat (fun a b _ => a + b) x y 0
  | .min, none => intFn ty false (fun a b _ => Min.min a b) x y 0
  | .max, none => intFn ty false (fun a b _ => Max.max a b) x y 0
  | .and, _ => (laneMask ty (x &&& y), 0)
  | .or, _ => (laneMask ty (x ||| y), 0)
  | .xor, _ => (laneMask ty (x ^^^ y), 0)

/-- identity(op) (R265). -/
def identityOf (op : RedOp) (ty : Ty) : DWord :=
  match op, tyFloat ty with
  | .add, some f => joinSubs ty (List.replicate (tyCount ty) (f.withSign true 0))
  | .min, some f => joinSubs ty (List.replicate (tyCount ty) (f.infCode false))
  | .max, some f => joinSubs ty (List.replicate (tyCount ty) (f.infCode true))
  | .min, none => joinSubs ty (List.replicate (tyCount ty) (intCode (tyWidth ty) (intRange (tyWidth ty) (tySigned ty)).2))
  | .max, none => joinSubs ty (List.replicate (tyCount ty) (intCode (tyWidth ty) (intRange (tyWidth ty) (tySigned ty)).1))
  | .and, _ => laneMask ty (BitVec.allOnes 64)
  | _, _ => 0

/-- One level of the tree: neighbours combined, the lower first (R265). -/
def combinePairs (f : DWord → DWord → DWord × Flags) : List DWord → List DWord × Flags
  | x :: y :: rest =>
    let r := f x y
    let t := combinePairs f rest
    (r.1 :: t.1, r.2 ||| t.2)
  | xs => (xs, 0)

/-- The fixed tree of R265 over a group whose size is a power of two, `k` levels. -/
def treeReduce (f : DWord → DWord → DWord × Flags) : Nat → List DWord → DWord × Flags
  | 0, xs => (xs.headD 0, 0)
  | k + 1, xs =>
    let r := combinePairs f xs
    let t := treeReduce f k r.1
    (t.1, r.2 ||| t.2)

/-- First lanes of the groups: one group of 64 with S = 0, the spans with S = 1 (R263). -/
def groupWidth (spanned : Bool) (w : Nat) : Nat := if spanned then w else 64

/-- xred (R265): what each lane of its group receives, and the flags. -/
def xredForm (op : RedOp) (ty : Ty) (rm : RMode) (sat spanned : Bool) (w : Nat) (act : Mask) (a : LaneVals) :
    LaneVals × Flags :=
  let n := groupWidth spanned w
  let res := (List.range (64 / n)).map fun g =>
    let xs := (List.range n).map fun i => if act.getLsbD (g * n + i) then laneOf a (g * n + i) else identityOf op ty
    if (List.range n).any (fun i => act.getLsbD (g * n + i)) then treeReduce (combine op ty rm sat) (Nat.log2 n) xs
    else ((0, 0) : DWord × Flags)
  (Vector.ofFn fun l => (res.getD (l.val / n) (0, 0)).1, orFlags (res.map Prod.snd))

/-- The prefix of R266 and R268 along the contributors of one group: each with its lane, value and key. `acc` is the
running value and the key before; a changed key starts anew when `seg`. Each contributor is combined, the last of an exclusive scan
too (assumption 156). -/
def scanAlong (f : DWord → DWord → DWord × Flags) (ident : DWord) (excl seg : Bool) :
    Option (DWord × Word) → List (Nat × DWord × Word) → List (Nat × DWord) × Flags
  | _, [] => ([], 0)
  | acc, (l, x, key) :: rest =>
    let fresh := match acc with
      | none => true
      | some (_, k) => seg && k != key
    let r : DWord × Flags := match acc with
      | some (v, _) => if fresh then (x, 0) else f v x
      | none => (x, 0)
    let out := if excl then (match acc with | some (v, _) => v | none => ident) else r.1
    let t := scanAlong f ident excl seg (some (r.1, key)) rest
    ((l, out) :: t.1, r.2 ||| t.2)

/-- xscan and xseg over every group. -/
def scanForm (f : DWord → DWord → DWord × Flags) (ident : DWord) (excl seg spanned : Bool) (w : Nat) (act : Mask)
    (a b : LaneVals) : LaneVals × Flags :=
  let n := groupWidth spanned w
  let res := (List.range (64 / n)).map fun g =>
    scanAlong f ident excl seg none
      (((List.range n).map (g * n + ·)).filterMap fun l =>
        if act.getLsbD l then some (l, laneOf a l, (laneOf b l).setWidth 32) else none)
  let all := (res.map Prod.fst).flatten
  (Vector.ofFn fun l => (all.lookup l.val).getD 0, orFlags (res.map Prod.snd))

/-- xcmpk (R267). -/
def xcmpkForm (spanned : Bool) (w : Nat) (act p : Mask) (a fill : LaneVals) : LaneVals :=
  let n := groupWidth spanned w
  Vector.ofFn fun l =>
    let g := l.val / n * n
    let sel := ((List.range n).map (g + ·)).filter fun k => act.getLsbD k && p.getLsbD k
    match sel[l.val - g]? with
    | some k => laneOf a k
    | none => laneOf fill l.val

/-- One bits of a mask. -/
def maskCount (m : Mask) : Nat := popBits 64 m.toNat

/-- The lanes of l's span in a mask, moved down to bit 0 (R260). -/
def spanBits (m : Mask) (w l : Nat) : DWord := (m >>> (w * (l / w))) &&& BitVec.ofNat 64 (2 ^ w - 1)

/-! ### Quantisation (R292, R293) -/

/-- Code width cw of Table 8.3. -/
def codeWidth (s : FSlot) : Nat :=
  match s.elem with
  | some (.flt f) => f.width
  | some (.int w _) => w
  | some .pni => s.planes
  | none => 0

/-- Largest magnitude M of Table 8.3. -/
def maxMagnitude (s : FSlot) : Rat :=
  match s.elem with
  | some (.flt f) => f.maxFinite
  | some (.int w sg) => ((intRange w sg).2 : Int)
  | some .pni => ((2 ^ (s.planes - 1) - 1 : Int) : Rat)
  | none => 0

/-- emax of Table 8.3 for the formats that allow SCALE = 1. -/
def emaxOf (s : FSlot) : Int :=
  match s.fmt with
  | 0x03 => 8 | 0x04 => 15 | 0x05 => 2 | 0x0A => 6 | 0x0C => 2 | 0x0D => 7 | 0x0E => 3
  | 0x10 => (s.planes : Int) - 2
  | _ => 0

/-- X of R292 for a positive m. -/
def scaleExp (s : FSlot) (m : Rat) : Int :=
  let x := floorLog2 m - emaxOf s
  let x := if m * pow2 (-x) > maxMagnitude s then x + 1 else x
  min (max x (-127)) 127

/-- Whether a value is NaN or an infinity. -/
def FVal.nonFinite (x : FVal) : Bool := x.isNan || x.isInf

/-- Ranks above in R293: larger |x|, NaN and ±inf above every finite value, ties to the lower lane. -/
def ranksAbove (x y : Nat × FVal) : Bool :=
  if x.2.nonFinite then (!y.2.nonFinite || decide (x.1 < y.1))
  else if y.2.nonFinite then false
  else decide (ratAbs y.2.real < ratAbs x.2.real) ||
    (decide (ratAbs y.2.real = ratAbs x.2.real) && decide (x.1 < y.1))

/-- x scaled by 2^-X. -/
def unscale (x : FVal) (e : Int) : FVal :=
  match x with
  | .fin q => .fin (q * pow2 (-e))
  | v => v

/-- What a block gives: SCALE8, SIDEW, and per acting lane its code and ESC bit; the flags. -/
structure BlockCode where
  scale8 : Byte
  sidew : Word
  codes : List (Nat × Nat × Bool)
  flags : Flags
  deriving DecidableEq, Repr

/-- One block with SCALE = 1 (R292, R293): `xs` are its acting lanes with their values, in lane order, and `draw l`
the draw of a lane. -/
def quantBlock (s : FSlot) (draw : Nat → BitVec 64) (xs : List (Nat × FVal)) : BlockCode :=
  let top := if s.fmt = 0x05 then xs.filter (fun x => (xs.filter (fun y => ranksAbove y x)).length < 2) else []
  let rest := xs.filter fun x => !top.contains x
  let bad := rest.any fun x => x.2.nonFinite
  let m := rest.foldl (fun (m : Rat) x => max m (ratAbs x.2.real)) 0
  let e : Int := if m = 0 then 0 else scaleExp s m
  let scale8 : Byte := if bad then 0xFF#8 else BitVec.ofNat 8 (e + 127).toNat
  let one (x : Nat × FVal) : (Nat × Nat × Bool) × Flags :=
    if rest.contains x then
      if bad then ((x.1, 0, false), 0)
      else
        let r := s.conv (draw x.1) (unscale x.2 e)
        ((x.1, r.1, false), r.2)
    else if x.2.nonFinite || ratAbs x.2.real * pow2 (-e) > 6 then ((x.1, 8, true), 0)
    else
      let r := s.conv (draw x.1) (unscale x.2 e)
      ((x.1, r.1, false), r.2)
  let rs := xs.map one
  let outs := ((xs.zip rs).filter fun p => p.2.1.2.2).map fun p => roundTo .bf16 .rne false p.1.2
  let o0 := (outs.getD 0 (0, 0)).1
  let o1 := (outs.getD 1 (0, 0)).1
  { scale8 := scale8, sidew := if s.fmt = 0x05 then BitVec.ofNat 32 (o0 + 2 ^ 16 * o1) else 0,
    codes := rs.map Prod.fst,
    flags := orFlags (rs.map Prod.snd) ||| orFlags (outs.map Prod.snd) ||| (if bad then Flag.nv else 0) }

/-- Code word of Table 8.4 with the side word above it (R292). -/
def codeWord (code : Nat) (scale8 : Byte) (esc : Bool) (sidew : Word) : DWord :=
  BitVec.ofNat 64 (code + 2 ^ 16 * scale8.toNat + (if esc then 2 ^ 24 else 0) + 2 ^ 32 * sidew.toNat)

/-- qnt (R292): the pair of each acting lane, and the flags. -/
def qntForm (s : FSlot) (draw : Nat → BitVec 64) (act : Mask) (a b : LaneVals) : LaneVals × Flags :=
  let val (l : Nat) : FVal × Flags :=
    let x := valOf .fp32 ((laneOf a l).toNat % 2 ^ 32)
    if s.scale ≥ 2 then x.over (valOf .fp32 ((laneOf b l).toNat % 2 ^ 32)) else (x, 0)
  let lanes := (List.range 64).filter fun l => act.getLsbD l
  let vals := lanes.map fun l => (l, val l)
  let divFlags := orFlags (vals.map fun x => x.2.2)
  if s.scale = 1 then
    let blk (k : Nat) := quantBlock s draw ((vals.filter fun x => x.1 / 32 == k).map fun x => (x.1, x.2.1))
    let b0 := blk 0
    let b1 := blk 1
    let word (bk : BlockCode) (l : Nat) : DWord :=
      match bk.codes.lookup l with
      | some (code, esc) => codeWord code bk.scale8 esc bk.sidew
      | none => 0
    (Vector.ofFn fun l => if l.val < 32 then word b0 l.val else word b1 l.val, b0.flags ||| b1.flags)
  else
    let rs := vals.map fun x => (x.1, s.conv (draw x.1) x.2.1)
    (Vector.ofFn fun l => codeWord ((rs.lookup l.val).getD (0, 0)).1 0 false 0,
      divFlags ||| orFlags (rs.map fun x => x.2.2))

/-- The side information that dqt takes from its operands (R295). -/
def dqtSide (s : FSlot) (aw bw : DWord) : Side :=
  if s.scale = 1 then .block (bw.setWidth 32) (aw.extractLsb' 16 8)
  else if s.scale ≥ 2 then .factor (bw.setWidth 32)
  else .none

/-- Escapes before lane l in its block, over every lane (R295). -/
def escapesBefore (a : LaneVals) (l : Nat) : Nat :=
  ((List.range (l % 32)).filter fun i => (laneOf a (l / 32 * 32 + i)).toNat % 16 == 8).length

/-- dqt (R295): FP32 of each acting lane, and the flags. -/
def dqtForm (s : FSlot) (p : Nat) (rm : RMode) (sat : Bool) (act : Mask) (a b : LaneVals) : LaneVals × Flags :=
  let one (l : Nat) : Nat × Flags :=
    let code := (laneOf a l).toNat % 2 ^ codeWidth s
    roundWith .fp32 rm sat (elemValue s p code (escapesBefore a l) (dqtSide s (laneOf a l) (laneOf b l)))
  (Vector.ofFn fun l => if act.getLsbD l.val then BitVec.ofNat 64 (one l.val).1 else 0,
    orFlags (((List.range 64).filter fun l => act.getLsbD l).map fun l => (one l).2))

end Sys2Proof.Machine
end

