-- ==== Sys2Proof/Machine/Operands.lean ====
section
/-!
DEFINITION. Operands: the classes of Tables 2.8 and 2.9 and what each code reads in each type (R62 to R69, R33, R237),
per-lane addresses (R57), and the lanes in which an operation acts (R12, R55, R164, R236).
-/
namespace Sys2Proof.Machine

/-- What a slot operation reads besides its own fields: its bough, grove and launch, the bough cycle, and the
bundle's immediates (R50, R61). -/
structure Ctx where
  key : Nat
  b : Bough
  g : Grove
  l : Launch
  t : Nat
  cc : Nat
  wideForm : Bool
  imm64 : DWord
  vx : BitVec 23
  mx : BitVec 16
  hasXimm : Bool
  deriving DecidableEq, Repr

/-- The context of the issuing bough; none when the bough, its grove or its launch is not there. -/
def State.ctxOf (s : State) (k : Nat) (bd : Bundle) (vx : BitVec 23) (mx : BitVec 16) (hasXimm : Bool) : Option Ctx :=
  match s.bough? k with
  | none => none
  | some b =>
    match s.grove? b.grove with
    | none => none
    | some g =>
      match s.launchOf g with
      | none => none
      | some l =>
        some { key := k, b := b, g := g, l := l, t := s.bc, cc := s.cc, wideForm := bd.form == 1#2, imm64 := bd.imm64,
               vx := vx, mx := mx, hasXimm := hasXimm }

/-- The context of the bundle that is issuing. -/
def State.ctx? (s : State) : Option Ctx := s.ctxOf s.cur.bough s.cur.bundle s.cur.vx s.cur.mx s.cur.hasXimm

/-- Item width of the bough's stage (R11). -/
def Ctx.width (c : Ctx) : Nat := c.l.itemWidth c.g.stage
/-- Main-register allotment (R69). -/
def Ctx.allot (c : Ctx) : Nat := c.l.allot
/-- Lanes of active spans. -/
def Ctx.activeLanes (c : Ctx) : Mask := Machine.activeLanes c.b.active c.width
/-- The lanes in which an operation with predicate field `pr` acts (R12, R55, R164). -/
def Ctx.actLanes (c : Ctx) (pr : BitVec 4) : Mask := c.activeLanes &&& c.b.prMask pr &&& c.b.vmask
/-- Whether a uniform or scalar form acts: PR is p0 and not !p0 (R55). -/
def uniformActs (pr : BitVec 4) : Bool := !pr.getLsbD 3

/-! ### Classes -/

/-- The class of an operand code (Table 2.8). -/
inductive OClass where
  | vreg (n : Nat) | oreg (n : Nat) | latch (n : Nat) | scalar (n : Nat) | chan (n : Nat) | const (n : Nat)
  | special (n : Nat) | imm | imm64 | row (n : Nat) | reserved
  deriving DecidableEq, Repr

/-- Table 2.8. -/
def classOf (code : OpCode) : OClass :=
  let c := code.toNat
  if c < 0x080 then .vreg c
  else if c < 0x088 then .oreg (c - 0x080)
  else if c < 0x08C then .latch (c - 0x088)
  else if c < 0x090 then .reserved
  else if c < 0x0B0 then .scalar (c - 0x090)
  else if c < 0x0B8 then .reserved
  else if c < 0x0C0 then .chan (c - 0x0B8)
  else if c < 0x0E0 then .const (c - 0x0C0)
  else if c < 0x0EC then .special (c - 0x0E0)
  else if c < 0x0F0 then .reserved
  else if c = 0x0F0 then .imm
  else if c = 0x0F1 then .imm64
  else if c < 0x100 then .reserved
  else .row (c - 0x100)

/-! ### Values -/

/-- The patterns of Table 2.13. -/
def constPatterns : List Word :=
  [0x00000000, 0x00000001, 0x00000002, 0x00000003, 0x00000004, 0x00000008, 0x00000010, 0x0000001F,
   0x00000020, 0x0000003F, 0x00000040, 0xFFFFFFFF, 0x80000000, 0x7FFFFFFF, 0x01010101, 0x00010001,
   0x00000000, 0x80000000, 0x3F000000, 0x3F800000, 0x40000000, 0xBF000000, 0xBF800000, 0xC0000000,
   0x7F800000, 0xFF800000, 0x3F317218, 0x3FB8AA3B, 0x40490FDB, 0x3FC90FDB, 0x40C90FDB, 0x3E22F983]

/-- A constant as it reads in a type, or in a uniform form (R67). -/
def constVal (ty : Ty) (uni : Bool) (n : Nat) : DWord :=
  let p := constPatterns.getD n 0
  if n < 16 then (if ty = .d || uni then p.signExtend 64 else p.setWidth 64)
  else
    match tyFloat ty with
    | some f =>
      if ty = .f32 then p.setWidth 64
      else joinSubs ty (List.replicate (tyCount ty) (roundTo f .rne false (f32Val p)).1)
    | none => p.setWidth 64

/-- imm as it reads in a type, or in a uniform form (R68). -/
def immVal (ty : Ty) (uni : Bool) (imm9 : BitVec 9) : DWord :=
  if ty = .d || uni then imm9.signExtend 64
  else if tyPacked ty && (tyFloat ty).isNone then
    joinSubs ty (List.replicate (tyCount ty) (intCode (tyWidth ty) imm9.toInt))
  else (imm9.signExtend 32).setWidth 64

/-- imm64 as it reads (R68). -/
def imm64Val (ty : Ty) (uni : Bool) (x : DWord) : DWord := if ty = .d || uni then x else x &&& 0xFFFFFFFF#64

/-- ispan of Table 1.5. -/
def ispanOf (w l : Nat) : Nat := w + 2 ^ 8 * (l % w) + 2 ^ 16 * (l / w)

/-- bid of Table 1.5. -/
def bidOf (bnum slot ctx : Nat) : Nat := bnum + 2 ^ 4 * slot + 2 ^ 8 * ctx

/-- A special operand in a lane (Table 1.5). -/
def specialVal (c : Ctx) (n l : Nat) : Nat :=
  match n with
  | 0 => l
  | 1 => (c.b.iid.toArray.getD (l / c.width) 0).toNat
  | 2 => (c.b.iage.toArray.getD (l / c.width) 0).toNat
  | 3 => ispanOf c.width l
  | 4 => c.g.gx
  | 5 => c.g.gy
  | 6 => c.g.gz
  | 7 => c.g.stage
  | 8 => bidOf c.b.bnum c.g.slot c.b.ctx
  | 9 => c.g.core % 64
  | 10 => dieOf c.g.core % 32
  | _ => moduleOf (dieOf c.g.core)

/-- A latch (Table 2.8). -/
def Bough.latch (b : Bough) (n : Nat) : Lanes :=
  match n with
  | 0 => b.lv0
  | 1 => b.lv1
  | 2 => b.lm0
  | _ => b.lf0

/-- A row of the grove's tiles (R278). -/
def Grove.row (g : Grove) (n : Nat) : Lanes := (tget g.tiles n).getD zeroLanes

/-- The word at the head of a channel (R279). -/
def Grove.chanHead (g : Grove) (n : Nat) : Lanes :=
  match (g.chans.toArray[n]?).map (·.words) with
  | some (w :: _) => w.2
  | _ => zeroLanes

/-- 32-bit lanes as operand values. -/
def widen (x : Lanes) : LaneVals := x.map (·.setWidth 64)
/-- A register pair as operand values. -/
def pairVals (lo hi : Lanes) : LaneVals := Vector.ofFn fun l => hi.get l ++ lo.get l
/-- The same value in every lane. -/
def bcast (x : DWord) : LaneVals := Vector.replicate 64 x

/-- What an operand code reads in every lane in a type (R237). -/
def Ctx.read (c : Ctx) (ty : Ty) (imm9 : BitVec 9) (code : OpCode) : LaneVals :=
  match classOf code with
  | .vreg n => if ty = .d then pairVals (c.b.vreg n) (c.b.vreg (n + 1)) else widen (c.b.vreg n)
  | .oreg n => if ty = .d then pairVals (c.b.oreg n) (c.b.oreg (n + 1)) else widen (c.b.oreg n)
  | .latch n => widen (c.b.latch n)
  | .scalar n => bcast (laneMask ty (c.b.sreg n))
  | .chan n => widen (c.g.chanHead n)
  | .const n => bcast (constVal ty false n)
  | .special n => Vector.ofFn fun l => BitVec.ofNat 64 (specialVal c n l.val)
  | .imm => bcast (immVal ty false imm9)
  | .imm64 => bcast (imm64Val ty false c.imm64)
  | .row n => widen (c.g.row n)
  | .reserved => bcast 0

/-- What an operand code reads in a uniform form (R277, R67, R68). -/
def Ctx.readUni (c : Ctx) (ty : Ty) (imm9 : BitVec 9) (code : OpCode) : DWord :=
  match classOf code with
  | .scalar n => c.b.sreg n
  | .const n => constVal ty true n
  | .special n => BitVec.ofNat 64 (specialVal c n 0)
  | .imm => immVal ty true imm9
  | .imm64 => c.imm64
  | _ => 0

/-- The fill operand of a permuting read: SC = 0 reads zero (R262). -/
def Ctx.readFill (c : Ctx) (ty : Ty) (imm9 : BitVec 9) (code : OpCode) : LaneVals :=
  if code = 0 then bcast 0 else c.read ty imm9 code

/-- The result of a uniform form extended to 64 bits (R277). -/
def extendUni (ty : Ty) (x : DWord) : DWord :=
  match ty with
  | .d => x
  | .i32 => (x.setWidth 32).signExtend 64
  | _ => (x.setWidth 32).setWidth 64

/-! ### Addresses (R57) -/

/-- Access size in bytes for address scaling. -/
def szScale : Sz → Nat
  | .b | .sb => 1 | .h | .sh => 2 | .w => 4 | .d => 8 | .q => 16 | .row => 256
/-- Bytes per lane (Table 6.2). -/
def szBytes : Sz → Nat
  | .b | .sb => 1 | .h | .sh => 2 | .w | .row => 4 | .d => 8 | .q => 16
/-- Whether a load extends by sign (R208). -/
def szSigned : Sz → Bool
  | .sb | .sh => true
  | _ => false

/-- The byte offset: IMM18, or the 34-bit value of R61 beside `ximm`. -/
def Ctx.offset (c : Ctx) (a : MSlot) : Int := if c.hasXimm then (c.mx ++ a.imm18).toInt else a.imm18.toInt

/-- The exact effective address of a lane (R57), before the row's 4l (R205). -/
def Ctx.baseAddr (c : Ctx) (a : MSlot) (l : Nat) : Int :=
  (c.b.sreg a.sb.toNat).toNat + ((laneOf (c.read .i32 0 a.ad) l).setWidth 32).toInt * szScale a.sz + c.offset a

/-- Lane byte address (Table 6.2). -/
def Ctx.laneAddr (c : Ctx) (a : MSlot) (l : Nat) : Int :=
  c.baseAddr a l + (if a.sz = .row then 4 * (l : Int) else 0)

/-- The one address of a uniform access (R210). -/
def Ctx.uniAddr (c : Ctx) (a : MSlot) : Int :=
  (c.b.sreg a.sb.toNat).toNat + ((c.readUni .i32 0 a.ad).setWidth 32).toInt * szScale a.sz + c.offset a

/-- Numbers of the lanes in a mask, rising. -/
def lanesOf (m : Mask) : List Nat := (List.range 64).filter fun l => m.getLsbD l

end Sys2Proof.Machine
end

