-- ==== Sys2Proof/Machine/Checks.lean ====
section
/-!
DEFINITION. The checks of R75 made on a bundle before it issues: ILLEGAL_BUNDLE, ILLEGAL_OPCODE, ILLEGAL_OPERAND and
DELAY_SLOT_CONTROL, from the field tables 5.1, 6.1, 7.1, 8.1 and 16.5 and the rules that narrow them. The engine
slot's part is in EngineChecks.lean.
-/
namespace Sys2Proof.Machine

/-- What a slot fails: ILLEGAL_BUNDLE, ILLEGAL_OPCODE, ILLEGAL_OPERAND. -/
structure Fails where
  bundle : Bool
  opcode : Bool
  operand : Bool
  deriving DecidableEq, Repr

/-- Nothing failed. -/
def Fails.none : Fails := { bundle := false, opcode := false, operand := false }
/-- An operation that the revision does not assign (R74, R459). -/
def Fails.unassigned : Fails := { bundle := false, opcode := true, operand := false }

/-! ### The vector slot (Tables 7.1, 8.1, 16.5) -/

/-- What a destination field of the vector slot holds. -/
inductive VDst where
  | lane | pair | pred
  deriving DecidableEq, Repr

/-- What a source field holds. -/
inductive VSrc where
  | none | val | pred | carry | flag
  deriving DecidableEq, Repr

/-- The use of IMM9: unused, zero unless named as imm, a control field of the bits given, or the immediate of `li`. -/
inductive ImmUse where
  | none | op | ctl (bits : Nat) | li
  deriving DecidableEq, Repr

/-- One row of Tables 7.1, 8.1, 16.5 with its latency (Table 2.10, R460). -/
structure VInfo where
  tys : List Ty
  utys : List Ty
  dst : VDst
  sa : VSrc
  sb : VSrc
  sc : VSrc
  imm : ImmUse
  rm : Bool
  sat : Bool
  xl : Bool
  lat : Nat
  path : Path
  deriving DecidableEq, Repr

/-- i32 u32 and the packed integers, and .d. -/
def tysAll : List Ty := [.i32, .u32, .h2, .uh2, .b4, .ub4, .s5, .us5, .n8, .un8, .d]
/-- The same without .d. -/
def tysInt : List Ty := [.i32, .u32, .h2, .uh2, .b4, .ub4, .s5, .us5, .n8, .un8]
/-- Types of mul and mad. -/
def tysMul : List Ty := [.i32, .u32, .h2, .uh2, .b4, .ub4]
/-- Types of the shifts. -/
def tysShift : List Ty := [.i32, .u32, .h2, .uh2, .b4, .ub4, .d]
/-- i32 u32 d. -/
def tysWord : List Ty := [.i32, .u32, .d]
/-- Signed types. -/
def tysSigned : List Ty := [.i32, .h2, .b4, .s5, .n8, .d]
/-- Float types. -/
def tysFloat : List Ty := [.f32, .bf2, .hf2, .e43, .e52]
/-- Float types of 16 bits and more. -/
def tysWide : List Ty := [.f32, .bf2, .hf2]
/-- The packed types. -/
def tysPacked : List Ty := [.bf2, .hf2, .h2, .uh2, .b4, .ub4, .s5, .us5, .n8, .un8, .e43, .e52]
/-- Types of cvt and pack (R273). -/
def tysConv : List Ty := [.i32, .u32, .f32, .bf2, .hf2, .h2, .uh2, .b4, .ub4, .n8, .un8, .e43, .e52]
/-- Every type. -/
def tysEvery : List Ty := [.i32, .u32, .f32, .bf2, .hf2, .h2, .uh2, .b4, .ub4, .s5, .us5, .n8, .un8, .e43, .e52, .d]
/-- Types of the group forms (R264). -/
def tysGroup : List Ty := [.i32, .u32, .d, .f32, .bf2, .hf2]

/-- An integer operation of one, two or three sources on the vector path. -/
def vInt (n : Nat) (tys utys : List Ty) (sat xl : Bool) (lat : Nat) : VInfo :=
  { tys := tys, utys := utys, dst := .lane, sa := .val, sb := if n ≥ 2 then .val else .none,
    sc := if n ≥ 3 then .val else .none, imm := .op, rm := false, sat := sat, xl := xl, lat := lat, path := .vector }

/-- A float operation of one, two or three sources on the vector path, with RM and SAT as given. -/
def vFlt (n : Nat) (tys : List Ty) (rm sat : Bool) : VInfo :=
  { tys := tys, utys := [.f32], dst := .lane, sa := .val, sb := if n ≥ 2 then .val else .none,
    sc := if n ≥ 3 then .val else .none, imm := .op, rm := rm, sat := sat, xl := true, lat := 3, path := .vector }

/-- A function-unit operation. -/
def vFun (n : Nat) (tys utys : List Ty) (dst : VDst) (rm sat xl : Bool) (imm : ImmUse) (lat : Nat) : VInfo :=
  { tys := tys, utys := utys, dst := dst, sa := .val, sb := if n ≥ 2 then .val else .none, sc := .none, imm := imm,
    rm := rm, sat := sat, xl := xl, lat := lat, path := .function }

/-- A predicate operation (R258): types .i32, no immediate. -/
def vPred (n : Nat) : VInfo :=
  { tys := [.i32], utys := [], dst := .pred, sa := .pred, sb := if n ≥ 2 then .pred else .none, sc := .none,
    imm := .none, rm := false, sat := false, xl := false, lat := 1, path := .vector }

/-- A cross-lane operation (Table 7.4). -/
def vCross (tys : List Ty) (sb : VSrc) (bits : Nat) (rm sat : Bool) : VInfo :=
  { tys := tys, utys := [], dst := .lane, sa := .val, sb := sb, sc := .none, imm := .ctl bits, rm := rm, sat := sat,
    xl := false, lat := 2, path := .vector }

/-- A retired operation (Table 16.5): latency 20, no latch (R460). -/
def vRet (n : Nat) (ty : Ty) (rm : Bool) : VInfo :=
  { tys := [ty], utys := [], dst := .lane, sa := .val, sb := if n ≥ 2 then .val else .none,
    sc := if n ≥ 3 then .val else .none, imm := .op, rm := rm, sat := false, xl := false, lat := 20, path := .none }

/-- The row of a vector operation and its fields. -/
def vinfo : Instr → Option (VInfo × VSlot)
  | .add a | .sub a => some (vInt 2 tysAll tysWord true true 1, a)
  | .addx a => some ({ vInt 2 [.u32] [] false true 1 with sc := .carry }, a)
  | .mul a => some (vInt 2 tysMul tysWord true true 3, a)
  | .mad a => some (vInt 3 tysMul tysWord true true 3, a)
  | .min a | .max a => some (vInt 2 tysAll tysWord false true 1, a)
  | .abs a | .neg a => some (vInt 1 tysSigned [.i32, .d] true true 1, a)
  | .absd a => some (vInt 2 tysInt [.i32, .u32] true true 1, a)
  | .avg a => some (vInt 2 tysInt [.i32, .u32] false true 1, a)
  | .dot4 a => some (vInt 3 [.b4, .ub4, .n8, .un8] [] true true 3, a)
  | .and a | .or a | .xor a | .andn a => some (vInt 2 tysWord tysWord false true 1, a)
  | .not a => some (vInt 1 tysWord tysWord false true 1, a)
  | .shl a => some (vInt 2 tysShift tysWord true true 1, a)
  | .shr a | .sar a | .rol a => some (vInt 2 tysShift tysWord false true 1, a)
  | .popc a | .clz a | .brev a => some (vInt 1 tysWord tysWord false true 1, a)
  | .bfe a => some (vInt 2 tysWord tysWord false true 1, a)
  | .bfi a => some (vInt 3 tysWord tysWord false true 1, a)
  | .li a => some ({ vInt 1 [.i32, .u32, .f32] [.i32, .u32] false false 1 with sa := .none, imm := .li }, a)
  | .fadd a | .fsub a | .fmul a => some (vFlt 2 tysFloat true true, a)
  | .fma a | .fms a | .fnma a => some (vFlt 3 tysFloat true true, a)
  | .fmin a | .fmax a => some (vFlt 2 tysFloat false false, a)
  | .fabs a | .fneg a => some (vFlt 1 tysFloat false false, a)
  | .frnd a => some (vFlt 1 tysWide true false, a)
  | .fclass a => some (vFlt 1 tysWide false false, a)
  | .fscl a => some (vFlt 2 tysWide true true, a)
  | .fdot2 a => some ({ vFlt 3 [.bf2, .hf2] true true with utys := [] }, a)
  | .cmp a => some ({ vInt 2 tysWord [] false true 1 with dst := .pred, imm := .ctl 0x007 }, a)
  | .fcmp a => some ({ vInt 2 [.f32] [] false true 1 with dst := .pred, imm := .ctl 0x007 }, a)
  | .sel a => some ({ vInt 2 [.i32, .u32, .f32, .d] [] false true 1 with sc := .pred }, a)
  | .pand a | .por a | .pxor a => some (vPred 2, a)
  | .pnot a | .pmov a => some (vPred 1, a)
  | .ballot a => some ({ vPred 1 with tys := [.u32, .d], utys := [.d], dst := .lane, imm := .ctl 0x100 }, a)
  | .pcnt a => some ({ vPred 1 with tys := [.u32], utys := [.u32], dst := .lane, imm := .ctl 0x100 }, a)
  | .xshf a => some (vCross tysEvery .val 0x100 false false, a)
  | .xswp a | .xrot a | .xbc a => some (vCross tysEvery .none 0x13F false false, a)
  | .xred a => some (vCross tysGroup .none 0x107 true true, a)
  | .xscan a => some (vCross tysGroup .none 0x10F true true, a)
  | .xcmpk a => some (vCross tysEvery .pred 0x100 false false, a)
  | .xseg a => some (vCross tysGroup .val 0x107 true true, a)
  | .mov a => some (vInt 1 [.i32, .u32, .f32, .d] tysWord false true 1, a)
  | .extr a => some ({ vInt 1 tysPacked [] false true 2 with imm := .ctl 0x007 }, a)
  | .ins a => some ({ vInt 2 tysPacked [] false true 2 with imm := .ctl 0x007 }, a)
  | .cvt a => some ({ vFlt 1 tysConv true true with utys := [.i32, .u32, .f32], imm := .ctl 0x07F }, a)
  | .pack a => some ({ vFlt 3 tysConv true true with utys := [], imm := .ctl 0x03F, xl := false }, a)
  | .unpk a =>
    some ({ vFlt 2 [.bf2, .hf2, .h2, .uh2, .b4, .ub4, .n8, .un8, .e43, .e52] false false with
            utys := [], imm := .ctl 0x001, xl := false }, a)
  | .kget a => some ({ vInt 1 [.u32] [.u32] false false 2 with sa := .flag, imm := .none }, a)
  | .mulhi a => some (vFun 2 [.i32, .u32] [.i32, .u32] .lane false false true .op 4, a)
  | .mulw a => some (vFun 2 [.i32, .u32] [.i32, .u32] .pair false false true .op 5, a)
  | .div a => some (vFun 2 [.i32, .u32] tysWord .lane false true true .op 12, a)
  | .rem a => some (vFun 2 [.i32, .u32] tysWord .lane false false true .op 12, a)
  | .rcp a | .rsq a | .sqrt a | .exp2 a | .log2 a => some (vFun 1 tysWide [.f32] .lane true true true .op 6, a)
  | .sin a | .cos a => some (vFun 1 tysWide [.f32] .lane true true true .op 8, a)
  | .sincos a => some (vFun 1 [.f32] [] .pair true true true .op 9, a)
  | .ppev a => some (vFun 1 [.f32] [] .lane false false true (.ctl 0x003) 6, a)
  | .qnt a => some (vFun 2 [.f32] [] .pair false false false (.ctl 0x007) 6, a)
  | .dqt a => some (vFun 2 [.f32] [] .lane true true false (.ctl 0x03F) 6, a)
  | .rng a => some (vFun 1 [.u32, .d] [.d] .lane false false false .op 3, a)
  | .sad a => some (vRet 3 .ub4 false, a)
  | .mulq a => some (vRet 2 .h2 false, a)
  | .fexp a => some (vRet 1 .f32 true, a)
  | .crc a => some (vRet 2 .u32 false, a)
  | _ => none

/-- Whether an operation is a retired one (R460). -/
def isRetired : Instr → Bool
  | .sad _ | .mulq _ | .fexp _ | .crc _ => true
  | _ => false

/-- Whether a revision assigns an operation (Table 16.4, R74). -/
def assigned (rev : Nat) : Instr → Bool
  | .sad _ | .mulq _ => rev < 3
  | .fexp _ => rev == 1
  | .crc _ => rev == 2
  | .bpub _ | .bld _ | .bseq _ | .bbar _ | .mmap _ => rev != 1
  | .tstamp _ => rev == 3
  | _ => true

/-- Whether a code is one of the constants that S1 does not have (Table 16.4). -/
def lateConst (code : OpCode) : Bool := 0x0DA ≤ code.toNat && code.toNat ≤ 0x0DF

/-- Whether an accumulator row lies in a tile of the grove (R15). -/
def Ctx.rowOk (c : Ctx) (n : Nat) : Bool := n / 64 < c.l.tileCount

/-- Whether `count` registers from a v or o code are aligned and lie below the allotment or within o0 to o7. -/
def Ctx.groupOk (c : Ctx) (count : Nat) (code : OpCode) : Bool :=
  match classOf code with
  | .vreg n => n % count == 0 && n + count ≤ c.allot
  | .oreg n => n % count == 0 && n + count ≤ 8
  | _ => false

/-- A vector source under U = 0 (Table 2.9, R63, R66). -/
def Ctx.srcOk (c : Ctx) (ty : Ty) (code : OpCode) : Bool :=
  if c.l.rev = 1 && lateConst code then false
  else match classOf code with
    | .vreg _ | .oreg _ => if ty = .d then c.groupOk 2 code else c.groupOk 1 code
    | .latch _ | .chan _ => ty != .d
    | .scalar _ | .const _ | .special _ | .imm => true
    | .imm64 => c.wideForm
    | .row n => ty != .d && c.rowOk n
    | .reserved => false

/-- A source of a uniform form (Table 2.9). -/
def Ctx.uniSrcOk (c : Ctx) (code : OpCode) : Bool :=
  if c.l.rev = 1 && lateConst code then false
  else match classOf code with
    | .scalar _ | .const _ | .imm => true
    | .imm64 => c.wideForm
    | .special n => n ≥ 4
    | _ => false

/-- A vector destination under U = 0 (Table 2.9, R66, R282, R460). -/
def Ctx.dstOk (c : Ctx) (pair retired : Bool) (code : OpCode) : Bool :=
  match classOf code with
  | .vreg _ | .oreg _ => c.groupOk (if pair then 2 else 1) code
  | .chan _ => !pair && !retired
  | .row n => !pair && !retired && c.rowOk n
  | _ => false

/-- Whether a code is a predicate number (R64). -/
def predCode (code : OpCode) : Bool := code.toNat < 8

/-- The format slot that qnt and dqt name (R291). -/
def Ctx.qslot (c : Ctx) (a : VSlot) : FSlot := c.l.fslot (a.imm9.toNat % 8)

/-- Formats of Table 8.3. -/
def qFormat (s : FSlot) : Bool := [0x01, 0x02, 0x03, 0x04, 0x05, 0x09, 0x0A, 0x0B, 0x0C, 0x0D, 0x0E, 0x10].contains s.fmt

/-- Source type that IMM9[3:0] of cvt and pack names. -/
def convSrc (a : VSlot) : Ty := Ty.ofCode (a.imm9.extractLsb' 0 4)

/-- The roles of SB and SC that depend on other fields: the second source of qnt and dqt (R294, R295), C of pack
(R274), the fill beside a modifier or in a permuting form (R262, R270); in a function-unit operation SC is zero even
beside a modifier, whose fill is then zero (R281). -/
def Ctx.roles (c : Ctx) (i : Instr) (v : VInfo) (a : VSlot) : VSrc × VSrc × Bool :=
  match i with
  | .qnt _ => (if (c.qslot a).scale ≥ 2 then .val else .none, .none, false)
  | .dqt _ => (if (c.qslot a).scale ≥ 2 || (c.qslot a).fmt == 0x05 then .val else .none, .none, false)
  | .pack _ => (.val, if tyCount a.ty = 2 * tyCount (convSrc a) then .none else .val, false)
  | .xshf _ | .xswp _ | .xrot _ | .xbc _ | .xcmpk _ => (v.sb, .none, true)
  | _ => (v.sb, v.sc, v.sc == .none && v.xl && a.xlm != .none && v.path != .function)

/-- Types in which the sources are read: those of cvt and pack read the source type (R67, R273, R274), C of fdot2
FP32 (R255). -/
def srcTy (i : Instr) (a : VSlot) (isC : Bool) : Ty :=
  match i with
  | .cvt _ => convSrc a
  | .pack _ => if isC then a.ty else convSrc a
  | .fdot2 _ => if isC then .f32 else a.ty
  | _ => a.ty

/-- Whether a source field of a role holds what it may. -/
def Ctx.roleOk (c : Ctx) (uni : Bool) (ty : Ty) (r : VSrc) (code : OpCode) : Bool :=
  match r with
  | .none => true
  | .val => if uni then c.uniSrcOk code else c.srcOk ty code
  | .pred | .carry => predCode code
  | .flag => code.toNat < c.l.flagBlock

/-- The narrowings that single entries make (R256 to R295). -/
def Ctx.entryOk (c : Ctx) (i : Instr) (a : VSlot) : Bool :=
  let imm := a.imm9.toNat
  let s := a.imm9.getLsbD 8
  let nd := tyCount a.ty
  let ns := tyCount (convSrc a)
  match i with
  | .ballot _ => if a.u then !s else (a.ty != .u32 || (s && c.width ≤ 32))
  | .pcnt _ => !(a.u && s)
  | .xswp _ => [1, 2, 4, 8, 16, 32].contains (imm % 64)
  | .xred _ | .xscan _ | .xseg _ => imm % 8 ≤ 5 && ((tyFloat a.ty).isNone || imm % 8 ≤ 2)
  | .extr _ | .ins _ => imm % 8 < nd
  | .cvt _ => tysConv.contains (convSrc a) && ns ≥ nd && imm / 16 % 8 < ns / nd &&
      (!a.u || [Ty.i32, .u32, .f32].contains (convSrc a))
  | .pack _ => tysConv.contains (convSrc a) && nd % ns == 0 && [2, 4, 8].contains (nd / ns) && imm / 16 % 4 < nd / (2 * ns)
  | .ppev _ => imm % 4 < c.l.tableCount
  | .qnt _ => qFormat (c.qslot a)
  | .dqt _ => qFormat (c.qslot a) &&
      (if (c.qslot a).fmt = 0x10 then imm / 8 % 8 + 1 ≤ (c.qslot a).planes else imm / 8 % 8 == 0)
  | _ => true

/-- RM and SAT of the group forms: RM for float, SAT for add (Table 7.4). -/
def groupFieldsBad (i : Instr) (a : VSlot) : Bool :=
  match i with
  | .xred _ | .xscan _ | .xseg _ =>
    (a.rm != .rne && (tyFloat a.ty).isNone) || (a.sat && a.imm9.toNat % 8 != 0)
  | _ => false

/-- The checks of a vector operation. -/
def Ctx.vecFails (c : Ctx) (i : Instr) : Fails :=
  match vinfo i with
  | none => .none
  | some (v, a) =>
    if !assigned c.l.rev i then .unassigned
    else
      let r := c.roles i v a
      let namesImm := (v.sa == .val && a.sa == 0x0F0#9) || (r.1 == .val && a.sb == 0x0F0#9) ||
        ((r.2.1 == .val || r.2.2) && a.sc == 0x0F0#9)
      let noXl := a.xlm == .none && a.xlk == 0#3
      let pair := !a.u && (a.ty == .d || v.dst == .pair)
      { bundle := (!v.rm && a.rm != .rne) || (!v.sat && a.sat) || ((!v.xl || c.l.rev == 1) && !noXl) ||
          (v.sa == .none && a.sa != 0) || (r.1 == .none && a.sb != 0) ||
          (r.2.1 == .none && !r.2.2 && a.sc != 0) || groupFieldsBad i a ||
          (match v.imm with
            | .none => a.imm9 != 0
            | .op => a.imm9 != 0 && !namesImm
            | _ => false)
        opcode := !(if a.u then v.utys else v.tys).contains a.ty || (c.l.rev == 1 && (a.ty == .s5 || a.ty == .us5))
        operand := (a.u && a.pr.extractLsb' 0 3 != 0#3) ||
          (match v.imm with
            | .ctl bits => namesImm || (a.imm9.toNat &&& (511 - bits)) != 0
            | _ => false) ||
          (v.xl && a.xlk.toNat ≥ 6) ||
          !(match v.dst with
            | .pred => predCode a.dst
            | _ => if a.u then (match classOf a.dst with | .scalar _ => true | _ => false)
                   else c.dstOk pair (isRetired i) a.dst) ||
          !c.roleOk a.u (srcTy i a false) v.sa a.sa || !c.roleOk a.u (srcTy i a false) r.1 a.sb ||
          !(if r.2.2 then a.sc == 0 || c.roleOk a.u a.ty .val a.sc else c.roleOk a.u (srcTy i a true) r.2.1 a.sc) ||
          (match classOf a.dst with
            | .chan _ => (v.sa == .val && a.sa == a.dst) || (r.1 == .val && a.sb == a.dst) ||
                ((r.2.1 == .val || r.2.2) && a.sc == a.dst)
            | _ => false) ||
          !c.entryOk i a }

/-! ### The memory slot (Table 6.1) -/

/-- What the DT field of a memory operation holds. -/
inductive MDt where
  | none | load | store | scalar | row | atom | uniform | count
  deriving DecidableEq, Repr

/-- What the AD field holds. -/
inductive MAd where
  | none | lane | uniform
  deriving DecidableEq, Repr

/-- One row of Table 6.1. -/
structure MInfo where
  szs : List Sz
  q : Bool
  dt : MDt
  ad : MAd
  addr : Bool
  sb : Bool
  subs : Nat
  kf : Bool
  uni : Bool
  deriving DecidableEq, Repr

/-- Every size. -/
def szAll : List Sz := [.b, .h, .w, .d, .q, .sb, .sh, .row]
/-- Sizes of stores and prefetches. -/
def szStore : List Sz := [.b, .h, .w, .d, .q, .row]
/-- Sizes of uniform loads. -/
def szUni : List Sz := [.b, .h, .w, .d, .sb, .sh]

/-- The row of a memory operation and its fields; `subs` is the number of SUB values assigned (0: SUB is unused). -/
def minfo : Instr → Option (MInfo × MSlot)
  | .lds a => some ({ szs := szAll, q := false, dt := .load, ad := .lane, addr := true, sb := true, subs := 0, kf := false, uni := false }, a)
  | .sts a => some ({ szs := szStore, q := false, dt := .store, ad := .lane, addr := true, sb := true, subs := 0, kf := false, uni := false }, a)
  | .ldsu a => some ({ szs := szUni, q := false, dt := .scalar, ad := .uniform, addr := true, sb := true, subs := 0, kf := false, uni := true }, a)
  | .ldr a => some ({ szs := szAll, q := false, dt := .load, ad := .lane, addr := true, sb := true, subs := 0, kf := true, uni := false }, a)
  | .ldg a => some ({ szs := szAll, q := true, dt := .load, ad := .lane, addr := true, sb := true, subs := 0, kf := true, uni := false }, a)
  | .stg a => some ({ szs := szStore, q := true, dt := .store, ad := .lane, addr := true, sb := true, subs := 0, kf := true, uni := false }, a)
  | .ldgu a => some ({ szs := szUni, q := true, dt := .scalar, ad := .uniform, addr := true, sb := true, subs := 0, kf := true, uni := true }, a)
  | .lda a => some ({ szs := [.row], q := false, dt := .row, ad := .lane, addr := true, sb := true, subs := 0, kf := false, uni := false }, a)
  | .sta a => some ({ szs := [.row], q := false, dt := .row, ad := .lane, addr := true, sb := true, subs := 0, kf := false, uni := false }, a)
  | .atoms a => some ({ szs := [.w, .d], q := false, dt := .atom, ad := .lane, addr := true, sb := true, subs := 8, kf := false, uni := false }, a)
  | .atomg a => some ({ szs := [.w, .d], q := true, dt := .atom, ad := .lane, addr := true, sb := true, subs := 8, kf := true, uni := false }, a)
  | .red a => some ({ szs := [.w, .d], q := true, dt := .store, ad := .lane, addr := true, sb := true, subs := 8, kf := true, uni := false }, a)
  | .settle a => some ({ szs := [.w], q := true, dt := .none, ad := .lane, addr := true, sb := true, subs := 0, kf := true, uni := false }, a)
  | .fenceAcq a | .fenceRel a | .fenceFull a =>
    some ({ szs := [.b, .h, .w], q := false, dt := .none, ad := .none, addr := false, sb := false, subs := 6, kf := true, uni := true }, a)
  | .bpub a => some ({ szs := [.d], q := false, dt := .uniform, ad := .none, addr := true, sb := true, subs := 4, kf := true, uni := true }, a)
  | .bld a => some ({ szs := [.d], q := false, dt := .scalar, ad := .none, addr := true, sb := true, subs := 2, kf := true, uni := true }, a)
  | .bseq a => some ({ szs := [.d], q := false, dt := .scalar, ad := .none, addr := false, sb := false, subs := 0, kf := true, uni := true }, a)
  | .pref a => some ({ szs := szStore, q := true, dt := .none, ad := .lane, addr := true, sb := true, subs := 0, kf := true, uni := false }, a)
  | .l1inv a => some ({ szs := [], q := false, dt := .none, ad := .none, addr := false, sb := false, subs := 0, kf := false, uni := true }, a)
  | .ppld a => some ({ szs := [.w], q := false, dt := .count, ad := .none, addr := true, sb := true, subs := 4, kf := false, uni := true }, a)
  | .ppsv a => some ({ szs := [.w], q := false, dt := .none, ad := .none, addr := true, sb := true, subs := 4, kf := false, uni := true }, a)
  | _ => none

/-- A uniform operand of the memory slot: s, constants, specials 0x0E4 to 0x0EB, imm64 (Table 6.1). -/
def Ctx.memUniOk (c : Ctx) (code : OpCode) : Bool :=
  match classOf code with
  | .imm => false
  | _ => c.uniSrcOk code

/-- AD per lane (Table 2.9): no imm, since the slot has no IMM9 (R202). -/
def Ctx.adOk (c : Ctx) (code : OpCode) : Bool :=
  match classOf code with
  | .vreg _ | .oreg _ => c.groupOk 1 code
  | .latch _ => true
  | .special _ => true
  | .scalar _ | .const _ => c.uniSrcOk code
  | .imm64 => c.wideForm
  | _ => false

/-- Registers that DT names by size (Table 6.2). -/
def szRegs : Sz → Nat
  | .d => 2
  | .q => 4
  | _ => 1

/-- Store data by size (R206). -/
def Ctx.storeOk (c : Ctx) (sz : Sz) (code : OpCode) : Bool :=
  match sz with
  | .q => c.groupOk 4 code
  | .d =>
    match classOf code with
    | .vreg _ | .oreg _ => c.groupOk 2 code
    | .scalar _ | .const _ | .imm64 => c.memUniOk code
    | _ => false
  | _ =>
    match classOf code with
    | .imm => false
    | _ => c.srcOk .i32 code

/-- Whether DT holds what it may. -/
def Ctx.dtOk (c : Ctx) (m : MInfo) (a : MSlot) : Bool :=
  match m.dt with
  | .none => true
  | .load => c.groupOk (szRegs a.sz) a.dt
  | .store => c.storeOk a.sz a.dt
  | .scalar => (match classOf a.dt with | .scalar _ => true | _ => false)
  | .row => (match classOf a.dt with | .row n => c.rowOk n | _ => false)
  | .atom => c.groupOk (if a.sz = .d && a.sub = 7#3 then 4 else szRegs a.sz) a.dt
  | .uniform => c.memUniOk a.dt
  | .count => (match classOf a.dt with | .scalar _ => true | .const n => n < 16 | _ => false)

/-- n of a ppld (R231): s(DT)[31:0] or an integer constant. -/
def Ctx.segCount (c : Ctx) (a : MSlot) : Nat := ((c.readUni .i32 0 a.dt).setWidth 32).toNat

/-- SUB values that an operation's own table refuses (Table 6.4: .d floating point). -/
def subRefused (i : Instr) (a : MSlot) : Bool :=
  match i with
  | .red _ => a.sz == .d && (a.sub == 1#3 || a.sub == 7#3)
  | _ => false

/-- The checks of a memory operation. -/
def Ctx.memFails (c : Ctx) (i : Instr) : Fails :=
  match minfo i with
  | none => .none
  | some (m, a) =>
    if !assigned c.l.rev i then .unassigned
    else
      let acts := !a.pr.getLsbD 3
      { bundle := (m.szs.isEmpty && a.sz != .b) || (!m.q && a.q) || (m.dt == .none && a.dt != 0) ||
          (m.ad == .none && a.ad != 0) || (!m.sb && a.sb != 0) || (!m.addr && a.imm18 != 0) ||
          (m.subs == 0 && a.sub != 0) || (!m.kf && a.kf != 0)
        opcode := (!m.szs.isEmpty && !m.szs.contains a.sz) || (m.subs != 0 && a.sub.toNat ≥ m.subs) || subRefused i a
        operand := (m.uni && a.pr.extractLsb' 0 3 != 0#3) || (m.kf && a.kf.toNat ≥ c.l.flagBlock) || !c.dtOk m a ||
          (match m.ad with
            | .none => false
            | .lane => !c.adOk a.ad
            | .uniform => !c.memUniOk a.ad) ||
          (match i with
            | .ppld _ => a.sub.toNat ≥ c.l.tableCount || (acts && (c.segCount a == 0 || c.segCount a > 64))
            | .ppsv _ => a.sub.toNat ≥ c.l.tableCount
            | _ => false) }

/-! ### The control slot (Table 5.1) -/

/-- Numbers of Table 5.5 that name a control register, and whether csrw may write it. -/
def cregKnown (n : Nat) : Bool :=
  [0x000, 0x001, 0x008, 0x009, 0x00A, 0x010, 0x011, 0x012, 0x013, 0x014, 0x015, 0x016, 0x017, 0x020, 0x021, 0x022].contains n ||
    (0x030 ≤ n && n ≤ 0x03C) || (0x040 ≤ n && n ≤ 0x047)
/-- Registers that csrw writes (Table 5.5). -/
def cregWritable (n : Nat) : Bool :=
  [0x000, 0x010, 0x011, 0x012, 0x013, 0x014, 0x015, 0x016, 0x017, 0x020, 0x021].contains n || (0x031 ≤ n && n ≤ 0x034)

/-- The transfer class (R158). -/
def isTransfer : Instr → Bool
  | .br _ | .brc _ | .bri _ | .call _ | .calli _ | .callv _ | .ret _ | .loop _ | .brk _ | .refill _ | .halt _
  | .trap _ | .rett _ => true
  | _ => false

/-- Declared deferral queues. -/
def Ctx.queueCount (c : Ctx) : Nat := ((List.range 4).filter fun q => c.l.drainAt q != 0).length

/-- The fields a COND leaves zero (R159). -/
def condBad (a : KSlot) : Bool :=
  if a.x.getLsbD 4 then a.x.extractLsb' 0 3 != 0#3 else a.y.extractLsb' 1 4 != 0#4

/-- Whether fields X, Y, IMM16a and IMM16b are zero at and above the widths given (R155). -/
def fieldsWithin (a : KSlot) (x y ia ib : Nat) : Bool :=
  a.x.toNat < 2 ^ x && a.y.toNat < 2 ^ y && a.a.toNat < 2 ^ ia && a.b.toNat < 2 ^ ib

/-- The fields and limits of a control operation (Table 5.1): ILLEGAL_BUNDLE and ILLEGAL_OPERAND. -/
def Ctx.ctlBad (c : Ctx) (i : Instr) : Bool × Bool :=
  let fb := c.l.flagBlock
  match i with
  | .br a => (!fieldsWithin a 0 0 16 0, false)
  | .brc a => (!fieldsWithin a 5 5 16 0 || condBad a, false)
  | .bri a | .ret a => (!fieldsWithin a 5 0 0 0, false)
  | .call a => (!fieldsWithin a 5 0 16 0, false)
  | .calli a => (!fieldsWithin a 5 5 0 0, false)
  | .callv a => (!fieldsWithin a 5 3 4 5, false)
  | .loop a => (!fieldsWithin a 5 0 16 16 || (a.x != 0 && a.b != 0), a.a == 0)
  | .astep a =>
    let depth := a.a.toNat / 4
    (!fieldsWithin a 5 5 5 16 || (a.y != 0 && a.b != 0) || (depth == 0 && (a.x != 0 || a.y != 0 || a.b != 0)),
      depth > 4 || (depth != 0 && a.x == 0))
  | .brk a => (!fieldsWithin a 5 5 0 0 || condBad a, false)
  | .wait a | .kset a =>
    (!fieldsWithin a 5 5 8 16 || (a.y != 0 && (a.a != 0 || a.b != 0)), a.x.toNat ≥ fb)
  | .waitany a => (false, a.x.toNat ≥ fb || a.y.toNat ≥ fb)
  | .post a => (!fieldsWithin a 5 0 0 16, a.x.toNat ≥ fb || a.b == 0)
  | .postr a => (!fieldsWithin a 5 5 0 16, a.b == 0)
  | .bar a | .arrive a => (!fieldsWithin a 2 0 0 16, a.b.toNat > 16)
  | .await a => (!fieldsWithin a 2 0 0 0, false)
  | .yield a | .refill a | .halt a | .rett a => (!fieldsWithin a 0 0 0 0, false)
  | .defer a =>
    (!fieldsWithin a 4 5 7 15,
      a.y.toNat % 4 ≥ c.queueCount || (List.range 15).any fun k => a.b.getLsbD k && a.a.toNat + k ≥ c.allot)
  | .exit a => (!fieldsWithin a 4 0 0 0, false)
  | .trap a => (!fieldsWithin a 0 0 16 16, !([0x0E, 0x10, 0x11].contains a.b.toNat))
  | .csrr a => (!fieldsWithin a 5 0 16 0, !cregKnown a.a.toNat)
  | .csrw a => (!fieldsWithin a 0 5 16 0, !cregWritable a.a.toNat)
  | .icinv a => (!fieldsWithin a 5 5 5 0, a.a.toNat ≥ fb)
  | .launch a => (!fieldsWithin a 5 0 5 6, a.a.toNat ≥ fb)
  | .bbar a => (!fieldsWithin a 5 0 12 16, a.x.toNat ≥ fb || a.b == 0 || a.a == 0xFFF)
  | .prio a => (!fieldsWithin a 0 0 0 2, false)
  | .ximm a => (a.y.extractLsb' 2 3 != 0#3, false)
  | _ => (false, false)

/-- The checks of a control operation. -/
def Ctx.ctlFails (c : Ctx) (i : Instr) : Fails :=
  if !assigned c.l.rev i then .unassigned
  else { bundle := (c.ctlBad i).1, opcode := false, operand := (c.ctlBad i).2 }

/-! ### Destinations of a bundle (R65) -/

/-- Codes of `n` registers from a code up. -/
def codeRun (code : OpCode) (n : Nat) : List Nat := (List.range n).map (code.toNat + ·)

/-- The code under which a predicate is listed among destinations. -/
def predMark (n : Nat) : Nat := 0x1000 + n

/-- The destinations that a slot operation names: operand codes, predicates as marks. -/
def destsNamed (i : Instr) : List Nat :=
  match vinfo i, minfo i with
  | some (v, a), _ =>
    let carry := match v.sc with
      | .carry => [predMark a.sc.toNat]
      | _ => []
    carry ++ (match v.dst with
      | .pred => [predMark a.dst.toNat]
      | .pair => if a.u then [a.dst.toNat] else codeRun a.dst 2
      | .lane => if !a.u && a.ty == .d then codeRun a.dst 2 else [a.dst.toNat])
  | none, some (m, a) =>
    (match m.dt with
      | .load => codeRun a.dt (szRegs a.sz)
      | .scalar => [a.dt.toNat]
      | .row => (match i with | .lda _ => [a.dt.toNat] | _ => [])
      | .atom => codeRun a.dt (szRegs a.sz)
      | _ => [])
  | none, none =>
    match i with
    | .call a | .calli a | .callv a | .csrr a => [0x090 + a.x.toNat]
    | .defer a => [predMark (a.y.toNat / 4 % 8)]
    | _ => []

/-- Whether a list names something twice, s0 and p0 apart (R65). -/
def namesTwice (xs : List Nat) : Bool :=
  let ys := xs.filter fun x => x != 0x090 && x != predMark 0
  ys.length != ys.eraseDups.length

end Sys2Proof.Machine
end

