-- ==== Sys2Proof/Machine/EngineChecks.lean ====
section
/-!
DEFINITION. The checks of the engine slot (R297 to R303, R318, R319; Tables 9.1, 9.5, 10.1, 10.2) and the checks of a
whole bundle in the order of R75.
-/
namespace Sys2Proof.Machine

/-- The fields of a copy-form operation: copies with a shape, or cpyx and tstamp. -/
def cinfo : Instr → Option CSlot
  | .cpy a | .cpyr a | .cpym a | .cpyg a | .cpys a | .cpyf a | .cpyc a | .cpyx a | .tstamp a => some a
  | _ => none

/-- Ext registers that a form reads beside its shape pair (Table 9.6). -/
def extCount : Instr → Nat
  | .cpyg _ | .cpys _ => 1
  | _ => 0

/-- The named locus, LOC 0b010 (Table 9.2). -/
def locNamed (a : CSlot) : Bool := a.loc == 2#3

/-- Formats that cpyc accepts (R308). -/
def cpycFormat (s : FSlot) : Bool := [0x01, 0x02, 0x03, 0x04, 0x05, 0x0A, 0x0C, 0x0D, 0x0E].contains s.fmt

/-- The checks of a copy-form operation. -/
def Ctx.copyFails (c : Ctx) (i : Instr) : Fails :=
  match cinfo i with
  | none => .none
  | some a =>
    if !assigned c.l.rev i then .unassigned
    else
      let own := a.loc == 0#3 && a.kf.toNat ≥ c.l.flagBlock
      match i with
      | .cpyx _ =>
        { bundle := a.low != 0 || a.fsEn || a.fsSlot != 0 || a.src != 0 || a.dstb != 0 || (a.shp != 0 && !locNamed a)
          opcode := false, operand := a.loc.toNat > 2 || a.loc == 1#3 || own }
      | .tstamp _ =>
        { bundle := a.low != 0 || a.fsEn || a.fsSlot != 0 || a.dstb != 0 || (a.shp != 0 && !locNamed a)
          opcode := false
          operand := a.loc.toNat > 2 || a.loc == 1#3 || own || a.src.toNat > 3 || a.tag == 0 }
      | _ =>
        let isC := (match i with | .cpyc _ => true | _ => false)
        { bundle := a.low != 0 || (!isC && (a.fsEn || a.fsSlot != 0))
          opcode := false
          operand := a.loc.toNat > 2 || own || a.shp == 0 || a.shp == 31 ||
            a.shp.toNat + 1 + extCount i + (if locNamed a then 1 else 0) > 31 ||
            (isC && (!a.fsEn || !cpycFormat (c.l.fslot a.fsSlot.toNat))) }

/-- The fields of a matrix operation and its kind. -/
def xinfo : Instr → Option (MatKind × XSlot)
  | .mma a => some (.mma, a)
  | .mmag a => some (.mmag, a)
  | .mmas a => some (.mmas, a)
  | .mmags a => some (.mmags, a)
  | .mmap a => some (.mmap, a)
  | .mzero a => some (.mzero, a)
  | .mtr a => some (.mtr, a)
  | .mtrSp a => some (.mtrSp, a)
  | .mscl a => some (.mscl, a)
  | _ => none

/-- Which of FSA, FSB, FSC, BA, BB, IX an operation uses and the bits of MOD it assigns (Table 10.1). -/
def matUses (k : MatKind) : Bool × Bool × Bool × Bool × Bool × Bool × Nat :=
  match k with
  | .mma => (true, true, true, true, true, false, 0xC0)
  | .mmag => (true, true, true, true, true, true, 0xCF)
  | .mmas => (true, true, true, true, true, false, 0x80)
  | .mmags => (true, true, true, true, true, true, 0x8F)
  | .mmap => (true, true, true, true, true, false, 0xFF)
  | .mzero => (false, false, false, false, false, false, 0)
  | .mtr => (false, false, true, false, false, false, 0)
  | .mtrSp => (false, false, true, true, false, true, 0xCF)
  | .mscl => (true, false, true, true, false, false, 0)

/-- Float operand formats of Table 10.2. -/
def matFloat (s : FSlot) : Bool := [0x01, 0x02, 0x03, 0x04, 0x05].contains s.fmt
/-- Integer operand formats of Table 10.2. -/
def matInt (s : FSlot) : Bool := [0x0A, 0x0C, 0x0D, 0x0E].contains s.fmt

/-- Table 10.2 for FSC of a product. -/
def fscOk (isFloat : Bool) (s : FSlot) : Bool :=
  s.scale == 0 && (if isFloat then (s.fmt == 0x00 && s.rnd == 0) || s.fmt == 0x01 else s.fmt == 0x08 && s.rnd == 0)

/-- Table 10.2, with R106 for mmap. -/
def matFormatsOk (k : MatKind) (fa fb fc : FSlot) (mod : BitVec 8) : Bool :=
  let fl := matFloat fa
  let aOk := fl || (matInt fa && fa.scale == 0)
  match k with
  | .mma | .mmag => aOk && (if fl then matFloat fb else matInt fb && fb.scale == 0) && fscOk fl fc
  | .mmas | .mmags =>
    aOk && [0x01, 0x02, 0x03, 0x04, 0x0A, 0x0D].contains fb.fmt && fb.scale != 1 && matFloat fb == fl && fscOk fl fc
  | .mmap => fa.fmt == 0x10 && fb.fmt == 0x10 && fa.scale == 0 && fb.scale == 0 && fc.fmt == 0x08 && fc.scale == 0 &&
      mod.toNat / 8 % 8 + 1 ≤ fa.planes && mod.toNat % 8 + 1 ≤ fb.planes
  | .mzero => true
  | .mtr => fc.fmt == 0x00 || fc.fmt == 0x08
  | .mtrSp => fc.fmt == 0x00 || fc.fmt == 0x08 || (fc.fmt == 0x01 && !mod.getLsbD 6)
  | .mscl => fa.fmt == 0x00 && fa.scale ≥ 2 && (fc.fmt == 0x00 || fc.fmt == 0x01) && fc.scale == 0

/-- IX accepts v, o and latches (Table 2.9). -/
def Ctx.ixOk (c : Ctx) (code : OpCode) : Bool :=
  match classOf code with
  | .latch _ => true
  | _ => c.groupOk 1 code

/-- The checks of a matrix operation. -/
def Ctx.matFails (c : Ctx) (i : Instr) : Fails :=
  match xinfo i with
  | none => .none
  | some (k, a) =>
    if !assigned c.l.rev i then .unassigned
    else
      let u := matUses k
      { bundle := (!u.1 && a.fsa != 0) || (!u.2.1 && a.fsb != 0) || (!u.2.2.1 && a.fsc != 0) || (!u.2.2.2.1 && a.ba != 0) ||
          (!u.2.2.2.2.1 && a.bb != 0) || (!u.2.2.2.2.2.1 && a.ix != 0) || (a.mod.toNat &&& (255 - u.2.2.2.2.2.2)) != 0
        opcode := false
        operand := a.kf.toNat ≥ c.l.flagBlock || a.t.toNat ≥ c.l.tileCount || (u.2.2.2.2.2.1 && !c.ixOk a.ix) ||
          !matFormatsOk k (c.l.fslot a.fsa.toNat) (c.l.fslot a.fsb.toNat) (c.l.fslot a.fsc.toNat) a.mod }

/-- The checks of one operation of any slot. -/
def Ctx.opFails (c : Ctx) (i : Instr) : Fails :=
  if (vinfo i).isSome then c.vecFails i
  else if (minfo i).isSome then c.memFails i
  else if (cinfo i).isSome then c.copyFails i
  else if (xinfo i).isSome then c.matFails i
  else c.ctlFails i

/-- The checks of a slot. -/
def Ctx.slotFails (c : Ctx) (x : SlotCode) : Fails :=
  match x with
  | .badBundle => { bundle := true, opcode := false, operand := false }
  | .badOpcode => .unassigned
  | .ok i => c.opFails i

/-- The operations of a bundle's slots. -/
def bundleOps (bd : Bundle) : List Instr :=
  bd.slots.filterMap fun x => match x with
    | .ok i => some i
    | _ => none

/-- Whether the vector, memory and engine slots are empty (R163, R180): with FORM 0b01 the engine slot is not. -/
def othersEmpty (bd : Bundle) : Bool :=
  bd.vec == .ok .vnop && bd.mem == .ok .mnop && bd.eng == .ok .enop && bd.form == 0#2

/-- What a bundle as a whole must satisfy besides its slots' own fields: FORM and reserved bits (R49), callv and bar
alone (R163, R180), and what `ximm` extends (R61). -/
def bundleBad (bd : Bundle) (vx : BitVec 23) (mx : BitVec 16) : Bool :=
  bd.rsv != 0 || bd.form == 2#2 || bd.form == 3#2 ||
    (match bd.ctl with
      | .ok (.callv _) | .ok (.bar _) => !othersEmpty bd
      | .ok (.ximm _) =>
        (vx != 0 && (match bd.vec with | .ok (.li _) => false | _ => true)) ||
          (mx != 0 && (match bd.mem with | .ok i => !((minfo i).any fun m => m.1.addr) | _ => true))
      | _ => false)

/-- VX and MX of a bundle's `ximm` (R61). -/
def ximmOf (bd : Bundle) : BitVec 23 × BitVec 16 × Bool :=
  match bd.ctl with
  | .ok (.ximm a) => (a.y.extractLsb' 0 2 ++ a.x ++ a.a, a.b, true)
  | _ => (0, 0, false)

/-- R75, checks 2 to 5: the first cause that applies. `inDelay` says that the bundle would issue as a delay slot. -/
def Ctx.bundleCause (c : Ctx) (bd : Bundle) (inDelay : Bool) : Option Cause :=
  let fs := bd.slots.map c.slotFails
  if bundleBad bd c.vx c.mx || fs.any (·.bundle) then some .illegalBundle
  else if fs.any (·.opcode) then some .illegalOpcode
  else if fs.any (·.operand) || namesTwice ((bundleOps bd).map destsNamed).flatten then some .illegalOperand
  else if inDelay && (bundleOps bd).any isTransfer then some .delaySlotControl
  else none

/-- R75, checks 2 to 4, of one operation by itself. -/
def Ctx.opCause (c : Ctx) (i : Instr) : Option Cause :=
  let f := c.opFails i
  if f.bundle then some .illegalBundle
  else if f.opcode then some .illegalOpcode
  else if f.operand || namesTwice (destsNamed i) then some .illegalOperand
  else none

end Sys2Proof.Machine
end

