-- ==== Sys2Proof/Machine/Hazards.lean ====
section
/-!
DEFINITION. What is found at issue after the checks of R75, in the order of R194 (steps 6 to 10): misaligned targets and
lanes, the partition's bounds, illegal states, broken channels, flags with E set; and the finite stretches of R84 and
R85.
-/
namespace Sys2Proof.Machine

/-! ### Scratchpad accesses -/

/-- The bytes that a memory operation moves in the scratchpad: per acting lane its exact offset, and the bytes of one
access (R209, R210, R230); none for other operations. -/
def Ctx.scratchSpan (c : Ctx) (i : Instr) : Option (List (Nat × Int) × Nat) :=
  let lanes (a : MSlot) := (lanesOf (c.actLanes a.pr)).map fun l => (l, c.laneAddr a l)
  let one (a : MSlot) (x : Int) := if uniformActs a.pr then [(0, x)] else []
  match i with
  | .lds a | .sts a | .lda a | .sta a | .atoms a => some (lanes a, szBytes a.sz)
  | .ldsu a => some (one a (c.uniAddr a), szBytes a.sz)
  | .ppld a => some (one a ((c.b.sreg a.sb.toNat).toNat + c.offset a), 20 * c.segCount a)
  | .ppsv a =>
    some (one a ((c.b.sreg a.sb.toNat).toNat + c.offset a), 20 * (c.g.tables.toArray.getD (a.sub.toNat % 4) []).length)
  | _ => none

/-- The alignment that a scratchpad operation asks for (R207, R230). -/
def scratchAlign (i : Instr) (bytes : Nat) : Nat :=
  match i with
  | .ppld _ | .ppsv _ => 4
  | _ => bytes

/-- A lane is misaligned (R207). -/
def Ctx.scratchMisaligned (c : Ctx) (i : Instr) : Bool :=
  match c.scratchSpan i with
  | none => false
  | some (xs, n) => xs.any fun x => x.2 % scratchAlign i n != 0

/-- A byte lies outside the partition (R120). -/
def Ctx.scratchOutside (c : Ctx) (i : Instr) : Bool :=
  match c.scratchSpan i with
  | none => false
  | some (xs, n) => xs.any fun x => decide (x.2 < 0) || decide (x.2 + n > c.l.scratchBytes)

/-- Passes of an access (R85): the most distinct words in one bank, at least 1. -/
def Ctx.passes (c : Ctx) (i : Instr) : Nat :=
  match c.scratchSpan i with
  | none => 1
  | some (xs, n) =>
    let words := (xs.map fun x => (List.range ((n + 3) / 4)).map fun k => (x.2.toNat + 4 * k) / 4).flatten.eraseDups
    max 1 ((List.range 64).foldl (fun m bank => max m (words.filter fun w => w % 64 == bank).length) 0)

/-! ### Register banks (R84) -/

/-- Main registers that a source code reads. -/
def mainRegs (code : OpCode) (n : Nat) : List Nat :=
  match classOf code with
  | .vreg k => (List.range n).map (k + ·)
  | _ => []

/-- Main registers read in the counted positions: SA, SB, SC and store data. -/
def Ctx.countedRegs (c : Ctx) (i : Instr) : List Nat :=
  match vinfo i, minfo i with
  | some (v, a), _ =>
    if a.u then []
    else
      let n := if srcTy i a false == .d then 2 else 1
      let r := c.roles i v a
      (if v.sa == .val then mainRegs a.sa n else []) ++ (if r.1 == .val then mainRegs a.sb n else []) ++
        (if r.2.1 == .val then mainRegs a.sc n
         else if r.2.2 && a.sc != 0 then mainRegs a.sc n else [])
  | none, some (m, a) =>
    (match m.dt with
      | .store => mainRegs a.dt (szRegs a.sz)
      | _ => [])
  | none, none => []

/-- The register-bank stretch of a bundle (R84, Table 1.3): the largest count in one bank, less one. -/
def Ctx.bankStretch (c : Ctx) (ops : List Instr) : Nat :=
  let regs := (ops.map c.countedRegs).flatten.eraseDups
  (List.range 4).foldl (fun m b => max m (regs.filter fun r => r % 4 == b).length) 0 - 1

/-- The finite stretch of a bundle (R86). -/
def Ctx.finiteStretch (c : Ctx) (ops : List Instr) : Nat :=
  c.bankStretch ops + (ops.map fun i => c.passes i - 1).sum

/-- Core cycles for which a bundle's memory slot holds banks of the scratchpad (R85). -/
def Ctx.bankCc (c : Ctx) (ops : List Instr) : Nat := ((ops.filter fun i => (c.scratchSpan i).isSome).map c.passes).sum

/-! ### Control operations: conditions and targets -/

/-- The lanes that COND, exit and defer look at: active and in cr.vmask (R159, R164). -/
def Ctx.condLanes (c : Ctx) : Mask := c.activeLanes &&& c.b.vmask

/-- cond(X, Y) of R159. -/
def Ctx.cond (c : Ctx) (a : KSlot) : Bool :=
  let n := a.x.getLsbD 3
  if a.x.getLsbD 4 then (c.b.sreg a.y.toNat != 0) != n
  else
    let p := c.b.pred (a.x.extractLsb' 0 3).toNat
    let b := if n then ~~~p else p
    if a.y.getLsbD 0 then (c.condLanes &&& ~~~b) == 0 else (c.condLanes &&& b) != 0

/-- Displacement target (R155). -/
def Ctx.dispTarget (c : Ctx) (a : KSlot) : DWord := c.b.pc + 32 * a.a.signExtend 64

/-- tgt(l) of callv (R163). -/
def Ctx.callvTarget (c : Ctx) (a : KSlot) (l : Nat) : DWord :=
  c.b.sreg (a.b.toNat % 32) + ((c.b.oreg (a.y.toNat % 8)).toArray.getD l 0).setWidth 64

/-- cand of callv (R163). -/
def Ctx.callvCand (c : Ctx) (a : KSlot) : Mask :=
  c.activeLanes &&& c.b.prMask (a.a.extractLsb' 0 4) &&& ~~~c.b.vserved

/-- The count n of wait and kset (R171, R175). -/
def Ctx.waitCount (c : Ctx) (a : KSlot) : BitVec 24 :=
  if a.y = 0 then a.a.extractLsb' 0 8 ++ a.b else (c.b.sreg a.y.toNat).setWidth 24

/-- A barrier of the grove (R177). -/
def Grove.barrier (g : Grove) (n : Nat) : Barrier := g.bars.toArray.getD n { a := 0, n := 0, g := 0 }
/-- The bough's part of a barrier. -/
def Bough.bar (b : Bough) (n : Nat) : BarArm := b.bars.toArray.getD n { armed := false, gen := 0, coming := false }

/-- The count n of bar and arrive: the grove's boughs when 0 (R177). -/
def Ctx.barCount (c : Ctx) (a : KSlot) : Nat := if a.b = 0 then c.l.boughsPer else a.b.toNat

/-- The barrier as it will stand once the arrivals already issued have taken effect (R178). -/
def pendingBarrier (bar : Nat) (b : Barrier) (pipe : List Timed) : Barrier :=
  pipe.foldl (fun x t =>
    match t.act with
    | .arrive bar' n' =>
      if bar' = bar then
        let y := if x.a = 0 then { x with n := n' } else x
        if y.a + 1 = y.n then { y with a := 0, g := y.g + 1 } else { y with a := y.a + 1 }
      else x
    | _ => x) b

/-- Why an arrive is refused at issue (R178). -/
def Ctx.arriveBad (c : Ctx) (bar n : Nat) : Bool :=
  let b := pendingBarrier bar (c.g.barrier bar) c.g.pipe
  (c.b.bar bar).armed || (c.b.bar bar).coming || (b.a != 0 && n != b.n)

/-- await's test (R179). -/
def Ctx.awaitDone (c : Ctx) (bar : Nat) : Bool := (c.b.bar bar).armed && (c.g.barrier bar).g != (c.b.bar bar).gen

/-- MISALIGNED found at issue (R162, R163, R207, R230). -/
def Ctx.misaligned (c : Ctx) (i : Instr) : Bool :=
  match i with
  | .bri a | .ret a => c.b.sreg a.x.toNat % 32 != 0
  | .calli a => c.b.sreg a.y.toNat % 32 != 0
  | .callv a =>
    (c.b.vsite == 0 || c.b.vsite == c.b.pc) &&
      (match lanesOf (c.callvCand a) with
        | [] => false
        | l :: _ => c.callvTarget a l % 32 != 0)
  | _ => c.scratchMisaligned i

/-- ILLEGAL_STATE found at issue (R163, R164, R165, R168, R178, R179, R185, R195, R231, R290). -/
def Ctx.illegalState (c : Ctx) (i : Instr) : Bool :=
  match i with
  | .callv _ => c.b.vsite != 0 && c.b.vsite != c.b.pc
  | .refill _ => c.b.pc != c.l.refillPoint || c.b.vmask != BitVec.allOnes 64
  | .halt _ => c.b.vmask != BitVec.allOnes 64 || c.b.active != 0
  | .loop a =>
    a.x != 0 && c.b.sreg a.x.toNat ≥ 0x100000000#64 ||
      ((if a.x = 0 then a.b.toNat else (c.b.sreg a.x.toNat).toNat) != 0 && c.b.loops.length ≥ 4)
  | .brk _ => c.b.loops.isEmpty
  | .arrive a => c.arriveBad (a.x.toNat % 4) (c.barCount a)
  | .bar a =>
    !(c.b.bar (a.x.toNat % 4)).armed && !(c.b.bar (a.x.toNat % 4)).coming && c.arriveBad (a.x.toNat % 4) (c.barCount a)
  | .await a => !(c.b.bar (a.x.toNat % 4)).armed && !(c.b.bar (a.x.toNat % 4)).coming
  | .rett _ => !c.b.tstatIn
  | .ppld a =>
    uniformActs a.pr &&
      c.segCount a + (((List.range 4).filter (· != a.sub.toNat % 4)).map fun t => (c.g.tables.toArray.getD t []).length).sum > 64
  | .ppev a => (c.g.tables.toArray.getD (a.imm9.toNat % 4) []).isEmpty
  | _ => false

/-! ### Channels (R65, R279, R382) -/

/-- Channels that an operation reads: named sources of the vector slot, store data of the memory slot. -/
def Ctx.chanReads (c : Ctx) (i : Instr) : List Nat :=
  let ch (on : Bool) (code : OpCode) : List Nat :=
    match on, classOf code with
    | true, .chan n => [n]
    | _, _ => []
  match vinfo i, minfo i with
  | some (v, a), _ =>
    if a.u then []
    else
      let r := c.roles i v a
      ch (v.sa == .val) a.sa ++ ch (r.1 == .val) a.sb ++ ch (r.2.1 == .val || r.2.2) a.sc
  | none, some (m, a) => ch (m.dt == .store) a.dt
  | none, none => []

/-- The channel that an operation writes. -/
def chanWrite (i : Instr) : Option Nat :=
  match vinfo i with
  | some (v, a) =>
    if a.u || v.dst == .pred then none
    else (match classOf a.dst with | .chan n => some n | _ => none)
  | none => none

/-- An endpoint of the grove. -/
def Grove.endpoint (g : Grove) (n : Nat) : Option Endpoint := g.chans.toArray[n]?

/-- CHANNEL_BROKEN (R382): an access to an endpoint that is unbound, of the wrong direction, or broken with nothing
left to read. -/
def Ctx.chanBroken (c : Ctx) (i : Instr) : Bool :=
  (c.chanReads i).any (fun n =>
    match c.g.endpoint n with
    | some e => !e.bound || !e.receives || (e.broken && e.words.isEmpty)
    | none => true) ||
  (match chanWrite i with
    | some n =>
      (match c.g.endpoint n with
        | some e => !e.bound || e.receives || e.broken
        | none => true)
    | none => false)

/-- Whether a channel stretch holds the operation: an empty receiver, a full sender (Table 1.3). -/
def Ctx.chanHolds (c : Ctx) (i : Instr) : Bool :=
  (c.chanReads i).any (fun n =>
    ((c.g.endpoint n).map fun e => match e.words with
      | [] => true
      | w :: _ => decide (c.t ≤ w.1)).getD false) ||
  (match chanWrite i with
    | some n => ((c.g.endpoint n).map fun e => e.credits.all fun u => decide (c.t ≤ u)).getD false
    | none => false)

/-- Steps 6 to 9 of R194 for one operation; callv puts ILLEGAL_STATE first (R194). -/
def Ctx.laterCause (c : Ctx) (i : Instr) : Option Cause :=
  if c.misaligned i then some .misaligned
  else if c.scratchOutside i then some .scratchBounds
  else if c.illegalState i then some .illegalState
  else if c.chanBroken i then some .channelBroken
  else none

/-- Steps 6 to 9 of R194 for a bundle. -/
def Ctx.bundleLater (c : Ctx) (ops : List Instr) : Option Cause :=
  if ops.any c.misaligned then some .misaligned
  else if ops.any c.scratchOutside then some .scratchBounds
  else if ops.any c.illegalState then some .illegalState
  else if ops.any c.chanBroken then some .channelBroken
  else none

/-- The flags whose E an operation meets at issue, in the order R172 and R194 give. -/
def testedFlags : Instr → List Nat
  | .kget a => [a.sa.toNat]
  | .wait a => [a.x.toNat]
  | .waitany a => [a.x.toNat, a.y.toNat]
  | _ => []

/-- The first flag with E set that an operation tests (R41). -/
def Ctx.flagFault (c : Ctx) (i : Instr) : Option CFlag :=
  ((testedFlags i).map c.g.flag).find? (·.e)

/-- Rows of the tiles that the vector and memory slots access (R82, R332): tile numbers. -/
def tilesTouched (i : Instr) : List Nat :=
  let row (code : OpCode) : List Nat := match classOf code with
    | .row n => [n / 64]
    | _ => []
  match vinfo i, minfo i with
  | some (_, a), _ => if a.u then [] else row a.dst ++ row a.sa ++ row a.sb ++ row a.sc
  | none, some (_, a) => row a.dt
  | none, none => []

end Sys2Proof.Machine
end

