-- ==== Sys2Proof/Machine/Guard.lean ====
section
/-!
DEFINITION. What every slot operation does before its effect: it finds its bough, and where R75 or steps 4 to 10 of R194
find a cause it takes that trap instead, as a next state.
-/
namespace Sys2Proof.Machine

/-- A trap found at issue: {arg, cause}, cr.tval and cr.frec; cr.epc is the bundle (R191). -/
structure IssueTrap where
  cause : Word
  tval : DWord
  frec : BitVec 7
  deriving DecidableEq, Repr

/-- A trap of a flag's fault state (R41). -/
def CFlag.trap (f : CFlag) : IssueTrap := { cause := causeWord f.cause 0, tval := f.pc, frec := f.frec }

/-- A trap that points at the bundle itself. -/
def Ctx.trapOf (c : Ctx) (x : Cause) : IssueTrap := { cause := causeWord x.code 0, tval := c.b.pc, frec := 0 }

/-- The first trap that an operation meets at issue: R75 (checks 2 to 5), then steps 6 to 10 of R194. -/
def Ctx.issueTrap (c : Ctx) (i : Instr) : Option IssueTrap :=
  match c.opCause i with
  | some x => some (c.trapOf x)
  | none =>
    if c.b.dsLeft != 0 && isTransfer i then some (c.trapOf .delaySlotControl)
    else
      match c.laterCause i with
      | some x => some (c.trapOf x)
      | none => (c.flagFault i).map CFlag.trap

/-- An operation of a slot: the trap it meets, or its effect. With no bundle issuing it does nothing. -/
def State.guarded (s : State) (i : Instr) (eff : Ctx → State) : Host.Outcome State Fault Refusal :=
  match s.ctx? with
  | none => .next s
  | some c =>
    match c.issueTrap i with
    | some x => .next (s.takeTrap c.key x.cause c.b.pc x.tval x.frec c.t)
    | none => .next (eff c)

/-- The empty operation of a slot (R52). -/
def State.nothing (s : State) : Host.Outcome State Fault Refusal := .next s

end Sys2Proof.Machine
end

