-- ==== Sys2Proof/Machine/VectorOps.lean ====
section
/-!
DEFINITION. The shared operations of the vector slot: its sources (R236, R237, R262, R269), its latency (R70, R82, R270)
and its results (R77 to R82, R277, R279, R282).
-/
namespace Sys2Proof.Machine

/-- Rounding mode of a RM field (R53). -/
def rmMode : Rm → RMode
  | .rne => .rne | .rtz => .rtz | .rdn => .rdn | .rup => .rup

/-- Whether an operand code is an accumulator row. -/
def isRow (code : OpCode) : Bool := code.toNat ≥ 0x100

/-- The latency of a vector operation: max(L, 2) with a lane modifier (R270, assumption 119) or an accumulator row (R82). -/
def Ctx.latency (c : Ctx) (i : Instr) (v : VInfo) (a : VSlot) : Nat :=
  let r := c.roles i v a
  let row := !a.u && ((v.dst != .pred && isRow a.dst) || (v.sa == .val && isRow a.sa) || (r.1 == .val && isRow a.sb) ||
    ((r.2.1 == .val || r.2.2) && isRow a.sc))
  if a.xlm != .none || row then max v.lat 2 else v.lat

/-- First source in every lane, through the lane modifier (R269, R270). -/
def Ctx.srcA (c : Ctx) (i : Instr) (v : VInfo) (a : VSlot) : LaneVals :=
  let x := c.read (srcTy i a false) a.imm9 a.sa
  if a.xlm = .none then x
  else
    let fill := if (c.roles i v a).2.2 then c.readFill a.ty a.imm9 a.sc else bcast 0
    modRead a.xlm a.xlk.toNat c.width x fill

/-- Second source in every lane. -/
def Ctx.srcB (c : Ctx) (i : Instr) (a : VSlot) : LaneVals := c.read (srcTy i a false) a.imm9 a.sb

/-- Third source in every lane. -/
def Ctx.srcC (c : Ctx) (i : Instr) (a : VSlot) : LaneVals := c.read (srcTy i a true) a.imm9 a.sc

/-- The second register of a pair. -/
def nextDest : Dest → Dest
  | .vreg n => .vreg (n + 1)
  | .oreg n => .oreg (n + 1)
  | d => d

/-- The destination that a code of the vector slot names (Table 2.9). -/
def destOf (code : OpCode) : Dest :=
  match classOf code with
  | .vreg n => .vreg n
  | .oreg n => .oreg n
  | .row n => .row n
  | .chan n => .chan n
  | .scalar n => .scalar n
  | _ => .none

/-- Low and high words of lane values. -/
def lowWords (x : LaneVals) : Lanes := x.map (·.setWidth 32)
/-- The high words. -/
def highWords (x : LaneVals) : Lanes := x.map (·.extractLsb' 32 32)

/-- The results of an operation on the lanes: the low word on its latch path, the high word of a pair past it (R79,
R282). -/
def Ctx.laneResults (c : Ctx) (i : Instr) (v : VInfo) (a : VSlot) (vals : LaneVals) (flags : Flags) : List Result :=
  let due := c.t + c.latency i v a
  let act := c.actLanes a.pr
  let d := destOf a.dst
  { laneResult c.b v.path d act (lowWords vals) due flags with cc := 4 * c.t + c.b.phase.getD 0 } ::
    (if a.ty = .d || v.dst == .pair then [laneResult c.b .none (nextDest d) act (highWords vals) due 0] else [])

/-- A lane mask as words 1 and 0. -/
def maskWords (m : Mask) : Lanes := Vector.ofFn fun l => if m.getLsbD l.val then 1 else 0

/-- A result in a predicate (R259). -/
def Ctx.predResult (c : Ctx) (i : Instr) (v : VInfo) (a : VSlot) (n : Nat) (path : Path) (m : Mask) (flags : Flags) :
    Result :=
  laneResult c.b path (.pred n) (c.actLanes a.pr) (maskWords m) (c.t + c.latency i v a) flags

/-- A uniform result (R277); under !p0 nothing (R55). -/
def Ctx.uniResults (c : Ctx) (i : Instr) (v : VInfo) (a : VSlot) (x : DWord) (flags : Flags) : List Result :=
  match uniformActs a.pr, classOf a.dst with
  | true, .scalar n => [scalarResult c.b n x (c.t + c.latency i v a) flags]
  | _, _ => []

/-- One function applied lane by lane, or once in a uniform form, where a modifier has no lane to move (assumption 119). -/
def Ctx.byLane (c : Ctx) (i : Instr) (v : VInfo) (a : VSlot) (f : LaneFn) : List Result :=
  if a.u then
    let r := f (c.readUni (srcTy i a false) a.imm9 a.sa) (c.readUni (srcTy i a false) a.imm9 a.sb)
      (c.readUni (srcTy i a true) a.imm9 a.sc)
    c.uniResults i v a (if v.dst == .pair then r.1 else extendUni a.ty r.1) r.2
  else
    let xa := c.srcA i v a
    let xb := c.srcB i a
    let xc := c.srcC i a
    let act := c.actLanes a.pr
    let rs : Vector (DWord × Flags) 64 := Vector.ofFn fun l =>
      if act.getLsbD l.val then f (xa.get l) (xb.get l) (xc.get l) else (0, 0)
    c.laneResults i v a (rs.map (·.1)) (orFlags (rs.toList.map (·.2)))

/-- The credit that a word for a channel takes at issue (R279, R380): the oldest that may be used. -/
def Endpoint.claim (e : Endpoint) : Endpoint := { e with credits := e.credits.drop 1 }

/-- Results put in flight, and the channel credit claimed. -/
def State.issueVec (s : State) (c : Ctx) (i : Instr) (rs : List Result) : State :=
  let s := s.onBough c.key fun b => rs.foldl Bough.addResult b
  match chanWrite i with
  | some n => s.onGrove c.b.grove fun g => { g with chans := vmod g.chans n Endpoint.claim }
  | none => s

/-- An operation of the vector slot. -/
def vecExec (i : Instr) (eff : Ctx → VInfo → VSlot → List Result) (s : State) : Host.Outcome State Fault Refusal :=
  s.guarded i fun c =>
    match vinfo i with
    | none => s
    | some (v, a) => s.issueVec c i (eff c v a)

/-- An operation that applies one function lane by lane. -/
def laneExec (i : Instr) (f : Ctx → VSlot → LaneFn) (s : State) : Host.Outcome State Fault Refusal :=
  vecExec i (fun c v a => c.byLane i v a (f c a)) s

end Sys2Proof.Machine
end

