-- ==== Sys2Proof/Machine/Global.lean ====
section
/-!
DEFINITION. Operations that complete by flag: how they are issued (R204), what holds them (R131, R132, R140, R141, R147,
R198), and how each lane's access is performed at the points of Table 4.3 (R131 to R137, R152, R153, R219 to R224).
-/
namespace Sys2Proof.Machine

/-! ### Issue -/

/-- The completion event of an operation. -/
def OpKind.completion (k : OpKind) (id : Nat) : Option Instr :=
  match k with
  | .load _ _ => some (.globalLoadCompletion id)
  | .store => some (.storeCompletion id)
  | .atomg _ _ => some (.atomgCompletion id)
  | .red _ _ => some (.redCompletion id)
  | .settle => some (.settleCompletion id)
  | .fence _ _ _ => some (.fenceCompletion id)
  | .bld _ => some (.bldCompletion id)
  | .bseq => some (.bseqCompletion id)
  | .pref => some (.prefCompletion id)
  | .icinv => some (.icinvCompletion id)
  | .bpub _ => some (.bpubEnqueue id)
  | .bbar _ _ => some (.bbarEnqueue id)
  | .launch _ => none

/-- The iids of a bough lane by lane (R234). -/
def Ctx.iids (c : Ctx) : Lanes := Vector.ofFn fun l => c.b.iid.toArray.getD (l.val / c.width) 0
/-- bid of the issuing bough (Table 1.5). -/
def Ctx.bid (c : Ctx) : Word := BitVec.ofNat 32 (bidOf c.b.bnum c.g.slot c.b.ctx)

/-- An operation that completes by flag, as it is issued. -/
def Ctx.gop (c : Ctx) (id : Nat) (kind : OpKind) (queue flag : Nat) (lanes : List LaneReq) (dests : List Dest)
    (snap : List Nat) : GOp :=
  { bough := c.key, issued := c.t, issuedCc := c.cc, order := id, pc := c.b.pc, asid := c.l.asid, kind := kind,
    queue := queue, flag := flag, bid := c.bid, iids := c.iids, lanes := lanes, dests := dests, seq := c.b.seq, cut := id,
    arg0 := 0, arg1 := 0, arg2 := 0, sent := false, numbered := none, applied := false, bad := false, ended := none, opseq := c.b.opseq, snap := snap }

/-- Whether an operation counts in OPSEQ (R430). -/
def OpKind.counted : OpKind → Bool
  | .atomg _ _ | .red _ _ => true
  | _ => false

/-- The number of an access among those of its operation. -/
def LaneReq.slot (r : LaneReq) : Nat := r.lane + 64 * r.part

/-- An operation is accepted in its issue cycle (R204). Its accesses come no earlier than issue + 2 (R131); with none
to make it completes in the bough cycle `done`. -/
def State.issueOp (s : State) (c : Ctx) (kind : OpKind) (queue flag done : Nat) (lanes : List LaneReq)
    (dests : List Dest) (set : GOp → GOp) : State :=
  let id := s.nextOp
  let o := set (c.gop id kind queue flag lanes dests (s.die c.g.die).clock)
  let t := { s with nextOp := id + 1, ops := tput s.ops id o }
  let t := if kind.counted then t.onBough c.key fun b => { b with opseq := b.opseq + 1 } else t
  let first := 4 * (c.t + 2)
  let t := t.laterAll first ((lanes.filter fun r => r.stage = 0).map fun r => .homeAccess id r.slot false)
  match kind.completion id with
  | none => t
  | some e => if lanes.any fun r => r.stage = 0 then t.later first e else t.atTime (4 * done) e

/-- A lane's access before it is performed; a misaligned lane is not performed (R207). -/
def laneReq (l : Nat) (va : Int) (bytes data : Nat) : LaneReq :=
  let a : DWord := BitVec.ofInt 64 va
  let bad := a.toNat % bytes != 0
  { lane := l, part := 0, va := a, bytes := bytes, data := data, stage := if bad then 2 else 0, pa := 0, wid := 0, value := 0,
    fault := if bad then some (Cause.misaligned.code, 0) else none, flags := 0 }

/-- A plain access of more than one word, word by word (R136). -/
def LaneReq.words (r : LaneReq) : List LaneReq :=
  if r.stage != 0 || r.bytes ≤ 4 then [r]
  else (List.range (r.bytes / 4)).map fun i =>
    { r with part := i, va := r.va + BitVec.ofNat 64 (4 * i), bytes := 4, data := r.data / 2 ^ (32 * i) % 2 ^ 32 }

/-! ### Finding out what holds an access -/

/-- Operations that hold back those their bough issues later until they are done: fences (R140, R141), bpub until its
frame is sent, an acquiring bld, bbar (R146). -/
def GOp.holds (o : GOp) : Bool :=
  match o.kind with
  | .fence _ _ _ => true
  | .bpub _ => !o.sent
  | .bld acq => acq
  | .bbar _ _ => true
  | _ => false

/-- Whether an earlier operation of the bough holds one with a given place in issue order. -/
def State.heldByOp (s : State) (bough order : Nat) : Bool :=
  s.ops.any fun e => e.2.bough == bough && decide (e.2.order < order) && e.2.holds

/-- Whether an access waits for a copy: one that the bough issued before it, which is to write its line, or has yet to own its
lines; or another's that owns its line (R147). -/
def State.heldByCopy (s : State) (bough order pa : Nat) : Bool :=
  !s.copies.isEmpty && (s.unclaimed bough order ||
    (s.ownedLines fun c => if c.bough = bough then decide (c.order < order) else c.owns.isSome).contains (pa / 128))

/-- Global accesses, which the two queues order (R132). -/
def OpKind.access : OpKind → Option AccessKind
  | .load _ _ => some .read
  | .store | .atomg _ _ | .red _ _ | .settle => some .write
  | _ => none

/-- The kind of access as which an operation's lanes are translated (R126); a prefetch is no access that orders (R229). -/
def OpKind.translates (k : OpKind) : Option AccessKind :=
  match k with
  | .pref => some .read
  | k => k.access

/-- Performed at the home only (Table 4.3). -/
def OpKind.homeOnly : OpKind → Bool
  | .atomg _ _ | .red _ _ | .settle => true
  | _ => false

/-- Whether a lane's access has been performed at the points that a later one needs: at the home, or at the issuing
die's view. -/
def State.laneDone (s : State) (d : Nat) (homeOnly : Bool) (r : LaneReq) : Bool :=
  let seen := match tget s.writes r.wid with
    | some w => !w.todo.contains d
    | none => true
  (r.stage == 2 && (homeOnly || seen)) || (r.stage == 1 && !homeOnly)

/-- The physical address of a lane, as far as translation gives one. -/
def State.lanePa (s : State) (d asid : Nat) (k : AccessKind) (r : LaneReq) : Option Nat :=
  if r.stage != 0 || r.reach != .here then (if r.fault.isSome then none else some r.pa)
  else
    match s.xlate d asid k r.va.toNat with
    | .ok a => some a
    | .error _ => none

/-- Whether an earlier access of the same bough, queue and line has yet to be performed (R132). -/
def State.queueHolds (s : State) (d : Nat) (o : GOp) (pa : Nat) : Bool :=
  s.ops.any fun e =>
    e.2.bough == o.bough && e.2.queue == o.queue && decide (e.2.order < o.order) &&
      (match e.2.kind.access with
        | none => false
        | some k => e.2.lanes.any fun r =>
            (match s.lanePa d e.2.asid k r with
              | some a => a / 128 == pa / 128 && !s.laneDone d o.kind.homeOnly r
              | none => false))

/-- Whether a write of the bough's own, of an operation that has completed, has yet to reach the view that a read is served
from (R132, R135). -/
def State.ownUnseen (s : State) (d bough pa : Nat) : Bool :=
  s.writes.any fun w => w.2.bough == bough && w.2.todo.contains d && (w.2.cells.any fun c => c.1 / 128 == pa / 128) &&
    !s.ops.any fun e => e.2.lanes.any fun r => r.wid == w.1

/-! ### Performing -/

/-- Lanes of an operation changed. -/
def State.onLanes (s : State) (id : Nat) (f : LaneReq → LaneReq) : State :=
  s.onOp id fun o => { o with lanes := o.lanes.map f }

/-- One access changed. -/
def State.onLane (s : State) (id slot : Nat) (f : LaneReq → LaneReq) : State :=
  s.onLanes id fun r => if r.slot = slot then f r else r

/-- An access that faults is not performed (R233). -/
def State.laneFails (s : State) (id slot : Nat) (x : XFault) : State :=
  s.onLane id slot fun r => { r with stage := 2, fault := some x }

/-- An access that is done. -/
def State.laneDoneWith (s : State) (id slot pa wid value : Nat) (f : Flags) : State :=
  s.onLane id slot fun r => { r with stage := 2, pa := pa, wid := wid, value := value, flags := f }

/-- A number written at its home, and its way to the views (Table 4.3). -/
def State.homeWrite (s : State) (bough pa n x : Nat) : Nat × State :=
  let r := s.originate (paHome pa) bough n (numCells pa n x)
  (r.1, r.2.spread r.1)

/-- The ATOMIC record of an ordered sub-operation in the ring of its home (R429, Table 15.8). -/
def State.logAtomic (s : State) (o : GOp) (d pa lane : Nat) (lost : Bool) : State :=
  (s.log (paHome pa) (launchOfKey o.bough) .other (logRecord 0x04 o.opseq.toNat (s.boughIds o.bough)
    (packFields [(paLocal pa, 0, 40), (d, 40, 22), (lane, 62, 6), (bit01 lost, 68, 1)]) s.cc)).1

/-- What the replay input says of an ordered sub-operation (R434): nothing, do it (record i, LOST or not), wait, or that it can be
followed no longer (R435). -/
inductive PlayAtomic where
  | free
  | now (i : Nat) (lost : Bool)
  | hold
  | over
  deriving DecidableEq, Repr

/-- The next ATOMIC record of a line decides which sub-operation comes next (R434); one of a bough that can do none any more, or an
input without one, cannot be followed (R435). -/
def State.playAtomic (s : State) (o : GOp) (pa lane : Nat) : PlayAtomic :=
  let h := paHome pa
  if !s.plays h (launchOfKey o.bough) then .free
  else
    match s.nextPlay h fun r => recType r == 0x04 && bitsOf r 128 40 / 128 == paLocal pa / 128 with
    | none => .over
    | some (i, r) =>
      if bitsOf r 64 32 == o.opseq.toNat && bitsOf r 190 6 == lane && recOf r (s.boughIds o.bough) &&
          some (bitsOf r 168 22) == (s.opHome o.bough).map fun x => x.1.die then .now i (r.testBit 196)
      else if s.recordLive (bitsOf r 168 22) (launchOfKey o.bough) r then .hold
      else .over

/-- An ordered sub-operation as the input allows it: held, or performed with the loss it states. -/
def State.ordered (s : State) (o : GOp) (pa lane : Nat) (err : Bool) (f : State → Bool → State) : State :=
  match s.playAtomic o pa lane with
  | .free => f s err
  | .now i lost => f (s.followed (paHome pa) i) lost
  | .hold => s
  | .over => f (s.diverge (paHome pa) (launchOfKey o.bough) 0x04 o.pc.toNat 0 (s.boughIds o.bough)) err

/-- An atomg sub-operation at its home (R219, R220, R224). -/
def State.performAtomg (s : State) (id d pa : Nat) (o : GOp) (r : LaneReq) (sub : Nat) (wide err : Bool) : State :=
  if s.poisoned pa then s.laneFails id r.slot (lineFault .uncorrectable pa)
  else
    s.ordered o pa r.lane err fun s lost =>
      if lost then ((s.setPoison pa).logAtomic o d pa r.lane true).laneFails id r.slot (lineFault .remoteError pa)
      else
        let m := readNum s.mem pa r.bytes
        let y := atomNew (atomOf sub wide) (8 * r.bytes) m r.data
        let w := s.homeWrite o.bough pa r.bytes y.1
        (w.2.logAtomic o d pa r.lane false).laneDoneWith id r.slot pa w.1 m y.2

/-- What a request from a die, of an operation of core cycle `since`, meets on the way to an address (R417, Table 6.8). -/
def State.wayTo (s : State) (since d pa : Nat) : Option XFault :=
  (s.sentCause since d (paHome pa) (some (paLocal pa))).map fun c => wayFault c pa

/-- An address translated on die `d` and reached from die `e`. -/
def State.reached (s : State) (since d e asid va : Nat) : Except XFault Nat :=
  match s.xlate d asid .write va with
  | .error f => .error f
  | .ok pa =>
    match s.wayTo since e pa with
    | some f => .error f
    | none => .ok pa

/-- A shadow as its home holds it, reached from die `e`: its address and contents. -/
def State.shadowAt (s : State) (since d e asid : Nat) (l : Launch) (i : Nat) : Except XFault (Nat × Shadow) :=
  match s.reached since d e asid (l.shadowVa i) with
  | .error f => .error f
  | .ok pa =>
    if s.poisoned pa then .error (lineFault .uncorrectable pa)
    else .ok (pa, Shadow.ofNat (readNum s.mem pa 64))

/-- A region element as its home holds it, asked for by the home `e` of its shadow (R152): its address and value. -/
def State.elementOf (s : State) (since d e asid : Nat) (l : Launch) (i : Nat) : Except XFault (Nat × FVal) :=
  match s.reached since d e asid (l.elementVa i) with
  | .error f => .error f
  | .ok pa =>
    if s.poisoned pa then .error (lineFault .uncorrectable pa)
    else .ok (pa, valOf l.regionFmt (readNum s.mem pa l.regionBytes))

/-- One sub-element of a floating-point red: into a shadow, or an atomic add rounded in its format (R152, R221): the
bytes to write, where, and the flags. -/
def State.redPart (s : State) (since d e asid : Nat) (l : Launch) (f : FFmt) (va x : Nat) :
    Except XFault (Nat × Nat × Nat × Flags) :=
  match l.elementAt va with
  | some i =>
    if f != l.regionFmt then .error (xfault .illegalState)
    else
      match s.shadowAt since d e asid l i with
      | .error e => .error e
      | .ok (pa, sh) =>
        if sh.cnt + 1 ≥ 2 ^ 42 then .error (xfault .illegalState)
        else if sh.live then .ok (pa, 64, (sh.redAdd (.zero false) (valOf f x)).toNat, 0)
        else
          match s.elementOf since d (paHome pa) asid l i with
          | .error e => .error e
          | .ok (_, v) => .ok (pa, 64, (sh.redAdd v (valOf f x)).toNat, 0)
  | none =>
    match s.reached since d e asid va with
    | .error e => .error e
    | .ok pa =>
      if s.poisoned pa then .error (lineFault .uncorrectable pa)
      else
        let y := faddCode f (readNum s.mem pa (f.width / 8)) x
        .ok (pa, f.width / 8, y.1, y.2)

/-- Parts written at their homes one after another; the number of the last write. -/
def State.writeParts (s : State) (bough : Nat) (ps : List (Nat × Nat × Nat × Flags)) : Nat × State :=
  ps.foldl (fun r p => r.2.homeWrite bough p.1 p.2.1 p.2.2.1) (0, s)

/-- A red at its home (R152, R221, R223), which its request has reached on die `e`. One that only adds into live shadows does not read the
array's line. -/
def State.performRed (s : State) (id d e pa : Nat) (o : GOp) (l : Launch) (r : LaneReq) (sub : Nat) (err : Bool) : State :=
  let op := redOf sub
  let s := if err then s.setPoison pa else s
  match op with
  | .fadd | .fadd2 =>
    let va := r.va.toNat
    let subs := if op = .fadd then [(FFmt.fp32, va, r.data % 2 ^ 32)]
      else [(FFmt.bf16, va, r.data % 2 ^ 16), (FFmt.bf16, va + 2, r.data / 2 ^ 16 % 2 ^ 16)]
    let wrong := l.det && op == .fadd && ((l.elementAt va).isSome || (l.elementAt (va + 2)).isSome) && l.rbf16
    let parts := subs.mapM fun x => s.redPart o.issuedCc d e o.asid l x.1 x.2.1 x.2.2
    (match wrong, parts with
      | true, _ => s.laneFails id r.slot (xfault .illegalState)
      | false, .error e => s.laneFails id r.slot e
      | false, .ok ps =>
        let finish (s : State) : State :=
          match subs.mapM fun x => s.redPart o.issuedCc d e o.asid l x.1 x.2.1 x.2.2 with
          | .error e => s.laneFails id r.slot e
          | .ok ps =>
            let w := s.writeParts o.bough ps
            w.2.laneDoneWith id r.slot pa w.1 0 (orFlags (ps.map (·.2.2.2)))
        if ps.all fun p => p.2.1 == 64 then finish s
        else s.ordered o pa r.lane false fun s _ => (finish s).logAtomic o d pa r.lane false)
  | _ =>
    match s.wayTo o.issuedCc e pa, s.poisoned pa with
    | some f, _ => s.laneFails id r.slot f
    | none, true => s.laneFails id r.slot (lineFault .uncorrectable pa)
    | none, false =>
      let y := atomNew op (8 * r.bytes) (readNum s.mem pa r.bytes) r.data
      let w := s.homeWrite o.bough pa r.bytes y.1
      w.2.laneDoneWith id r.slot pa w.1 0 y.2

/-- One element settled (R153), asked for from die `e`: its flags, its address and write, and the state with the element written and its shadow
cleared. -/
def State.settleElement (s : State) (since d e asid bough : Nat) (l : Launch) (i : Nat) :
    Except XFault (Flags × Nat × Nat × State) :=
  match s.shadowAt since d e asid l i with
  | .error e => .error e
  | .ok (shPa, sh) =>
    if !sh.live then .ok (0, 0, 0, s)
    else
      match s.reached since d (paHome shPa) asid (l.elementVa i) with
      | .error e => .error e
      | .ok pa =>
        let y := sh.settle l.regionFmt
        let w := s.homeWrite bough pa l.regionBytes y.1
        .ok (y.2, pa, w.1, (w.2.homeWrite bough shPa 64 0).2)

/-- The region elements within a word (R222). -/
def Launch.elementsOf (l : Launch) (va : Nat) : List Nat :=
  ([va, va + 2].filterMap l.elementAt).eraseDups

/-- A settle of one lane's word (R222), which its request has reached on die `e`; the lane keeps its last write of the array. -/
def State.performSettle (s : State) (id d e : Nat) (o : GOp) (l : Launch) (r : LaneReq) : State :=
  let step := fun (p : Except XFault (Flags × Nat × Nat × State)) (i : Nat) =>
    match p with
    | .error e => .error e
    | .ok (f, pa, w, s) =>
      match s.settleElement o.issuedCc d e o.asid o.bough l i with
      | .error e => .error e
      | .ok (g, pa2, w2, t) => .ok (f ||| g, if w2 = 0 then pa else pa2, if w2 = 0 then w else w2, t)
  match (l.elementsOf r.va.toNat).foldl step (.ok (0, 0, 0, s)) with
  | .error e => s.laneFails id r.slot e
  | .ok (f, pa, w, t) => t.laneDoneWith id r.slot pa w 0 f

/-- The bytes that accesses of a store put at their physical addresses; the highest lane provides a byte (R137). -/
def lineCells (rs : List (LaneReq × Nat)) : List Host.Cell :=
  rs.foldl (fun (m : Table Byte) r =>
    (bytesOfNat r.1.bytes r.1.data).zipIdx.foldl (fun m e => tput m (r.2 + e.2) e.1) m) []

/-- The accesses of a store that leave together: of one physical line, the one named and others with it, those to one word
always (R136, R137, assumption 51); of a request that another module has taken, those that went in it. -/
def State.leaveTogether (s : State) (d pa : Nat) (o : GOp) (r : LaneReq) : List (LaneReq × Nat) :=
  if r.reach != .here then (o.lanes.filter fun x => x.stage == 0 && x.reach != .here && x.lead == r.lead).map fun x => (x, x.pa) else
  let all := o.lanes.filterMap fun x =>
    if x.stage != 0 || x.reach != .here then none
    else (s.lanePa d o.asid .write x).bind fun a => if a / 128 = pa / 128 then some (x, a) else none
  let picked := all.filter fun x => x.1.slot == r.slot || Config.gathers s.free x.1.slot
  all.filter fun x => picked.any fun y => y.2 / 4 == x.2 / 4

/-- Accesses of a store leave: applied to the issuing die's view and sent to the home, or performed at the home (Table
4.3). -/
def State.performStore (s : State) (id d pa : Nat) (o : GOp) (r : LaneReq) (err : Bool) : State :=
  let s := if err then s.setPoison pa else s
  let mine := s.leaveTogether d pa o r
  let cells := lineCells mine
  let s := { s with free := s.free + 1 }
  let leave (stage wid : Nat) (x : LaneReq) : LaneReq :=
    match mine.find? fun y => y.1.slot == x.slot with
    | some y => { x with stage := stage, pa := y.2, wid := wid }
    | none => x
  if atHome d (paHome pa) then
    let w := s.originate (paHome pa) o.bough r.bytes cells
    (w.2.onLanes id (leave 2 w.1)).unpoisonStored.spread w.1
  else
    let w := s.sendWrite d (paHome pa) o.bough r.bytes cells
    (w.2.onLanes id (leave 1 w.1)).later (s.cc + 1) (.homeAccess id r.slot false)

/-- An ldr miss fills its line (R138); in a full L1 it takes the place of another (assumption 123). -/
def State.fillLine (s : State) (g : Grove) (d asid va pa : Nat) : State :=
  let line : L1Line := { asid := asid, line := va / 128, bytes := (List.range 128).map fun i => s.viewByte d (pa / 128 * 128 + i) }
  let rest := (s.core g.core).l1.filter fun x => !(x.asid == asid && x.line == va / 128)
  let kept := if rest.length < Config.l1Lines then rest else rest.eraseIdx (Config.victim s.free % Config.l1Lines)
  { s with free := s.free + 1 }.onCore g.core fun c => { c with l1 := line :: kept }

/-- A global read at the view of the issuing die (R131). -/
def State.performLoad (s : State) (id d pa : Nat) (o : GOp) (g : Grove) (r : LaneReq) (err : Bool) : State :=
  let s := if err then s.setPoison pa else s
  if s.poisoned pa then s.laneFails id r.slot (lineFault .uncorrectable pa)
  else
    let t := s.laneDoneWith id r.slot pa 0 (s.viewNum d pa r.bytes) 0
    if o.queue = 2 then t.fillLine g d o.asid r.va.toNat pa else t

/-- The access that comes next in a physical line: operations on one element take effect in lane order (R137, R429). The event of a
lane whose turn came in another's place takes the first that is left. -/
def State.nextInLine (s : State) (d : Nat) (o : GOp) (r : LaneReq) : LaneReq :=
  if o.kind.homeOnly then
    let left := o.lanes.filter fun x => x.stage == 0
    let r := if r.stage = 0 then r else left.head?.getD r
    match s.lanePa d o.asid .write r with
    | none => r
    | some pa => ((left.filter fun x => ((s.lanePa d o.asid .write x).map fun a => a / 128) == some (pa / 128)).head?).getD r
  else r

/-- The module of the home that a lane's access has a way to, whose clocks it needs (R446). -/
def State.stalledHome (s : State) (o : GOp) (slot : Nat) : List Nat :=
  match s.opHome o.bough, o.lanes.find? fun r => r.slot == slot with
  | some (g, _), some r =>
    (match s.lanePa g.die o.asid .read r with
      | some pa => if s.reaches g.die (paHome pa) then [paHome pa / 32] else []
      | none => [])
  | _, _ => []

/-- Where a lane's access is performed: the home of its line, or that of the shadow of a region's element (R152, R153). -/
def State.laneHome (s : State) (d : Nat) (o : GOp) (l : Launch) (r : LaneReq) (pa : Nat) : Nat :=
  let shadow := match l.elementsOf r.va.toNat with
    | [] => none
    | i :: _ => (s.xlate d o.asid .write (l.shadowVa i)).toOption
  match o.kind with
  | .red sub _ => if redOf sub == .fadd || redOf sub == .fadd2 then paHome (shadow.getD pa) else paHome pa
  | .settle => paHome (shadow.getD pa)
  | _ => paHome pa

/-- Releases that a bough issued after an access which it has now made count what it has seen so far (R140, R143). -/
def State.seenNow (s : State) (bough order d : Nat) : State :=
  let after (o : GOp) : Bool := o.bough == bough && decide (order < o.order) &&
    (match o.kind with
      | .fence _ rel _ => rel
      | .bpub _ | .bbar _ _ => true
      | _ => false)
  if s.ops.any fun e => after e.2 then
    { s with ops := s.ops.map fun e => (e.1, if after e.2 then { e.2 with snap := (s.die d).clock, cut := s.nextOp } else e.2) }
  else s

/-- What the links carry for a lane's access (R371): a read of this module is served by the die's own view. -/
def State.carryLane (s : State) (id d : Nat) (o : GOp) (l : Launch) (r : LaneReq) (pa : Nat) : State :=
  match o.kind with
  | .pref => s
  | .load _ _ =>
    if atHome d (paHome pa) then s.request d (paHome pa) 0 .load id (some pa) [] (bytesOfNat r.bytes (readNum s.mem pa r.bytes)) else s
  | .settle =>
    if (l.elementsOf r.va.toNat).isEmpty then s
    else s.request d (s.laneHome d o l r pa) 0 .atomic id (some pa) (bytesOfNat r.bytes r.data) []
  | .store =>
    let cells := lineCells (s.leaveTogether d pa o r)
    s.request d (paHome pa) 0 .store id (cells.head?.map (·.1)) (cells.map (·.2)) []
  | _ => s.request d (s.laneHome d o l r pa) 0 .atomic id (some pa) (bytesOfNat r.bytes r.data) []

/-- The operation of a lane's flits. -/
def OpKind.flitOp : OpKind → FlitOp
  | .load _ _ => .load
  | .store => .store
  | _ => .atomic

/-- The accesses that go in one request with a lane's (R136). -/
def State.goTogether (s : State) (d pa : Nat) (o : GOp) (r : LaneReq) : List (LaneReq × Nat) :=
  if o.kind = .store then s.leaveTogether d pa o r else [(r, pa)]

/-- A request for a lane's access leaves for the die of another module that is to perform it (R371, R416, R417); where it does not
leave, the access fails. -/
def State.askHome (s : State) (id d home : Nat) (o : GOp) (r : LaneReq) (pa : Nat) : State :=
  if (s.way d home).isNone then s.laneFails id r.slot (lineFault .remoteError pa)
  else if s.leaving d home == .never then s.laneFails id r.slot (xfault .trustReject)
  else
    let mine : List (LaneReq × Nat) := s.goTogether d pa o r
    let cells : List Host.Cell := lineCells mine
    let ask (x : LaneReq) : LaneReq :=
      match mine.find? fun y => y.1.slot == x.slot with
      | some y => { x with reach := .asked, lead := r.slot, pa := y.2 }
      | none => x
    let t := { s with free := s.free + 1 }.onLanes id ask
    if o.kind = .store then t.request d home 0 .store (laneTag id r.slot) (cells.head?.map (·.1)) (cells.map (·.2)) []
    else t.request d home 0 o.kind.flitOp (laneTag id r.slot) (some pa)
      (match o.kind with
        | .load _ _ => []
        | _ => bytesOfNat r.bytes r.data) []

/-- What a home has performed for another module is answered: the accesses of the request wait for the response. -/
def State.answerLane (s : State) (id d : Nat) (r : LaneReq) : State :=
  match r.reach, tget s.ops id with
  | .taken home epoch, some o =>
    let value := ((o.lanes.find? fun x => x.slot == r.slot).map (·.value)).getD 0
    let body := match o.kind with
      | .load _ _ | .atomg _ _ => bytesOfNat r.bytes value
      | _ => []
    (s.onAsked (laneTag id r.lead) fun x => { x with reach := .answering }).answerAccess home d o.kind.flitOp (laneTag id r.lead) r.pa epoch body
  | _, _ => s

/-- The die keeps the translations that a lane's access uses: of its address, and of the region's elements and shadows that it
reaches (R127, R152). -/
def State.touchLane (s : State) (d : Nat) (o : GOp) (l : Launch) (r : LaneReq) : State :=
  let more := if o.kind.homeOnly then ((l.elementsOf r.va.toNat).map fun i => [l.shadowVa i, l.elementVa i]).flatten else []
  more.foldl (fun t a => t.touch d o.asid a) (s.touch d o.asid r.va.toNat)

/-- Whether a read has to wait for the view that serves it (R132, R135). -/
def State.viewHolds (s : State) (d : Nat) (o : GOp) (pa : Nat) : Bool :=
  match o.kind with
  | .load _ _ => s.ownUnseen d o.bough pa
  | _ => false

/-- Whether the replay input has an ordered sub-operation wait for others of its line (R429, R434). -/
def State.orderHolds (s : State) (o : GOp) (l : Launch) (r : LaneReq) (pa : Nat) : Bool :=
  let ordered := match o.kind with
    | .atomg _ _ => true
    | .red sub _ =>
      (redOf sub == .fadd && (l.elementAt r.va.toNat).isNone) ||
        (redOf sub == .fadd2 && ((l.elementAt r.va.toNat).isNone || (l.elementAt (r.va.toNat + 2)).isNone))
    | _ => false
  ordered && s.playAtomic o pa r.lane == .hold

/-- What a lane's access does where it is performed, having reached die `e` of its home's module (Table 4.3). -/
def State.performAt (s : State) (id e pa : Nat) (o : GOp) (g : Grove) (l : Launch) (r : LaneReq) (err : Bool) : State :=
  let d := g.die
  match o.kind with
  | .red sub _ => s.performRed id d e pa o l r sub err
  | .settle => s.performSettle id d e o l r
  | .load _ _ =>
    (match s.wayTo o.issuedCc e pa with
      | some f => s.laneFails id r.slot f
      | none => s.performLoad id d pa o g r err)
  | .store =>
    (match s.wayTo o.issuedCc e pa with
      | some f => s.laneFails id r.slot f
      | none => s.performStore id d pa o r err)
  | .atomg sub wide =>
    (match s.wayTo o.issuedCc e pa with
      | some f => s.laneFails id r.slot f
      | none => s.performAtomg id d pa o r sub wide err)
  | _ => s

/-- Whether a lane's access is performed by another module, which has to be asked: not a settle of no element (R222). -/
def asksAway (d home : Nat) (o : GOp) (l : Launch) (r : LaneReq) : Bool :=
  home / 32 != d / 32 && !(o.kind == .settle && (l.elementsOf r.va.toNat).isEmpty)

/-- The access of a lane, whose turn it is: translation (R126), the request to another module (R416, R417), then what its kind does. -/
def State.performLane (s : State) (id : Nat) (o : GOp) (g : Grove) (l : Launch) (r : LaneReq) (err : Bool) : State :=
  match o.kind.translates with
  | none => s
  | some k =>
    let d := g.die
    let t := (s.claim o.bough o.order).touchLane d o l r
    match o.kind, if r.reach = .here then s.xlate d o.asid k r.va.toNat else .ok r.pa with
    | .pref, .error _ => t.laneDoneWith id r.slot 0 0 0 0
    | .settle, .error e =>
      if (l.elementsOf r.va.toNat).isEmpty then t.laneDoneWith id r.slot 0 0 0 0 else t.laneFails id r.slot e
    | _, .error e => t.laneFails id r.slot e
    | .pref, .ok pa => t.laneDoneWith id r.slot pa 0 0 0
    | _, .ok pa =>
      if s.queueHolds d o pa || s.heldByCopy o.bough o.order pa || s.viewHolds d o pa then s
      else
        match r.reach with
        | .here =>
          let home := t.laneHome d o l r pa
          if asksAway d home o l r then (t.askHome id d home o r pa).later (s.cc + 1) (.homeAccess id r.slot err)
          else if s.orderHolds o l r pa then s
          else ((t.carryLane id d o l r pa).performAt id d pa o g l r err).seenNow o.bough o.order d
        | .taken home _ =>
          if s.orderHolds o l r pa then s
          else
            let t := (t.performAt id home pa o g l r err).seenNow o.bough o.order d
            if (tget t.ops id).any (fun x => x.lanes.any fun y => y.slot == r.slot && y.stage == 2) then
              (t.answerLane id d r).later (s.cc + 1) (.homeAccess id r.slot false)
            else t
        | _ => s

/-- Whether a write of the host or of an engine that has yet to be performed at its home waits: for a copy that owns its line (R147), or for one
that the host made before it (R473). -/
def State.arrivalHeld (s : State) (id : Nat) : Bool :=
  match tget s.writes id with
  | none => false
  | some w =>
    decide (2 ^ 61 ≤ w.bough) &&
      ((s.writes.any fun e => decide (e.1 < id) && e.2.bough == w.bough && e.2.order == 0) ||
        w.cells.any fun c => s.owned.contains (c.1 / 128))

/-- A home access of an operation (R131): what was sent is performed at its home, also for a copy, whose writes the number
then names; else the lane's own access, from issue + 2 on and once nothing holds it. -/
def State.accessLane (s : State) (id slot : Nat) (err : Bool) : State :=
  let s := s.loseAccesses id
  match tget s.ops id with
  | none => if s.arrivalHeld id then s else s.performArrived id
  | some o =>
    match o.lanes.find? fun r => r.slot == slot, s.opHome o.bough with
    | some r, some (g, l) =>
      if r.stage = 1 then s.performArrived r.wid
      else
        let r := s.nextInLine g.die o r
        if r.stage != 0 || s.bc < o.issued + 2 || s.heldByOp o.bough o.order then s
        else s.performLane id o g l r err
    | _, _ => s

/-- The replay input's OBSERVE record of a bundle (R434): the next of the bough of a KIND. -/
def State.playObserve (s : State) (c : Ctx) (kind : Nat) : Option (Nat × Nat) :=
  if s.plays c.g.die c.g.launch then
    s.nextPlay c.g.die fun r => recType r == 0x0C && recOf r (s.boughIds c.key) && bitsOf r 64 2 == kind
  else none

/-- Whether the input has a bough give up its phase at the waitany it presents: a GRANT of the bough comes before the OBSERVE of the
waitany's issue (R434; assumption 144). -/
def State.playGivesUp (s : State) (c : Ctx) : Bool :=
  match s.playObserve c 1 with
  | none => false
  | some (j, _) => ((s.nextPlay c.g.die fun r => recType r == 0x01 && recOf r (s.boughIds c.key)).map fun x => decide (x.1 < j)).getD false

end Sys2Proof.Machine
end

