-- ==== Sys2Proof/Machine/Channels.lean ====
section
/-!
DEFINITION. Channel words and credits on their way between groves (R279, R380 to R383), and edits of a saved image.
-/
namespace Sys2Proof.Machine

/-- Bytes of a saved grove's image changed; an image that does not take them is a drop. -/
def State.editImage (s : State) (g : Grove) (off n : Nat) (f : List Byte → List Byte) : State :=
  match s.launchOf g, g.saveAt with
  | some l, some at_ =>
    (match s.readVa g.saveDie l.asid (at_.toNat + off) n with
      | .ok bytes =>
        let x := s.tryWrite g.saveDie l.asid (at_.toNat + off) (f bytes)
        if x.2 then x.1 else x.1.dropped g.launch
      | .error _ => (s.touchRange g.saveDie l.asid (at_.toNat + off) n).dropped g.launch)
  | _, _ => s

/-- Offset of an endpoint in a grove image (Table 11.6). -/
def imageEndpoint (n : Nat) : Nat := 0x800 + 2112 * n

/-- Lanes as 256 bytes, lane l at 4l. -/
def laneBytes (x : Lanes) : List Byte := (x.toList.map fun w => bytesOfNat 4 w.toNat).flatten

/-- An endpoint of a grove changed. -/
def Grove.onChan (g : Grove) (n : Nat) (f : Endpoint → Endpoint) : Grove := { g with chans := vmod g.chans n f }

/-- A word put into an endpoint image: the slot after the newest, and COUNT (Table 12.3). -/
def imageWord (x : Lanes) (bytes : List Byte) : List Byte :=
  let h := natOfBytes (bytes.take 64)
  let slot := (bitsOf h 20 4 + bitsOf h 16 4) % 8
  bytesOfNat 64 (h + 2 ^ 16) ++ (bytes.drop 64).take (256 * slot) ++ laneBytes x ++ bytes.drop (64 + 256 * (slot + 1))

/-- A word arrives at an endpoint, wherever its grove stands; one for a grove that is no more is discarded (R382). -/
def State.deliverWord (s : State) (key n : Nat) (x : Lanes) : State :=
  match s.grove? key with
  | none => s
  | some g =>
    match g.life with
    | .ended => s
    | .saved => s.editImage g (imageEndpoint n) 2112 (imageWord x)
    | _ => s.onGrove key fun g => g.onChan n fun e => { e with words := e.words ++ [(s.bc, x)] }

/-- A credit arrives at a writing endpoint. -/
def State.deliverCredit (s : State) (key n : Nat) : State :=
  match s.grove? key with
  | none => s
  | some g =>
    match g.life with
    | .ended => s
    | .saved => s.editImage g (imageEndpoint n) 4 fun b => bytesOfNat 4 (natOfBytes b + 2 ^ 24)
    | _ => s.onGrove key fun g => g.onChan n fun e => { e with credits := e.credits ++ [s.bc] }

/-- Whether a message in flight is for an endpoint. -/
def MsgKind.forEndpoint (m : MsgKind) (word : Bool) (key n : Nat) : Bool :=
  match m with
  | .word k e _ _ => word && k == key && e == n
  | .credit k e _ => !word && k == key && e == n
  | _ => false

/-- A message on its way, with the event of its arrival. -/
def State.send (s : State) (m : MsgKind) (ev : Nat → Instr) : State :=
  let id := s.nextOp
  ({ s with nextOp := id + 1, msgs := tput s.msgs id m }).later (s.cc + 1) (ev id)

/-- What the links carry from a die to the die of a grove. -/
def State.carryBetween (s : State) (d key : Nat) (word : Option (List Byte)) : State :=
  match s.grove? key, word with
  | none, _ => s
  | some p, some x => s.request d p.die 3 .word s.nextOp none x []
  | some p, none => s.notify d p.die 3 .credit s.nextOp

/-- A word of a writing endpoint reaches its due cycle: on the same core it occupies its place at once, behind any still
on its way (R380). -/
def State.sendWord (s : State) (g : Grove) (n : Nat) (x : Lanes) : State :=
  match g.endpoint n with
  | none => s
  | some e =>
    if !e.bound || e.receives then s
    else
      let near := ((s.grove? e.peer).map fun p => p.core == g.core && p.life == .placed).getD false &&
        !s.msgs.any fun m => m.2.forEndpoint true e.peer e.peerEnd
      if near then s.deliverWord e.peer e.peerEnd x
      else (s.carryBetween g.die e.peer (some (laneBytes x))).send (.word e.peer e.peerEnd x s.cc) .channelWordArrival

/-- The oldest word of a reading endpoint is popped, and its credit goes back to the writer (R380). -/
def State.popChannel (s : State) (key n : Nat) : State :=
  match (s.grove? key).bind fun g => g.endpoint n with
  | none => s
  | some e =>
    let d := ((s.grove? key).map (·.die)).getD 0
    ((s.onGrove key fun g => g.onChan n fun e => { e with words := e.words.drop 1 }).carryBetween d e.peer none).send
      (.credit e.peer e.peerEnd s.cc) .channelCreditReturn

/-- Whether a message is the oldest of its kind for its endpoint: words are read in the order in which they were written
(R380). -/
def State.oldestMsg (s : State) (id : Nat) (m : MsgKind) : Bool :=
  match m with
  | .word k e _ _ => s.msgs.all fun x => decide (id ≤ x.1) || !x.2.forEndpoint true k e
  | .credit k e _ => s.msgs.all fun x => decide (id ≤ x.1) || !x.2.forEndpoint false k e
  | _ => true

/-- Whether nothing that a grove's die sent in the core cycle `since` passes to another's: no way is left, or a trust engine rejects it
or its response (R387, R417, R419). -/
def State.wayLost (s : State) (since from_ to_ : Nat) : Bool :=
  match s.grove? from_, s.grove? to_ with
  | some a, some b => from_ != to_ && ((s.sentCause since a.die b.die none).isSome || !s.answered since a.die b.die)
  | _, _ => false

/-- An endpoint finds its channel broken (R382); in a saved image, BRK is set (Table 12.3). -/
def State.breakEnd (s : State) (key n : Nat) : State :=
  match s.grove? key with
  | none => s
  | some g =>
    if g.life = .saved then s.editImage g (imageEndpoint n) 1 fun b => bytesOfNat 1 (natOfBytes b ||| 4)
    else s.onGrove key fun g => g.onChan n fun e => { e with broken := true }

/-- Whether what travels to an endpoint from its peer, sent in the core cycle `since`, is lost (R417). -/
def State.channelLost (s : State) (since key n : Nat) : Option Endpoint :=
  ((s.grove? key).bind fun g => g.endpoint n).filter fun e => e.bound && s.wayLost since e.peer key

/-- A message is no longer on its way. -/
def State.dropMsg (s : State) (id : Nat) : State := { s with msgs := tdel s.msgs id }

/-- CHANNEL_WORD_ARRIVAL (R380, R383, R417). -/
def execChannelWordArrival (msg : Nat) (s : State) : Host.Outcome State Fault Refusal :=
  match tget s.msgs msg with
  | some (.word k e x since) =>
    if !s.oldestMsg msg (.word k e x since) then .next s
    else
      match s.channelLost since k e with
      | some y => .next (((s.dropMsg msg).breakEnd k e).breakEnd y.peer y.peerEnd)
      | none => .next ((s.dropMsg msg).deliverWord k e x)
  | _ => .next s

/-- CHANNEL_CREDIT_RETURN (R380, R383, R417). -/
def execChannelCreditReturn (msg : Nat) (s : State) : Host.Outcome State Fault Refusal :=
  match tget s.msgs msg with
  | some (.credit k e since) =>
    if !s.oldestMsg msg (.credit k e since) then .next s
    else
      match s.channelLost since k e with
      | some y => .next (((s.dropMsg msg).breakEnd k e).breakEnd y.peer y.peerEnd)
      | none => .next ((s.dropMsg msg).deliverCredit k e)
  | _ => .next s

end Sys2Proof.Machine
end

