-- ==== Sys2Proof/Machine/Cregs.lean ====
section
/-!
DEFINITION. The control registers of Table 5.5 (R197): what csrr reads, what csrw and a restored image write, and the
items of a bough (R11, R17 to R20).
-/
namespace Sys2Proof.Machine

/-- A level of the loop stack by depth 1 to 4, the outermost first (R165). -/
def Bough.level? (b : Bough) (depth : Nat) : Option LoopLevel := b.loops.reverse[depth - 1]?

/-- A step pair (R169). -/
def Bough.pair (b : Bough) (j : Nat) : StepPair := b.steps.toArray.getD j { reg := 0, depth := 0, stride := 0 }

/-- A control register as csrr reads it (Table 5.5). `held` is the count of core cycles of the grant. The count and the addresses of
a loop depth not in force read zero (assumption 141). -/
def Bough.creg (b : Bough) (fpen : Flags) (held : Nat) (n : Nat) : DWord :=
  match n with
  | 0x000 => b.fflags.setWidth 64
  | 0x001 => fpen.setWidth 64
  | 0x008 => BitVec.ofNat 64 (b.prio % 4 + 4 * (b.raised % 4))
  | 0x009 => b.refc.setWidth 64
  | 0x00A => BitVec.ofNat 64 held
  | 0x010 => b.tvec
  | 0x011 => b.cause.setWidth 64
  | 0x012 => b.epc
  | 0x013 => b.tval
  | 0x014 => b.frec.setWidth 64
  | 0x015 => BitVec.ofNat 64 (bit01 b.tstatIn + 2 * b.tstatDsn)
  | 0x016 => b.tdst
  | 0x017 => b.tvmask
  | 0x020 => b.vserved
  | 0x021 => b.vmask
  | 0x022 => b.vsite
  | 0x030 => BitVec.ofNat 64 b.loops.length
  | n =>
    if 0x031 ≤ n ∧ n ≤ 0x034 then ((b.level? (n - 0x030)).map (·.count)).getD 0
    else if 0x035 ≤ n ∧ n ≤ 0x038 then ((b.level? (n - 0x034)).map (·.start)).getD 0
    else if 0x039 ≤ n ∧ n ≤ 0x03C then ((b.level? (n - 0x038)).map (·.last)).getD 0
    else if 0x040 ≤ n ∧ n ≤ 0x043 then
      BitVec.ofNat 64 ((b.pair (n - 0x040)).reg.toNat + 2 ^ 8 * (b.pair (n - 0x040)).depth)
    else if 0x044 ≤ n ∧ n ≤ 0x047 then (b.pair (n - 0x044)).stride
    else 0

/-- The count of a level written; a depth not in force ignores it (R197). -/
def Bough.setCount (b : Bough) (depth : Nat) (x : DWord) : Bough :=
  { b with loops := b.loops.mapIdx fun i l => if b.loops.length - i = depth then { l with count := x } else l }

/-- csrw (R197): reserved bits are ignored; DSN takes any value (assumption 128), and cr.tdst all 64 bits
(assumption 140). -/
def Bough.setCreg (b : Bough) (n : Nat) (x : DWord) : Bough :=
  match n with
  | 0x000 => { b with fflags := x.setWidth 6 }
  | 0x010 => { b with tvec := bundleAddr x }
  | 0x011 => { b with cause := x.setWidth 32 &&& 0xFFFF00FF#32 }
  | 0x012 => { b with epc := bundleAddr x }
  | 0x013 => { b with tval := x }
  | 0x014 => { b with frec := x.setWidth 7 }
  | 0x015 => { b with tstatIn := x.getLsbD 0, tstatDsn := (x.extractLsb' 1 2).toNat }
  | 0x016 => { b with tdst := x }
  | 0x017 => { b with tvmask := x }
  | 0x020 => { b with vserved := x }
  | 0x021 => { b with vmask := x }
  | n => if 0x031 ≤ n ∧ n ≤ 0x034 then b.setCount (n - 0x030) x else b

/-! ### Items -/

/-- Spans of a bough. -/
def Ctx.spans (c : Ctx) : Nat := 64 / c.width

/-- Idle spans, rising. -/
def Ctx.idleSpans (c : Ctx) : List Nat := (List.range c.spans).filter fun j => !c.b.active.getLsbD j

/-- Whether every block of a stage's supply has been granted (R22). -/
def Launch.exhausted (l : Launch) (stage : Nat) : Bool := decide (l.items stage ≤ 64 * l.supply.getD stage 0)

/-- A grove's supply is empty (R353). -/
def Grove.supplyEmpty (g : Grove) (l : Launch) : Bool := g.held.isEmpty && !g.reqOut && l.exhausted g.stage

/-- A deferral queue. -/
def Grove.queue (g : Grove) (q : Nat) : DeferQueue := g.queues.toArray.getD q { head := 0, count := 0 }

/-- Bytes of a queue (R186). -/
def Launch.queueBytes (l : Launch) (w q : Nat) : Nat := if l.drainAt q = 0 then 0 else 64 * l.capacity q * (1 + w)

/-- Base of a queue's ring: queue 0 ends at SCRATCH, each next one where the one before begins (R351). -/
def Launch.queueBase (l : Launch) (w q : Nat) : Nat :=
  l.scratchBytes - ((List.range (q + 1)).map fun i => l.queueBytes w i).sum

/-- Address of an entry's header. -/
def Ctx.headerAt (c : Ctx) (q e : Nat) : Nat := c.l.queueBase c.width q + 64 * e
/-- Address of an entry's register block. -/
def Ctx.blockAt (c : Ctx) (q e : Nat) : Nat :=
  c.l.queueBase c.width q + 64 * c.l.capacity q + 64 * c.width * e

/-- Declared queues, rising. -/
def Launch.queueList (l : Launch) : List Nat := (List.range 4).filter fun q => l.drainAt q != 0

/-- The course of a refill (R18). -/
inductive Course where
  | items (n : Nat)
  | batch (q n : Nat)
  | nothing
  /-- It must wait for an item block (R354). -/
  | wait
  deriving DecidableEq, Repr

/-- The queue from which a batch is taken, if one is (R18, assumption 126). -/
def Ctx.batchQueue (c : Ctx) : Option Nat :=
  let qs := c.l.queueList
  if c.b.active != 0 then none
  else
    match qs.find? fun q => decide (c.l.drainAt q ≤ (c.g.queue q).count) with
    | some q => some q
    | none => if c.g.supplyEmpty c.l then qs.find? fun q => (c.g.queue q).count != 0 else none

/-- R18 and R354. -/
def Ctx.course (c : Ctx) : Course :=
  match c.batchQueue with
  | some q => .batch q (min (c.g.queue q).count c.spans)
  | none =>
    if c.g.supplyEmpty c.l then .nothing
    else if c.idleSpans.isEmpty then .items 0
    else if c.g.held.isEmpty && c.g.reqOut then .wait
    else .items (min c.idleSpans.length c.g.held.length)

/-- A course that the replay input logs, as far as the state allows it (R434, R435): none when it cannot be followed. -/
def Ctx.logged (c : Ctx) (r : Nat) : Option Course :=
  let n := bitsOf r 132 7
  let q := bitsOf r 130 2
  match bitsOf r 128 2 with
  | 0 => if n ≤ c.idleSpans.length then
      (if n ≤ c.g.held.length then some (.items n) else if c.g.reqOut then some .wait else none) else none
  | 1 => if n ≤ (c.g.queue q).count && n ≤ c.spans && c.b.active == 0 then some (.batch q n) else none
  | _ => some .nothing

end Sys2Proof.Machine
end

