-- ==== Sys2Proof/Machine/Control.lean ====
section
/-!
DEFINITION. The meanings of the control slot (05_sequencer.md). A meaning changes the bough and tells the issuing bundle
(State.cur) where the next bundle comes from; the bundle's end (Cycle.lean) applies delay slots and iteration ends.
-/
namespace Sys2Proof.Machine

/-! ### Shared parts -/

/-- The issuing bundle changed. -/
def State.onCur (s : State) (f : Issue → Issue) : State := { s with cur := f s.cur }

/-- A taken transfer, after two delay slots (R160); callv's to the next address is one too (R163, assumption 151). -/
def State.take (s : State) (target : DWord) : State := s.onCur fun x => { x with taken := some target }
/-- Where a br, brc, bri, call, calli or ret transfers: taken unless its target is the next address (R160). -/
def State.transfer (s : State) (c : Ctx) (target : DWord) : State := if target = c.b.pc + 32 then s else s.take target
/-- The next bundle, without delay slots. -/
def State.jump (s : State) (target : DWord) : State := s.onCur fun x => { x with jump := some target }

/-- A scalar written for bundles issued from t + 1 on (R157). -/
def State.setScalar (s : State) (c : Ctx) (n : Nat) (x : DWord) : State :=
  s.onBough c.key fun b => b.addResult (scalarResult c.b n x c.t 0)

/-- A bundle that does not issue: the bough gives up its phase and waits (R42, R44). -/
def State.giveUp (s : State) (c : Ctx) (w : WaitOn) : State := s.onBough c.key fun b => b.release (.waiting w)

/-- A control operation with fields `a`. -/
def ctlExec (i : Instr) (eff : Ctx → State) (s : State) : Host.Outcome State Fault Refusal := s.guarded i eff

/-! ### Branches and calls (R160 to R162) -/

/-- nop (R52). -/
def execNop (s : State) : Host.Outcome State Fault Refusal := s.nothing

/-- br (R161). -/
def execBr (a : KSlot) (s : State) : Host.Outcome State Fault Refusal :=
  ctlExec (.br a) (fun c => s.transfer c (c.dispTarget a)) s

/-- brc (R159, R161). -/
def execBrc (a : KSlot) (s : State) : Host.Outcome State Fault Refusal :=
  ctlExec (.brc a) (fun c => if c.cond a then s.transfer c (c.dispTarget a) else s) s

/-- bri (R161). -/
def execBri (a : KSlot) (s : State) : Host.Outcome State Fault Refusal :=
  ctlExec (.bri a) (fun c => s.transfer c (c.b.sreg a.x.toNat)) s

/-- call (R161): the link is c + 96. -/
def execCall (a : KSlot) (s : State) : Host.Outcome State Fault Refusal :=
  ctlExec (.call a) (fun c => (s.setScalar c a.x.toNat (c.b.pc + 96)).transfer c (c.dispTarget a)) s

/-- calli (R161). -/
def execCalli (a : KSlot) (s : State) : Host.Outcome State Fault Refusal :=
  ctlExec (.calli a) (fun c => (s.setScalar c a.x.toNat (c.b.pc + 96)).transfer c (c.b.sreg a.y.toNat)) s

/-- callv (R163): one distinct target at a time. -/
def execCallv (a : KSlot) (s : State) : Host.Outcome State Fault Refusal :=
  ctlExec (.callv a) (fun c =>
    match lanesOf (c.callvCand a) with
    | [] => s.onBough c.key fun b => { b with vserved := 0, vmask := BitVec.allOnes 64, vsite := 0 }
    | l0 :: _ =>
      let target := c.callvTarget a l0
      let m := maskOf fun l => (c.callvCand a).getLsbD l && c.callvTarget a l == target
      let s := s.onBough c.key fun b => { b with vserved := b.vserved ||| m, vmask := m, vsite := c.b.pc }
      (s.setScalar c a.x.toNat c.b.pc).take target) s

/-- ret (R161): as bri. -/
def execRet (a : KSlot) (s : State) : Host.Outcome State Fault Refusal :=
  ctlExec (.ret a) (fun c => s.transfer c (c.b.sreg a.x.toNat)) s

/-! ### Loops (R165 to R169) -/

/-- The count of a `loop`. -/
def Ctx.loopCount (c : Ctx) (a : KSlot) : DWord := if a.x = 0 then a.b.setWidth 64 else c.b.sreg a.x.toNat

/-- Address of the end bundle of a `loop`. -/
def Ctx.loopEnd (c : Ctx) (a : KSlot) : DWord := c.b.pc + 32 * a.a.setWidth 64

/-- loop (R165). -/
def execLoop (a : KSlot) (s : State) : Host.Outcome State Fault Refusal :=
  ctlExec (.loop a) (fun c =>
    if c.loopCount a = 0 then s.jump (c.loopEnd a + 32)
    else s.onBough c.key fun b =>
      { b with loops := { count := c.loopCount a, start := c.b.pc + 32, last := c.loopEnd a } :: b.loops }) s

/-- astep (R169). -/
def execAstep (a : KSlot) (s : State) : Host.Outcome State Fault Refusal :=
  ctlExec (.astep a) (fun c =>
    let depth := (a.a.extractLsb' 2 3).toNat
    let p : StepPair := if depth = 0 then { reg := 0, depth := 0, stride := 0 }
      else { reg := a.x, depth := depth, stride := if a.y = 0 then a.b.signExtend 64 else c.b.sreg a.y.toNat }
    s.onBough c.key fun b => { b with steps := vmod b.steps (a.a.toNat % 4) fun _ => p }) s

/-- brk (R168): the innermost level is popped without its steps. -/
def execBrk (a : KSlot) (s : State) : Host.Outcome State Fault Refusal :=
  ctlExec (.brk a) (fun c =>
    match c.cond a, c.b.loops with
    | true, l :: rest =>
      ((s.onBough c.key fun b => { b with loops := rest }).take (l.last + 32)).onCur fun x => { x with popped := true }
    | _, _ => s) s

/-! ### Counting flags (R171 to R175) -/

/-- wait (R171). -/
def execWait (a : KSlot) (s : State) : Host.Outcome State Fault Refusal :=
  ctlExec (.wait a) (fun c =>
    if flagSatisfied (c.g.flag a.x.toNat).count (c.waitCount a) then s
    else s.giveUp c (.flag a.x.toNat (c.waitCount a))) s

/-- Whether each flag of a waitany is satisfied. -/
def Ctx.anySatisfied (c : Ctx) (a : KSlot) : Bool × Bool :=
  (flagSatisfied (c.g.flag a.x.toNat).count (a.a.setWidth 24), flagSatisfied (c.g.flag a.y.toNat).count (a.b.setWidth 24))

/-- What a waitany that issues reports: the flags satisfied, or under a replay input the logged ones (R434). -/
def State.anyReported (s : State) (c : Ctx) (y : Bool × Bool) : Bool × Bool :=
  if !s.plays c.g.die c.g.launch then y
  else
    match s.playObserve c 1 with
    | some (_, r) =>
      let logged := (r.testBit 128, r.testBit 129)
      if (logged.1 && !y.1) || (logged.2 && !y.2) then y else logged
    | none => y

/-- waitany (R172); one that issues is observed (R428). Under a replay input it gives up its phase where the input says so (R434). -/
def execWaitany (a : KSlot) (s : State) : Host.Outcome State Fault Refusal :=
  ctlExec (.waitany a) (fun c =>
    let y := c.anySatisfied a
    if (y.1 || y.2) && !s.playGivesUp c then
      let z := s.anyReported c y
      s.logAfter c.key 0x0C 1 (packFields [(bit01 z.1, 0, 1), (bit01 z.2, 1, 1), (c.b.pc.toNat, 64, 64)])
    else s.giveUp c (.either a.x.toNat (a.a.setWidth 24) a.y.toNat (a.b.setWidth 24))) s

/-- post (R173). -/
def execPost (a : KSlot) (s : State) : Host.Outcome State Fault Refusal :=
  ctlExec (.post a) (fun c => s.onGrove c.b.grove fun g => g.pushFlag (.bump a.x.toNat (a.b.setWidth 24))) s

/-- postr (R173): the increment is on its way. -/
def execPostr (a : KSlot) (s : State) : Host.Outcome State Fault Refusal :=
  ctlExec (.postr a) (fun c =>
    let id := s.nextOp
    let m := MsgKind.postr c.g.launch (c.b.sreg a.y.toNat) a.x.toNat a.b.toNat c.key c.cc
    let t := match (c.l.named (c.b.sreg a.y.toNat)).bind fun n => s.grove? (groveKey c.g.launch n) with
      | some p => s.request c.g.die p.die 0 .post id none [] []
      | none => s
    ({ t with nextOp := id + 1, msgs := tput t.msgs id m }).later (s.cc + 1) (.postrArrival id)) s

/-- kset (R175). -/
def execKset (a : KSlot) (s : State) : Host.Outcome State Fault Refusal :=
  ctlExec (.kset a) (fun c => s.onGrove c.b.grove fun g => g.pushFlag (.set a.x.toNat (c.waitCount a))) s

/-! ### Barriers (R177 to R182) -/

/-- An arrival issued (R178): it takes effect at issue + 3. -/
def State.issueArrive (s : State) (c : Ctx) (bar n : Nat) : State :=
  (s.onGrove c.b.grove fun g => g.pushAct
    { bc := c.t + 3, cc := c.cc, bnum := c.b.bnum, seq := c.b.seq, pc := c.b.pc, act := .arrive bar n }).onBough c.key
    fun b => { b with bars := vmod b.bars bar fun x => { x with coming := true } }

/-- A satisfied await clears armed (R179). -/
def State.clearArmed (s : State) (c : Ctx) (bar : Nat) : State :=
  s.onBough c.key fun b => { b with bars := vmod b.bars bar fun x => { x with armed := false } }

/-- bar (R180): the arrival at its first presentation, unless the bough's own is on its way (assumption 152), then an await. -/
def execBar (a : KSlot) (s : State) : Host.Outcome State Fault Refusal :=
  ctlExec (.bar a) (fun c =>
    let n := a.x.toNat % 4
    if c.awaitDone n then s.clearArmed c n
    else if (c.b.bar n).armed || (c.b.bar n).coming then s.giveUp c (.barrier n)
    else (s.issueArrive c n (c.barCount a)).giveUp c (.barrier n)) s

/-- arrive (R178). -/
def execArrive (a : KSlot) (s : State) : Host.Outcome State Fault Refusal :=
  ctlExec (.arrive a) (fun c => s.issueArrive c (a.x.toNat % 4) (c.barCount a)) s

/-- await (R179). -/
def execAwait (a : KSlot) (s : State) : Host.Outcome State Fault Refusal :=
  ctlExec (.await a) (fun c =>
    if c.awaitDone (a.x.toNat % 4) then s.clearArmed c (a.x.toNat % 4) else s.giveUp c (.barrier (a.x.toNat % 4))) s

/-! ### Phases -/

/-- yield (R183): the phase is given up once the bundle has issued. -/
def execYield (a : KSlot) (s : State) : Host.Outcome State Fault Refusal :=
  ctlExec (.yield a) (fun _ => s.onCur fun x => { x with giveUp := true }) s

/-- prio (R184): at most the priority of the launch's queue. -/
def execPrio (a : KSlot) (s : State) : Host.Outcome State Fault Refusal :=
  ctlExec (.prio a) (fun c => s.onBough c.key fun b => { b with prio := min (a.b.toNat % 4) c.l.prio }) s

/-! ### Items (R185 to R190) -/

/-- A grove asks for a block when it holds fewer than 64 indices and has no request outstanding (R353), until the supply has told it
that it is exhausted (R354). -/
def State.askBlock (s : State) (grove : Nat) : State :=
  match s.grove? grove with
  | none => s
  | some g =>
    if 64 ≤ g.held.length || g.reqOut || g.told then s
    else (s.onGrove grove fun g => { g with reqOut := true }).later (s.cc + 1) (.itemBlockGrant grove)

/-- The course that a refill takes: the logged one under a replay input (R434), else that of R18. -/
def State.refillCourse (s : State) (c : Ctx) : State × Course :=
  if !s.plays c.g.die c.g.launch then (s, c.course)
  else
    match s.nextPlay c.g.die fun r => recType r == 0x03 && recOf r (s.boughIds c.key) with
    | none => (s.diverge c.g.die c.g.launch 0x03 c.b.pc.toNat (c.g.core % 64) (s.boughIds c.key), c.course)
    | some (i, r) =>
      match c.logged r with
      | none => (s.diverge c.g.die c.g.launch 0x03 c.b.pc.toNat (c.g.core % 64) (s.boughIds c.key), c.course)
      | some .wait => (s, .wait)
      | some x => (s.followed c.g.die i, x)

/-- A header read by a deferral batch (Table 5.3), as it is stored (assumption 127): IID, IAGE, MASK, BASE. -/
def Ctx.header (c : Ctx) (q i : Nat) : Nat × Nat × Nat × Nat :=
  let x := readNum c.g.scratch (c.headerAt q (((c.g.queue q).head + i) % max 1 (c.l.capacity q))) 64
  (bitsOf x 0 32, bitsOf x 32 32, bitsOf x 64 15, bitsOf x 80 8)

/-- Spans given items: `xs` pairs a span with its iid and iage. -/
def Bough.takeItems (b : Bough) (xs : List (Nat × Nat × Nat)) : Bough :=
  xs.foldl (fun b x =>
    { b with active := b.active ||| BitVec.ofNat 64 (2 ^ x.1), iid := b.iid.setIfInBounds x.1 (BitVec.ofNat 32 x.2.1),
             iage := b.iage.setIfInBounds x.1 (BitVec.ofNat 32 x.2.2) }) b

/-- The REFILL record of a course (Table 15.8). -/
def refillBody (course q spans : Nat) (refc : Word) : Nat :=
  packFields [(course, 0, 2), (q, 2, 2), (spans, 4, 7), (refc.toNat, 32, 32)]

/-- New items (R18): idle spans take the next indices in increasing order. -/
def State.takeNew (s : State) (c : Ctx) (n : Nat) : State :=
  let refc := c.b.refc + 1
  let xs := ((c.idleSpans.take n).zip (c.g.held.take n)).map fun x => (x.1, x.2, refc.toNat)
  let s := s.onBough c.key fun b => { b.takeItems xs with refc := refc }
  (s.onGrove c.b.grove fun g => { g with held := g.held.drop n }).askBlock c.b.grove

/-- A deferral batch (R18, R185): headers are read now, register blocks at issue + 3. -/
def State.takeBatch (s : State) (c : Ctx) (q n : Nat) : State :=
  let cap := max 1 (c.l.capacity q)
  let hs := (List.range n).map fun i => c.header q i
  let xs := hs.zipIdx.map fun h => (h.2, h.1.1, h.1.2.1)
  let blocks := hs.zipIdx.map fun h => (c.blockAt q (((c.g.queue q).head + h.2) % cap), c.width, h.1.2.2.2, h.1.2.2.1)
  let s := s.onBough c.key fun b => { b.takeItems xs with refc := c.b.refc + 1 }
  let s := s.onGrove c.b.grove fun g =>
    { g with queues := vmod g.queues q fun x => { head := (x.head + n) % cap, count := x.count - n } }
  (s.onGrove c.b.grove fun g => g.pushAct
    { bc := c.t + 3, cc := c.cc, bnum := c.b.bnum, seq := c.b.seq, pc := c.b.pc, act := .restore blocks }).jump
      (c.l.handler q)

/-- What a refill logs: course, queue, spans served, iid of the first. -/
def Ctx.refillFacts (c : Ctx) (x : Course) : Nat × Nat × Nat × Nat :=
  match x with
  | .items n => (0, 0, n, if n = 0 then 0 else c.g.held.headD 0)
  | .batch q n => (1, q, n, if n = 0 then 0 else (c.header q 0).1)
  | _ => (2, 0, 0, 0)

/-- refill (R18, R185, R354, R432): it waits for a block, traps LOG_FULL when its record cannot be written, or takes
its course. -/
def execRefill (a : KSlot) (s : State) : Host.Outcome State Fault Refusal :=
  ctlExec (.refill a) (fun c =>
    let p := s.refillCourse c
    match p.2 with
    | .wait => p.1.giveUp c .items
    | x =>
      let f := c.refillFacts x
      let r := p.1.logBough c.key 0x03 f.2.2.2 (refillBody f.1 f.2.1 f.2.2.1 (c.b.refc + 1)) .bough
      if r.2 then s.takeTrap c.key (causeWord Cause.logFull.code 0) c.b.pc c.b.pc 0 c.t
      else
        match x with
        | .items n => r.1.takeNew c n
        | .batch q n => r.1.takeBatch c q n
        | _ => r.1.onBough c.key fun b => { b with refc := c.b.refc + 1 }) s

/-- Active spans whose first lane has a condition, restricted by cr.vmask (R187, R188). -/
def Ctx.chosenSpans (c : Ctx) (pr : BitVec 4) : List Nat :=
  (List.range c.spans).filter fun j =>
    c.b.active.getLsbD j && ((c.b.prMask pr) &&& c.b.vmask).getLsbD (j * c.width)

/-- The registers that a mask names from a base (R187). -/
def maskRegs (base mask : Nat) : List Nat := ((List.range 15).filter fun k => mask.testBit k).map (base + ·)

/-- The header and register block of a deferred span (R186, R187), registers as read now; words that the mask does not name are no cells of
it (assumption 148). -/
def Ctx.entryCells (c : Ctx) (q e j base mask : Nat) : List Host.Cell :=
  numCells (c.headerAt q e) 64 (packFields [((c.b.iid.toArray.getD j 0).toNat, 0, 32),
    ((c.b.iage.toArray.getD j 0).toNat, 32, 32), (mask, 64, 15), (base, 80, 8), (c.width, 88, 8)]) ++
  ((List.range c.width).map fun lane =>
    ((maskRegs base mask).zipIdx.map fun r =>
      numCells (c.blockAt q e + 64 * lane + 4 * r.2) 4 ((c.b.vreg r.1).toArray.getD (j * c.width + lane) 0).toNat).flatten).flatten

/-- Spans made idle. -/
def Bough.idle (b : Bough) (js : List Nat) : Bough :=
  { b with active := b.active &&& ~~~(maskOf fun j => js.contains j) }

/-- defer (R187). -/
def execDefer (a : KSlot) (s : State) : Host.Outcome State Fault Refusal :=
  ctlExec (.defer a) (fun c =>
    let q := a.y.toNat % 4
    let cap := max 1 (c.l.capacity q)
    let js := c.chosenSpans (a.x.extractLsb' 0 4)
    let room := c.l.capacity q - (c.g.queue q).count
    let accepted := js.take room
    let cells := (accepted.zipIdx.map fun x =>
      c.entryCells q (((c.g.queue q).head + (c.g.queue q).count + x.2) % cap) x.1 a.a.toNat a.b.toNat).flatten
    let refused := maskOf fun l => (js.drop room).contains (l / c.width)
    let s := s.onGrove c.b.grove fun g =>
      ({ g with queues := vmod g.queues q fun x => { x with count := x.count + accepted.length } }).pushAct
        { bc := c.t + 2, cc := c.cc, bnum := c.b.bnum, seq := c.b.seq, pc := c.b.pc, act := .store cells }
    s.onBough c.key fun b =>
      (b.idle accepted).addResult (laneResult c.b .none (.pred (a.y.toNat / 4 % 8)) (BitVec.allOnes 64)
        (maskWords refused) (c.t + 1) 0)) s

/-- exit (R188). -/
def execExit (a : KSlot) (s : State) : Host.Outcome State Fault Refusal :=
  ctlExec (.exit a) (fun c => s.onBough c.key fun b => b.idle (c.chosenSpans (a.x.extractLsb' 0 4))) s

/-- Whether every bough of a grove has halted. -/
def State.allHalted (s : State) (grove n : Nat) : Bool :=
  (List.range n).all fun i => ((s.bough? (boughKey grove i)).map fun b => b.status == .halted).getD false

/-- The peers of a grove's channels find them broken (R382). -/
def State.breakPeers (s : State) (g : Grove) : State :=
  g.chans.toList.foldl (fun s e =>
    if e.bound then s.breakEnd e.peer e.peerEnd else s) s

/-- A grove whose last bough has halted ends (R21): indices it still holds do not run (R22). -/
def State.endGrove (s : State) (key : Nat) : State :=
  match s.grove? key with
  | none => s
  | some g =>
    let s := s.onGrove key fun g => { g with life := .ended }
    (s.breakPeers g).onLaunch g.launch fun l =>
      { l with endedGroves := l.endedGroves + 1, unrun := l.unrun || !g.held.isEmpty }

/-- halt (R21, R190): the bough releases its context and its phase. -/
def execHalt (a : KSlot) (s : State) : Host.Outcome State Fault Refusal :=
  ctlExec (.halt a) (fun c =>
    let t := s.onBough c.key fun b => b.release .halted
    if t.allHalted c.b.grove c.l.boughsPer then t.endGrove c.b.grove else t) s

/-! ### Traps (R193, R195, R196) -/

/-- trap (R193): the handler is entered once the bundle has issued. -/
def execTrap (a : KSlot) (s : State) : Host.Outcome State Fault Refusal :=
  ctlExec (.trap a) (fun _ => s.onCur fun x => { x with trap := some (causeWord (a.b.setWidth 8) a.a, 0) }) s

/-- rett (R195). -/
def execRett (a : KSlot) (s : State) : Host.Outcome State Fault Refusal :=
  ctlExec (.rett a) (fun c => (s.onBough c.key Bough.returnTrap).onCur fun x => { x with returned := true }) s

/-- ximm (R61): its values have extended the other slots' immediates. -/
def execXimm (a : KSlot) (s : State) : Host.Outcome State Fault Refusal := ctlExec (.ximm a) (fun _ => s) s

/-! ### Control registers (R197) -/

/-- csrr. -/
def execCsrr (a : KSlot) (s : State) : Host.Outcome State Fault Refusal :=
  ctlExec (.csrr a) (fun c => s.setScalar c a.x.toNat (c.b.creg c.l.fpen (s.cc - c.b.grantCc) a.a.toNat)) s

/-- csrw: in effect at t + 1. -/
def execCsrw (a : KSlot) (s : State) : Host.Outcome State Fault Refusal :=
  ctlExec (.csrw a) (fun c => s.onBough c.key fun b =>
    b.addResult { scalarResult c.b 0 (c.b.sreg a.y.toNat) c.t 0 with dest := .creg a.a.toNat }) s

/-! ### Fetch, launch and beacon barrier (R198 to R200) -/

/-- icinv (R198); a length of 0 completes at once (assumption 38). -/
def execIcinv (a : KSlot) (s : State) : Host.Outcome State Fault Refusal :=
  ctlExec (.icinv a) (fun c =>
    let len := c.b.sreg a.y.toNat
    let t := s.issueOp c .icinv 2 (a.a.toNat % 32) (c.t + 1) [] []
      fun o => { o with arg1 := c.b.sreg a.x.toNat, arg2 := len }
    if len = 0 then t else { t with agenda := s.agenda }.later (4 * (c.t + 2)) (.icinvCompletion s.nextOp)) s

/-- launch (R199): the record is handed to the launch engine. -/
def execLaunch (a : KSlot) (s : State) : Host.Outcome State Fault Refusal :=
  ctlExec (.launch a) (fun c =>
    let q := a.b.toNat % 64
    let va := c.b.sreg a.x.toNat
    let op := s.nextOp
    let t := s.issueOp c (.launch q) 2 (a.a.toNat % 32) (c.t + 2) [] [] fun o => { o with arg1 := va }
    let id := t.nextOp
    let m := MsgKind.submit (moduleOf c.g.die) q va c.l.asid op
    ({ t with nextOp := id + 1, msgs := tput t.msgs id m }).later (4 * (c.t + 2))
      (.launchAcceptance id (BitVec.ofNat 32 id))) s

/-- bbar (R200, R402, R403). -/
def execBbar (a : KSlot) (s : State) : Host.Outcome State Fault Refusal :=
  ctlExec (.bbar a) (fun c => s.issueOp c (.bbar a.a.toNat a.b.toNat) 2 a.x.toNat (c.t + 2) [] [] id) s

end Sys2Proof.Machine
end

