-- ==== Sys2Proof/Machine/Memory.lean ====
section
/-!
DEFINITION. The meanings of the memory slot (06_memory_engine.md). Scratchpad operations enter the schedule of their
grove (R71, R129); operations that complete by flag are handed to the memory engine (R204).
-/
namespace Sys2Proof.Machine

/-! ### Shared parts -/

/-- `n` registers from a code up (Table 6.2). -/
def destRegs (code : OpCode) (n : Nat) : List Dest :=
  (List.range n).map fun i =>
    match destOf code with
    | .vreg k => .vreg (k + i)
    | .oreg k => .oreg (k + i)
    | d => d

/-- Word `i` of a register group in a lane. -/
def Ctx.groupWord (c : Ctx) (code : OpCode) (i l : Nat) : Nat :=
  match classOf code with
  | .vreg k => ((c.b.vreg (k + i)).toArray.getD l 0).toNat
  | .oreg k => ((c.b.oreg (k + i)).toArray.getD l 0).toNat
  | _ => 0

/-- The data of a store in a lane (R206). -/
def Ctx.storeData (c : Ctx) (a : MSlot) (l : Nat) : Nat :=
  match a.sz with
  | .q => (List.range 4).foldl (fun n i => n + c.groupWord a.dt i l * 2 ^ (32 * i)) 0
  | .d => (laneOf (c.read .d 0 a.dt) l).toNat
  | _ => (laneOf (c.read .i32 0 a.dt) l).toNat % 2 ^ (8 * szBytes a.sz)

/-- The operand of an atomic in a lane: a word, a pair, or the quad of cas.d (R218). -/
def Ctx.atomData (c : Ctx) (a : MSlot) (l : Nat) : Nat :=
  let n := if a.sz = .d then (if a.sub = 7#3 then 4 else 2) else 1
  (List.range n).foldl (fun x i => x + c.groupWord a.dt i l * 2 ^ (32 * i)) 0

/-- An act scheduled `after` bough cycles from issue. -/
def State.schedule (s : State) (c : Ctx) (after : Nat) (act : ScratchAct) : State :=
  s.onGrove c.b.grove fun g =>
    g.pushAct { bc := c.t + after, cc := c.cc, bnum := c.b.bnum, seq := c.b.seq, pc := c.b.pc, act := act }

/-- Acting lanes with their scratchpad offsets. -/
def Ctx.scratchLanes (c : Ctx) (a : MSlot) : List (Nat × Nat) :=
  (lanesOf (c.actLanes a.pr)).map fun l => (l, (c.laneAddr a l).toNat)

/-- Cells of lanes' values in increasing lane order, so that the highest lane wins a byte (R137). -/
def laneCells (xs : List (Nat × Nat)) (bytes : Nat) (f : Nat → Nat) : List Host.Cell :=
  (xs.map fun x => numCells x.2 bytes (f x.1)).flatten

/-- A memory operation whose fields are `a`. -/
def memExec (i : Instr) (eff : Ctx → State) (s : State) : Host.Outcome State Fault Refusal := s.guarded i eff

/-- Lanes of a global access. -/
def Ctx.globalLanes (c : Ctx) (a : MSlot) (data : Nat → Nat) : List LaneReq :=
  (lanesOf (c.actLanes a.pr)).map fun l => laneReq l (c.laneAddr a l) (szBytes a.sz) (data l)

/-- Lanes of a plain global access, word by word (R136). -/
def Ctx.plainLanes (c : Ctx) (a : MSlot) (data : Nat → Nat) : List LaneReq :=
  ((c.globalLanes a data).map LaneReq.words).flatten

/-- Queue number of a Q bit. -/
def queueOf (a : MSlot) : Nat := if a.q then 1 else 0

/-- An operation under !p0: it does nothing and completes at issue + 2 (R203, R204). -/
def State.idleOp (s : State) (c : Ctx) (a : MSlot) : State :=
  s.issueOp c .pref 2 a.kf.toNat (c.t + 2) [] [] id

/-- Entry index of a beacon operation (06, "Beacon operations"). -/
def Ctx.entryIndex (c : Ctx) (a : MSlot) : Int := (c.b.sreg a.sb.toNat).toNat + c.offset a

/-- A beacon operation whose index is no entry's: it completes with ILLEGAL_STATE and sends nothing. -/
def State.badEntry (s : State) (c : Ctx) (a : MSlot) : State :=
  s.issueOp c (.load 8 false) 2 a.kf.toNat (c.t + 2)
    [{ lane := 0, part := 0, va := BitVec.ofInt 64 (c.entryIndex a), bytes := 8, data := 0, stage := 2, pa := 0, wid := 0, value := 0,
       fault := some (Cause.illegalState.code, 0), flags := 0 }] [] id

/-! ### Scratchpad -/

/-- mnop (R52). -/
def execMnop (s : State) : Host.Outcome State Fault Refusal := s.nothing

/-- lds (R208, R209): read at issue + 1, lm0 from issue + 3. -/
def execLds (a : MSlot) (s : State) : Host.Outcome State Fault Refusal :=
  memExec (.lds a) (fun c => s.schedule c 1
    (.load (szBytes a.sz) (szSigned a.sz) (c.scratchLanes a) (destRegs a.dt (szRegs a.sz)) .memory (c.t + 3))) s

/-- sts (R208, R209): written at issue + 2. -/
def execSts (a : MSlot) (s : State) : Host.Outcome State Fault Refusal :=
  memExec (.sts a) (fun c => s.schedule c 2
    (.store (laneCells (c.scratchLanes a) (szBytes a.sz) (c.storeData a)))) s

/-- ldsu (R210): one element into a scalar register at issue + 4. -/
def execLdsu (a : MSlot) (s : State) : Host.Outcome State Fault Refusal :=
  memExec (.ldsu a) (fun c =>
    if uniformActs a.pr then s.schedule c 1
      (.load (szBytes a.sz) (szSigned a.sz) [(0, (c.uniAddr a).toNat)] [destOf a.dt] .none (c.t + 3))
    else s) s

/-- lda (R211): a scratchpad row into an accumulator row. -/
def execLda (a : MSlot) (s : State) : Host.Outcome State Fault Refusal :=
  memExec (.lda a) (fun c => s.schedule c 1
    (.load 4 false (c.scratchLanes a) [destOf a.dt] .memory (c.t + 3))) s

/-- sta (R211): an accumulator row, as it stands at issue, into the scratchpad at issue + 2. -/
def execSta (a : MSlot) (s : State) : Host.Outcome State Fault Refusal :=
  memExec (.sta a) (fun c => s.schedule c 2
    (.store (laneCells (c.scratchLanes a) 4 fun l => (laneOf (c.read .i32 0 a.dt) l).toNat))) s

/-- atoms (R219, R220): read-modify-write at issue + 3. -/
def execAtoms (a : MSlot) (s : State) : Host.Outcome State Fault Refusal :=
  memExec (.atoms a) (fun c => s.schedule c 3
    (.atomic a.sub.toNat (a.sz == .d) ((c.scratchLanes a).map fun x =>
      (x.1, x.2, BitVec.ofNat 64 (c.atomData a x.1), BitVec.ofNat 64 (c.atomData a x.1 / 2 ^ 64)))
      (destRegs a.dt (szRegs a.sz)))) s

/-! ### The read-only L1 -/

/-- The bytes of a line that the core's L1 holds. -/
def Core.line? (x : Core) (asid line : Nat) : Option (List Byte) :=
  (x.l1.find? fun e => e.asid == asid && e.line == line).map (·.bytes)

/-- The value of an element in a line. -/
def lineValue (bytes : List Byte) (va n : Nat) : Nat := natOfBytes ((bytes.drop (va % 128)).take n)

/-- The replay input decides which lanes of an ldr hit (R434): lines of logged hit lanes are filled before the ldr reads
them. A logged hit whose line cannot be filled cannot be followed (R435). -/
def State.preparePlayHits (s : State) (c : Ctx) (lanes : List LaneReq) : State × Option Mask :=
  if !s.plays c.g.die c.g.launch then (s, none)
  else
    match s.playObserve c 2 with
    | none => (s.diverge c.g.die c.g.launch 0x0C c.b.pc.toNat (c.g.core % 64) (s.boughIds c.key), none)
    | some (i, r) =>
      let m : Mask := BitVec.ofNat 64 (bitsOf r 128 64)
      let wanted := lanes.filter fun x => m.getLsbD x.lane
      let missing := wanted.filter fun x => ((s.core c.g.core).line? c.l.asid (x.va.toNat / 128)).isNone
      let lost := m != maskOf (fun l => wanted.any fun x => x.lane == l) || wanted.any (fun x => x.fault.isSome) ||
        missing.any fun x => (s.xlate c.g.die c.l.asid .read x.va.toNat).toOption.isNone
      if lost then (s.diverge c.g.die c.g.launch 0x0C c.b.pc.toNat (c.g.core % 64) (s.boughIds c.key), none)
      else
        let fill := fun (s : State) (x : LaneReq) =>
          match s.xlate c.g.die c.l.asid .read x.va.toNat with
          | .ok pa => s.fillLine c.g c.g.die c.l.asid x.va.toNat pa
          | .error _ => s
        ((missing.foldl fill s).followed c.g.die i, some m)

/-- The result of a loaded register word by word. -/
def loadWords (n bytes : Nat) (signed : Bool) (x : Nat) : List Word :=
  if n = 1 then [if signed then (BitVec.ofInt 32 (intVal (8 * bytes) true x)) else BitVec.ofNat 32 x]
  else (List.range n).map fun i => BitVec.ofNat 32 (x / 2 ^ (32 * i))

/-- Per-lane values as lanes. -/
def lanesFrom (f : Nat → Word) : Lanes := Vector.ofFn fun l => f l.val

/-- Results of a load into vector registers: the first on the latch path given, the others past it (R79). -/
def loadResults (seq : Nat) (pc : DWord) (path : Path) (dests : List Dest) (bytes : Nat) (signed : Bool) (act : Mask)
    (val : Nat → Nat) (due : Nat) (byFlag : Bool) : List Result :=
  dests.zipIdx.map fun d =>
    { seq := seq, pc := pc, path := if d.2 = 0 then path else .none, latched := byFlag || path == .none || d.2 != 0,
      dest := d.1, act := act,
      vals := lanesFrom fun l => (loadWords dests.length bytes signed (val l)).getD d.2 0,
      sval := if signed then BitVec.ofInt 64 (intVal (8 * bytes) true (val 0)) else BitVec.ofNat 64 (val 0),
      due := due, flags := 0, byFlag := byFlag }

/-- Whether an acquire of .die scope or wider that a bough has issued has yet to complete: what the L1 holds is then not what an
access after it may return (R141, R143). -/
def State.acquiring (s : State) (bough : Nat) : Bool :=
  s.ops.any fun e => e.2.bough == bough &&
    (match e.2.kind with
      | .fence acq _ scope => acq && decide (2 ≤ scope)
      | .bld acq => acq
      | .bbar _ _ => true
      | _ => false)

/-- ldr (R213): hits in lm0 from issue + 6; misses by flag, a misaligned lane among them (assumption 154). -/
def execLdr (a : MSlot) (s : State) : Host.Outcome State Fault Refusal :=
  memExec (.ldr a) (fun c =>
    let lanes := c.globalLanes a fun _ => 0
    let p := s.preparePlayHits c lanes
    let core := p.1.core c.g.core
    let hit (x : LaneReq) : Option (List Byte) :=
      if s.acquiring c.key || (p.2.any fun m => !m.getLsbD x.lane) then none
      else if x.fault.isSome then none
      else core.line? c.l.asid (x.va.toNat / 128)
    let hits := lanes.filterMap fun x => (hit x).map fun b => (x.lane, lineValue b x.va.toNat x.bytes)
    let misses := ((lanes.filter fun x => (hit x).isNone).map LaneReq.words).flatten
    let mask := maskOf fun l => hits.any fun h => h.1 == l
    let rs := loadResults c.b.seq c.b.pc .memory (destRegs a.dt (szRegs a.sz)) (szBytes a.sz) (szSigned a.sz) mask
      (fun l => ((hits.find? fun h => h.1 == l).map (·.2)).getD 0) (c.t + 6) false
    let t := p.1.onBough c.key fun b => rs.foldl Bough.addResult b
    let t := t.logAfter c.key 0x0C 2 (packFields [(mask.toNat, 0, 64), (c.b.pc.toNat, 64, 64)])
    let done := if hits.isEmpty then c.t + 2 else c.t + 7
    t.issueOp c (.load (szBytes a.sz) (szSigned a.sz)) 2 a.kf.toNat done misses (destRegs a.dt (szRegs a.sz))
      fun o => { o with arg0 := if misses.isEmpty then done else c.t + 2 }) s

/-- The L1 of a core drops the lines of an address space (R138). -/
def State.dropL1 (s : State) (core asid : Nat) : State :=
  s.onCore core fun x => { x with l1 := x.l1.filter fun e => e.asid != asid }

/-- l1inv (R214). -/
def execL1inv (a : MSlot) (s : State) : Host.Outcome State Fault Refusal :=
  memExec (.l1inv a) (fun c => if uniformActs a.pr then s.dropL1 c.g.core c.l.asid else s) s

/-! ### Global memory -/

/-- ldg (R215, R216). -/
def execLdg (a : MSlot) (s : State) : Host.Outcome State Fault Refusal :=
  memExec (.ldg a) (fun c =>
    s.issueOp c (.load (szBytes a.sz) (szSigned a.sz)) (queueOf a) a.kf.toNat (c.t + 2) (c.plainLanes a fun _ => 0)
      (destRegs a.dt (szRegs a.sz)) id) s

/-- stg (R215): its data are read at issue. -/
def execStg (a : MSlot) (s : State) : Host.Outcome State Fault Refusal :=
  memExec (.stg a) (fun c =>
    s.issueOp c .store (queueOf a) a.kf.toNat (c.t + 2) (c.plainLanes a (c.storeData a)) [] id) s

/-- ldgu (R215): one element into a scalar register. -/
def execLdgu (a : MSlot) (s : State) : Host.Outcome State Fault Refusal :=
  memExec (.ldgu a) (fun c =>
    if uniformActs a.pr then
      s.issueOp c (.load (szBytes a.sz) (szSigned a.sz)) (queueOf a) a.kf.toNat (c.t + 2)
        (laneReq 0 (c.uniAddr a) (szBytes a.sz) 0).words [destOf a.dt] id
    else s.idleOp c a) s

/-- atomg (R218 to R220). -/
def execAtomg (a : MSlot) (s : State) : Host.Outcome State Fault Refusal :=
  memExec (.atomg a) (fun c =>
    s.issueOp c (.atomg a.sub.toNat (a.sz == .d)) (queueOf a) a.kf.toNat (c.t + 2) (c.globalLanes a (c.atomData a))
      (destRegs a.dt (szRegs a.sz)) id) s

/-- red (R221). -/
def execRed (a : MSlot) (s : State) : Host.Outcome State Fault Refusal :=
  memExec (.red a) (fun c =>
    s.issueOp c (.red a.sub.toNat (a.sz == .d)) (queueOf a) a.kf.toNat (c.t + 2) (c.globalLanes a (c.storeData a)) [] id) s

/-- settle (R222). -/
def execSettle (a : MSlot) (s : State) : Host.Outcome State Fault Refusal :=
  memExec (.settle a) (fun c =>
    s.issueOp c .settle (queueOf a) a.kf.toNat (c.t + 2) (c.globalLanes a fun _ => 0) [] id) s

/-- pref (R229): it never faults. -/
def execPref (a : MSlot) (s : State) : Host.Outcome State Fault Refusal :=
  memExec (.pref a) (fun c =>
    s.issueOp c .pref (queueOf a) a.kf.toNat (c.t + 2)
      ((c.globalLanes a fun _ => 0).map fun x => { x with stage := 0, fault := none }) [] id) s

/-! ### Fences (R225) -/

/-- A fence of a kind. -/
def State.issueFence (s : State) (c : Ctx) (a : MSlot) (acquire release : Bool) : State :=
  if uniformActs a.pr then
    (s.issueOp c (.fence acquire release a.sub.toNat) 2 a.kf.toNat (c.t + 2) [] [] id)
  else s.idleOp c a

/-- fence.acq (R141). -/
def execFenceAcq (a : MSlot) (s : State) : Host.Outcome State Fault Refusal :=
  memExec (.fenceAcq a) (fun c => s.issueFence c a true false) s

/-- fence.rel (R140). -/
def execFenceRel (a : MSlot) (s : State) : Host.Outcome State Fault Refusal :=
  memExec (.fenceRel a) (fun c => s.issueFence c a false true) s

/-- fence.full. -/
def execFenceFull (a : MSlot) (s : State) : Host.Outcome State Fault Refusal :=
  memExec (.fenceFull a) (fun c => s.issueFence c a true true) s

/-! ### Beacon operations (R226 to R228) -/

/-- Whether an index is an entry's. -/
def entryOk (e : Int) : Bool := decide (0 ≤ e) && decide (e < 4096)

/-- bpub (R226). -/
def execBpub (a : MSlot) (s : State) : Host.Outcome State Fault Refusal :=
  memExec (.bpub a) (fun c =>
    if !uniformActs a.pr then s.idleOp c a
    else if !entryOk (c.entryIndex a) then s.badEntry c a
    else s.issueOp c (.bpub a.sub.toNat) 2 a.kf.toNat (c.t + 2) [] []
      fun o => { o with arg0 := (c.entryIndex a).toNat, arg1 := c.readUni .d 0 a.dt }) s

/-- bld (R227). -/
def execBld (a : MSlot) (s : State) : Host.Outcome State Fault Refusal :=
  memExec (.bld a) (fun c =>
    if !uniformActs a.pr then s.idleOp c a
    else if !entryOk (c.entryIndex a) then s.badEntry c a
    else s.issueOp c (.bld (a.sub = 1#3)) 2 a.kf.toNat (c.t + 2) [] [destOf a.dt]
      fun o => { o with arg0 := (c.entryIndex a).toNat }) s

/-- bseq (R228). -/
def execBseq (a : MSlot) (s : State) : Host.Outcome State Fault Refusal :=
  memExec (.bseq a) (fun c =>
    if uniformActs a.pr then s.issueOp c .bseq 2 a.kf.toNat (c.t + 2) [] [destOf a.dt] id else s.idleOp c a) s

/-! ### Function tables (R230 to R232) -/

/-- The image of a segment (Table 6.7). -/
def segmentCells (at_ : Nat) (x : Segment) : List Host.Cell :=
  numCells at_ 4 x.bp.toNat ++ numCells (at_ + 4) 4 x.c0.toNat ++ numCells (at_ + 8) 4 x.c1.toNat ++
    numCells (at_ + 12) 4 x.c2.toNat ++ numCells (at_ + 16) 4 x.c3.toNat

/-- ppld (R231): read at issue + 1, in force for a ppev issued at issue + 4. -/
def execPpld (a : MSlot) (s : State) : Host.Outcome State Fault Refusal :=
  memExec (.ppld a) (fun c =>
    if uniformActs a.pr then s.schedule c 1
      (.loadTable (a.sub.toNat % 4) (c.segCount a) (((c.b.sreg a.sb.toNat).toNat + c.offset a).toNat))
    else s) s

/-- ppsv (R232): the table as it stands at issue, written at issue + 2. -/
def execPpsv (a : MSlot) (s : State) : Host.Outcome State Fault Refusal :=
  memExec (.ppsv a) (fun c =>
    if uniformActs a.pr then
      let at_ := ((c.b.sreg a.sb.toNat).toNat + c.offset a).toNat
      s.schedule c 2 (.store (((c.g.tables.toArray.getD (a.sub.toNat % 4) []).zipIdx.map fun x =>
        segmentCells (at_ + 20 * x.2) x.1).flatten))
    else s) s

end Sys2Proof.Machine
end

