-- ==== Sys2Proof/Machine/Writeback.lean ====
section
/-!
DEFINITION. RESULT_WRITEBACK: results reach latches, predicates and channels in their due bough cycle and registers in
the one after (R26, R77 to R82, R117, R166, R197, R216, R259, R279).
-/
namespace Sys2Proof.Machine

/-- Whether a result is a channel's word (R279). -/
def Result.isWord (r : Result) : Bool := match r.dest with | .chan _ => true | _ => false

/-- Whether a word has entered its latch and waits for words of writes that issued before it (R381). -/
def Result.waits (r : Result) : Bool := r.isWord && r.latched

/-- Whether a result has something to do at the start of bough cycle `n`. -/
def Result.owes (n : Nat) (r : Result) : Bool :=
  (decide (r.due < n) && (!r.waits || r.flags != 0)) || (!r.latched && decide (r.due ≤ n))

/-- Whether a bough's results land: those of a pre-empted bough wait for its first grant after resumption (R201). -/
def Bough.lands (b : Bough) : Bool :=
  b.resumeFrom.isNone && (match b.status with | .stopped _ => false | _ => true)

/-- A completion's result that reaches a bough stopped before the bough cycle `n` (R217). -/
def Result.delivered (n : Nat) (r : Result) : Bool := r.byFlag && decide (n ≤ r.due)

/-- Whether a bough owes a writeback. -/
def Bough.owesWriteback (b : Bough) (n : Nat) : Bool := b.lands && b.results.any (Result.owes n)

/-- A result written into its register: per-lane values in the lanes it acts in. -/
def landRegister (p : Bough × Grove) (r : Result) : Bough × Grove :=
  match r.dest with
  | .vreg n => (p.1.setV n (mergeLanes r.act r.vals (p.1.vreg n)), p.2)
  | .oreg n => (p.1.setO n (mergeLanes r.act r.vals (p.1.oreg n)), p.2)
  | .row n => (p.1, { p.2 with tiles := tput p.2.tiles n (mergeLanes r.act r.vals (p.2.row n)) })
  | .scalar n => (p.1.setS n r.sval, p.2)
  | .stepped n => (p.1.setS n (p.1.sreg n + r.sval), p.2)
  | _ => p

/-- Whether a result is an address step, which lands on top of any other write (R166). -/
def Result.isStep (r : Result) : Bool := match r.dest with | .stepped _ => true | _ => false

/-- Results in landing order: completions, then fixed-latency results in issue order (R80, R216), then steps. -/
def landingOrder (rs : List Result) : List Result :=
  (rs.filter fun r => r.byFlag && !r.isStep) ++ (rs.filter fun r => !r.byFlag && !r.isStep) ++ rs.filter Result.isStep

/-- A csrw lands (R197). -/
def landCreg (b : Bough) (r : Result) : Bough :=
  match r.dest with
  | .creg n => b.setCreg n r.sval
  | _ => b

/-- Results due before bough cycle `n` land: registers, then the flags of R117, then control registers on top. -/
def landAll (p : Bough × Grove) (rs : List Result) : Bough × Grove :=
  let q := (landingOrder rs).foldl landRegister p
  (rs.foldl landCreg { q.1 with fflags := q.1.fflags ||| orFlags (rs.map (·.flags)) }, q.2)

/-- A predicate result enters its predicate in its due cycle (R81): the lanes it acts in. -/
def landPred (b : Bough) (r : Result) : Bough :=
  match r.dest with
  | .pred n =>
    b.setP n (maskOf fun l => if r.act.getLsbD l then (r.vals.toArray.getD l 0).getLsbD 0 else (b.pred n).getLsbD l)
  | _ => b

/-- What a latch receives (R79, R259): the value, and in nullified lanes what the destination then holds, a predicate's too
(assumption 120). -/
def latchValue (b : Bough) (g : Grove) (r : Result) : Lanes :=
  match r.dest with
  | .vreg n => mergeLanes r.act r.vals (b.vreg n)
  | .oreg n => mergeLanes r.act r.vals (b.oreg n)
  | .row n => mergeLanes r.act r.vals (g.row n)
  | .pred n => Vector.ofFn fun l => if (b.pred n).getLsbD l.val then 1 else 0
  | _ => mergeLanes r.act r.vals zeroLanes

/-- The latches once the results due in one cycle, in issue order, have entered them (R78). -/
def latchAll (b : Bough) (g : Grove) (rs : List Result) : Bough :=
  let vs := ((rs.filter fun r => r.path == .vector).map (latchValue b g)).reverse
  let ms := ((rs.filter fun r => r.path == .memory).map (latchValue b g)).reverse
  let fs := ((rs.filter fun r => r.path == .function).map (latchValue b g)).reverse
  let b := match vs with
    | [] => b
    | [x] => { b with lv1 := b.lv0, lv0 := x }
    | x :: y :: _ => { b with lv0 := x, lv1 := y }
  { b with lm0 := ms.headD b.lm0, lf0 := fs.headD b.lf0 }

/-- An enabled flag raised by results due in one cycle: a pending FP_EXCEPTION that names the earliest-issued (R117). -/
def raisePend (b : Bough) (fpen : Flags) (rs : List Result) : Bough :=
  match rs.find? fun r => enabledRaised fpen r.flags with
  | none => b
  | some r =>
    { b with pend := b.pend ++ [{ rank := 0, cause := Cause.fpException.code, tval := r.pc, frec := 0, seq := r.seq,
                                  from_ := r.due }] }

/-- The words of a grove's boughs that have yet to go to a channel: each with its bough and its place among that bough's results. -/
def State.wordsOf (s : State) (key n : Nat) : List (Nat × Nat × Result) :=
  (((List.range 16).filterMap fun i => (s.bough? (boughKey key i)).map fun b =>
    (b.results.zipIdx.filter fun x => x.1.dest == .chan n).map fun x => (boughKey key i, x.2, x.1))).flatten

/-- The word that goes next to a channel: it has reached its due cycle, and no word of a write that issued before it is still to
go (R381). -/
def State.nextWord (s : State) (key n : Nat) : Option (Nat × Result) :=
  let xs := s.wordsOf key n
  (xs.find? fun x => x.2.2.latched && !xs.any fun y => decide (y.2.2.cc < x.2.2.cc) || (y.1 == x.1 && decide (y.2.1 < x.2.1))).map
    fun x => (x.1, x.2.2)

/-- The first word for a channel among a bough's results has gone. -/
def wentWord (n : Nat) : List Result → List Result
  | [] => []
  | r :: rs => if r.dest == .chan n then { r with dest := .none } :: rs else r :: wentWord n rs

/-- The words of a grove that may go to a channel take their places one after another (R279, R381). -/
def State.sendWords (key n : Nat) : Nat → State → State
  | 0, s => s
  | fuel + 1, s =>
    match s.nextWord key n, s.grove? key with
    | some (k, r), some g =>
      State.sendWords key n fuel
        ((s.onBough k fun b => { b with results := wentWord n b.results }).sendWord g n (mergeLanes r.act r.vals zeroLanes))
    | _, _ => s

/-- Every word of a grove that may go. -/
def State.sendReady (s : State) (key : Nat) : State :=
  (List.range 8).foldl (fun t n => State.sendWords key n (t.wordsOf key n).length t) s

/-- The results of a bough at the start of the bough cycle. -/
def State.writeback (s : State) (k : Nat) : State :=
  match s.bough? k with
  | none => s
  | some b =>
    match s.grove? b.grove with
    | none => s
    | some g =>
      if !b.lands then s
      else
        let n := s.bc
        let past := b.results.filter fun r => decide (r.due < n)
        let now := b.results.filter fun r => !r.latched && decide (r.due ≤ n)
        let q := landAll ({ b with results := (b.results.filter fun r => !decide (r.due < n) || r.isWord).map fun r =>
          { r with latched := r.latched || decide (r.due ≤ n), flags := if decide (r.due < n) then 0 else r.flags } }, g) past
        let fpen := ((s.launchOf g).map (·.fpen)).getD 0
        let b1 := raisePend (latchAll (now.foldl landPred q.1) q.2 now) fpen now
        let t := (s.onBough k fun _ => b1).onGrove b.grove fun _ => q.2
        if now.any Result.isWord then t.sendReady b.grove else t

/-- RESULT_WRITEBACK (R26). -/
def execResultWriteback (b : Nat) (s : State) : Host.Outcome State Fault Refusal := .next (s.writeback b)

end Sys2Proof.Machine
end

