-- ==== Sys2Proof/Machine/Acts.lean ====
section
/-!
DEFINITION. The end of a bough cycle on a core: scratchpad reads before writes (R83, R129), atomics (R130), soft errors
(R212), arrivals (R178), tables (R231), deferral batches (R185); then counting flags (R40), and the boughs whose waits
end (R44).
-/
namespace Sys2Proof.Machine

/-! ### Scratchpad cells -/

/-- Words that cells written together cover whole. -/
def coveredWords (cells : List Host.Cell) : List Nat :=
  ((cells.map fun c => c.1 / 4).eraseDups).filter fun w =>
    (List.range 4).all fun i => cells.any fun c => c.1 == 4 * w + i

/-- Cells of a partition written at once: a word covered whole can be read again (R212). -/
def Grove.scratchWrite (g : Grove) (cells : List Host.Cell) : Grove :=
  { g with scratch := writeCells g.scratch cells,
           scratchBad := if g.scratchBad.isEmpty then [] else g.scratchBad.filter fun w => !(coveredWords cells).contains w }

/-- Whether bytes of a partition touch a word that holds a soft error. -/
def Grove.badBytes (g : Grove) (a n : Nat) : Bool := g.scratchBad.any fun w => decide (a < 4 * w + 4) && decide (4 * w < a + n)

/-! ### One act -/

/-- A pending UNCORRECTABLE that names the reading bundle, before the first bundle at or after `from_` (R212). -/
def badPend (a : Timed) (from_ : Nat) : PendTrap :=
  { rank := 1, cause := Cause.uncorrectable.code, tval := a.pc, frec := 0, seq := a.seq, from_ := from_ }

/-- A trap that is to land on a bough. -/
def State.addPend (s : State) (k : Nat) (p : PendTrap) : State := s.onBough k fun b => { b with pend := b.pend ++ [p] }

/-- A load's lanes read: its results enter the bough (R208 to R211). -/
def State.actLoad (s : State) (key : Nat) (g : Grove) (a : Timed) (bytes : Nat) (signed : Bool) (offs : List (Nat × Nat))
    (dests : List Dest) (path : Path) (due : Nat) : State :=
  let k := boughKey key a.bnum
  let good := offs.filter fun x => !g.badBytes x.2 bytes
  let act := maskOf fun l => good.any fun x => x.1 == l
  let val (l : Nat) : Nat := ((good.find? fun x => x.1 == l).map fun x => readNum g.scratch x.2 bytes).getD 0
  let rs := loadResults a.seq a.pc path dests bytes signed act val due false
  let uniform := dests.any fun d => match d with | .scalar _ => true | _ => false
  let s := if uniform && good.isEmpty then s else s.onBough k fun b => rs.foldl Bough.addResult b
  if good.length = offs.length then s else s.addPend k (badPend a due)

/-- A segment as a partition holds it (Table 6.7). -/
def segmentAt (m : Memory) (a : Nat) : Segment :=
  let w (i : Nat) : Word := BitVec.ofNat 32 (readNum m (a + 4 * i) 4)
  { bp := w 0, c0 := w 1, c1 := w 2, c2 := w 3, c3 := w 4 }

/-- A table image read (R231): the table takes it two bough cycles later. -/
def State.actLoadTable (s : State) (key : Nat) (g : Grove) (a : Timed) (tb n addr : Nat) : State :=
  if g.badBytes addr (20 * n) then s.addPend (boughKey key a.bnum) (badPend a (a.bc + 2))
  else s.onGrove key fun g => g.pushAct
    { a with bc := a.bc + 2, act := .setTable tb ((List.range n).map fun i => segmentAt g.scratch (addr + 20 * i)) }

/-- The registers of deferred spans restored (R185): span j takes the block at the j-th address, as it is stored (assumption 127), and
before what is due in the next bough cycle (assumption 125). -/
def restoreSpans (b : Bough) (m : Memory) (allot : Nat) (spans : List (Nat × Nat × Nat × Nat)) : Bough :=
  spans.zipIdx.foldl (fun b x =>
    let w := x.1.2.1
    (maskRegs x.1.2.2.1 x.1.2.2.2).zipIdx.foldl (fun b r =>
      if r.1 < allot then
        b.setV r.1 (Vector.ofFn fun l =>
          if l.val / w = x.2 then BitVec.ofNat 32 (readNum m (x.1.1 + 64 * (l.val % w) + 4 * r.2) 4)
          else (b.vreg r.1).get l)
      else b) b) b

/-- The reads of a bough cycle. -/
def State.actRead (s : State) (key : Nat) (a : Timed) : State :=
  match s.grove? key with
  | none => s
  | some g =>
    match a.act with
    | .load bytes signed offs dests path due => s.actLoad key g a bytes signed offs dests path due
    | .loadTable tb n addr => s.actLoadTable key g a tb n addr
    | .restore spans =>
      let allot := ((s.launchOf g).map (·.allot)).getD 128
      s.onBough (boughKey key a.bnum) fun b => restoreSpans b g.scratch allot spans
    | _ => s

/-- One lane of an atoms (R219, R220): its old value and flags, unless the word cannot be read. -/
def atomLane (g : Grove) (sub : Nat) (wide : Bool) (x : Nat × Nat × DWord × DWord) : Option (Nat × Nat × Flags) :=
  let n := if wide then 8 else 4
  if g.badBytes x.2.1 n then none
  else
    let m := readNum g.scratch x.2.1 n
    let y := atomNew (atomOf sub wide) (8 * n) m (x.2.2.1.toNat + x.2.2.2.toNat * 2 ^ 64)
    some (m, y.1, y.2)

/-- An atoms takes effect: lanes in increasing order, each seeing the one before (R130, R219). -/
def State.actAtomic (s : State) (key : Nat) (a : Timed) (sub : Nat) (wide : Bool)
    (lanes : List (Nat × Nat × DWord × DWord)) (dests : List Dest) : State :=
  match s.grove? key with
  | none => s
  | some g =>
    let n := if wide then 8 else 4
    let k := boughKey key a.bnum
    let r := lanes.foldl (fun (p : Grove × List (Nat × Nat) × Flags) x =>
      match atomLane p.1 sub wide x with
      | none => p
      | some y => (p.1.scratchWrite (numCells x.2.1 n y.2.1), p.2.1 ++ [(x.1, y.1)], p.2.2 ||| y.2.2)) (g, [], 0)
    let act := maskOf fun l => r.2.1.any fun x => x.1 == l
    let rs := (loadResults a.seq a.pc .memory dests n false act
      (fun l => ((r.2.1.find? fun x => x.1 == l).map (·.2)).getD 0) (a.bc + 1) false).zipIdx.map fun x =>
        if x.2 = 0 then { x.1 with flags := r.2.2 } else x.1
    let t := (s.onGrove key fun _ => r.1).onBough k fun b => rs.foldl Bough.addResult b
    if r.2.1.length = lanes.length then t else t.addPend k (badPend a (a.bc + 1))

/-- An arrival takes effect (R178): the barrier and the bough's part. -/
def State.actArrive (s : State) (key : Nat) (a : Timed) (bar n : Nat) : State :=
  match s.grove? key with
  | none => s
  | some g =>
    let x := g.barrier bar
    let x := if x.a = 0 then { x with n := n } else x
    let y := if x.a + 1 = x.n then { x with a := 0, g := x.g + 1 } else { x with a := x.a + 1 }
    (s.onGrove key fun g => { g with bars := vmod g.bars bar fun _ => y }).onBough (boughKey key a.bnum) fun b =>
      { b with bars := vmod b.bars bar fun _ => { armed := true, gen := x.g, coming := false } }

/-- The writes of a bough cycle. -/
def State.actWrite (s : State) (key : Nat) (a : Timed) : State :=
  match a.act with
  | .store cells => s.onGrove key fun g => g.scratchWrite cells
  | .atomic sub wide lanes dests => s.actAtomic key a sub wide lanes dests
  | .setTable tb segs => s.onGrove key fun g => { g with tables := vmod g.tables tb fun _ => segs }
  | .arrive bar n => s.actArrive key a bar n
  | _ => s

/-- Acts in the order of their issue core cycles. -/
def byIssue (xs : List Timed) : List Timed :=
  xs.foldl (fun acc a => (acc.filter fun x => decide (x.cc ≤ a.cc)) ++ [a] ++ acc.filter fun x => !decide (x.cc ≤ a.cc)) []

/-- The acts of a grove in this bough cycle: every read before every write (R83, R129). -/
def State.runActs (s : State) (key : Nat) : State :=
  match s.grove? key with
  | none => s
  | some g =>
    let due := byIssue (g.pipe.filter fun a => decide (a.bc ≤ s.bc))
    if due.isEmpty then s
    else
      let t := s.onGrove key fun g => { g with pipe := g.pipe.filter fun a => !decide (a.bc ≤ s.bc) }
      let t := due.foldl (fun t a => t.actRead key a) t
      due.foldl (fun t a => t.actWrite key a) t

/-! ### Waits that end -/

/-- Whether a bough's wait is over, seen from bough cycle `n` (R38, R44, R179, R354). -/
def State.waitOver (s : State) (k : Nat) (g : Grove) (b : Bough) (w : WaitOn) (n : Nat) : Bool :=
  match w with
  | .flag f x => flagSatisfied (g.flag f).count x
  | .either fa na fb nb => flagSatisfied (g.flag fa).count na || flagSatisfied (g.flag fb).count nb
  | .barrier x => (b.bar x).armed && (g.barrier x).g != (b.bar x).gen
  | .items => !g.reqOut || !g.held.isEmpty
  | .cycle c => decide (c ≤ n)
  | .views => (s.bough? k).isSome

/-- A bough becomes eligible (R44). -/
def Bough.wake (b : Bough) (cc : Nat) : Bough := { b with status := .ready, eligSince := cc }

/-- Boughs of a grove whose waits are over become eligible from the bough cycle `n`. -/
def State.wakeGrove (s : State) (key n : Nat) : State :=
  match s.grove? key with
  | none => s
  | some g =>
    (List.range 16).foldl (fun s i =>
      match s.bough? (boughKey key i) with
      | none => s
      | some b =>
        match b.status with
        | .waiting w => if s.waitOver (boughKey key i) g b w n then s.onBough (boughKey key i) fun b => b.wake (4 * n) else s
        | _ => s) s

/-- Whether the clocks of a core run (R446, R471). -/
def State.clocked (s : State) (core : Nat) : Bool :=
  (s.module (moduleOf (dieOf core))).clocked

/-- What completions have brought a stopped bough in this bough cycle is applied to it (R217), the value of the later-issued
operation last (R216). -/
def State.landDelivered (s : State) (k : Nat) : State :=
  match s.bough? k with
  | none => s
  | some b =>
    match b.status, s.grove? b.grove with
    | .stopped n, some g =>
      let q := (b.results.filter (Result.delivered n)).foldl landRegister
        ({ b with results := b.results.filter fun r => !Result.delivered n r }, g)
      (s.onBough k fun _ => q.1).onGrove b.grove fun _ => q.2
    | _, _ => s

/-- The completions of a grove's stopped boughs. -/
def State.landGrove (s : State) (key : Nat) : State :=
  (List.range 16).foldl (fun t i => t.landDelivered (boughKey key i)) s

/-- The end of a bough cycle for one grove. -/
def State.endCycleGrove (s : State) (key : Nat) : State :=
  match s.grove? key with
  | none => s
  | some g =>
    if s.clocked g.core then (((s.runActs key).settleFlags key).landGrove key).wakeGrove key (s.bc + 1) else s

/-- The end of a bough cycle; the reorders that the dies have found in it are recorded (R134). -/
def State.endCycle (s : State) : State := ((s.groves.map (·.1)).foldl State.endCycleGrove s).logAllReorders

end Sys2Proof.Machine
end

