-- ==== Sys2Proof/Machine/Fetch.lean ====
section
/-!
DEFINITION. Fetching a bundle (R126, R162), and what a bundle at hand asks of its bough: channel and tile holds (Table
1.3), requests to the compatibility unit (R461).
-/
namespace Sys2Proof.Machine

/-- The bits of the bundle at a virtual address as a die fetches it (R126): a refused translation and a poisoned line
fault. -/
def State.bundleBits (s : State) (d asid : Nat) (pc : DWord) : Except XFault (BitVec 256) :=
  match s.xlate d asid .fetch pc.toNat with
  | .error f => .error f
  | .ok pa =>
    if s.poisoned pa then .error (lineFault .uncorrectable pa)
    else .ok (BitVec.ofNat 256 (s.viewNum d pa 32))

/-- The copy of a bundle that a bough fetched before and that nothing has invalidated since (R198). -/
def State.copyHeld (s : State) (core k asid : Nat) (pc : DWord) : Option (BitVec 256) :=
  ((s.core core).fetched.find? fun e => e.bough == k && e.asid == asid && e.va == pc.toNat).map (·.word)

/-- A bundle whose 8-byte words come from one or the other of two (R455). -/
def mixWords (first : Nat → Bool) (a b : BitVec 256) : BitVec 256 :=
  BitVec.ofNat 256 (natOfBytes (((List.range 4).map fun i =>
    bytesOfNat 8 (bitsOf (if first i then a else b).toNat (64 * i) 64)).flatten))

/-- The bundle that a bough fetches: word by word memory as its die sees it, or a copy fetched before, which icinv has not
invalidated (R198, R455, assumption 26). A bundle under stretch is in its fetch buffer and is not fetched again. -/
def State.fetchBits (s : State) (k : Nat) (g : Grove) (l : Launch) (pc : DWord) : Except XFault (BitVec 256) :=
  match s.copyHeld g.core k l.asid pc, (s.bough? k).any fun b => b.stretchEnd.isSome with
  | some old, true => .ok old
  | some old, false =>
    (match s.bundleBits g.die l.asid pc with
      | .ok w => .ok (mixWords (Config.servesFetched k s.cc) old w)
      | .error f => .error f)
  | none, _ => s.bundleBits g.die l.asid pc

/-- The bough's fetch buffer holds what it has fetched. -/
def State.keepFetched (s : State) (k : Nat) (g : Grove) (l : Launch) (pc : DWord) (w : BitVec 256) : State :=
  s.onCore g.core fun c =>
    { c with fetched := { bough := k, asid := l.asid, va := pc.toNat, word := w } ::
        c.fetched.filter fun e => !(e.bough == k && e.asid == l.asid && e.va == pc.toNat) }

/-- The bundle that a bough presents. -/
def State.bundleOf (s : State) (k : Nat) : Except XFault Bundle :=
  match s.bough? k with
  | none => .error (xfault .pageFault)
  | some b =>
    match s.grove? b.grove with
    | none => .error (xfault .pageFault)
    | some g =>
      match s.launchOf g with
      | none => .error (xfault .pageFault)
      | some l =>
        match s.fetchBits k g l b.pc with
        | .ok w => .ok (decodeBundle w)
        | .error f => .error f

/-- A bundle with its context, as it issues. -/
def State.begin (s : State) (k : Nat) (bd : Bundle) : State :=
  let x := ximmOf bd
  { s with cur := { Issue.idle with bough := k, bundle := bd, vx := x.1, mx := x.2.1, hasXimm := x.2.2 } }

/-- A bundle asks the compatibility unit (R461). -/
def asksCompat (bd : Bundle) : Bool := (bundleOps bd).any isRetired

/-- The compatibility unit of a die does not serve: disabled, or with an error in its own state (R462). -/
def State.compatFault (s : State) (d : Nat) : Bool := (s.module (moduleOf d)).compDis.getLsbD (d % 32) || Config.compatError d s.cc

/-- A named channel that is read has no word to read yet (Table 1.3). -/
def Ctx.readHolds (c : Ctx) (ops : List Instr) : Bool :=
  ops.any fun i => (c.chanReads i).any fun n =>
    ((c.g.endpoint n).map fun e => match e.words with
      | [] => true
      | w :: _ => decide (c.t ≤ w.1)).getD false

/-- A named channel that is written has no credit to take yet. -/
def Ctx.writeHolds (c : Ctx) (ops : List Instr) : Bool :=
  ops.any fun i => match chanWrite i with
    | some n => ((c.g.endpoint n).map fun e => e.credits.all fun u => decide (c.t ≤ u)).getD false
    | none => false

/-- A named tile is the target of a queued or running matrix operation, or its last one finishes in this bough cycle
(R332). -/
def State.tileHolds (s : State) (c : Ctx) (ops : List Instr) : Bool :=
  let ts := (ops.map tilesTouched).flatten
  let x := s.core c.g.core
  !ts.isEmpty && ((x.mq.any fun m => groveOf m.bough == c.b.grove && ts.contains m.tile) ||
    ts.any fun t => (tget x.finished (4 * c.b.grove + t)).any fun f => decide (c.t ≤ f))

end Sys2Proof.Machine
end

