-- ==== Sys2Proof/Machine/Grant.lean ====
section
/-!
DEFINITION. The events of a core's phases: PHASE_GRANT, PRIORITY_AGING, WATCHDOG, COMPAT_ACCEPT (R42 to R45, R201, R357,
R358, R434, R461).
-/
namespace Sys2Proof.Machine

/-! ### Eligibility (R44, R135, R406) -/

/-- Frames a die has applied. -/
def Die.framesApplied (x : Die) : Nat := x.wraps * 2 ^ 32 + x.lastSeq.toNat

/-- A resumed bough's die has applied the writes and frames that its image counts, or finds them at their homes (R135, R406). -/
def State.viewsReady (s : State) (b : Bough) (d : Nat) : Bool :=
  clockCovers (s.die d).clock b.needClock && decide (b.needFrame ≤ (s.die d).framesApplied) &&
    b.needWrites.all fun id => ((tget s.writes id).map fun w => w.order != 0 && !w.todo.contains d).getD true

/-- Whether a bough is eligible (R44). -/
def State.eligible (s : State) (b : Bough) (g : Grove) : Bool :=
  b.status == .ready && b.phase.isNone && g.life == .placed && !b.stopAsked && b.dbgCause == 0 && s.viewsReady b g.die

/-- The boughs on a core, with their groves. -/
def State.coreBoughs (s : State) (core : Nat) : List (Nat × Bough × Grove) :=
  s.boughs.filterMap fun e =>
    match s.grove? e.2.grove with
    | some g => if g.core = core && (g.life == .placed || g.life == .stopping) then some (e.1, e.2, g) else none
    | none => none

/-- Whether a phase of a core is free (R24). -/
def State.phaseFree (s : State) (core f : Nat) : Bool := !(s.coreBoughs core).any fun x => x.2.1.phase == some f

/-- Priority with the levels added by aging (R43). -/
def Bough.standing (b : Bough) : Nat := min 3 (b.prio + b.raised)

/-- Whether one eligible bough goes before another: higher priority, then longer eligible (R43). -/
def Bough.before (a b : Bough) : Bool := decide (b.standing < a.standing) || (a.standing == b.standing && decide (a.eligSince < b.eligSince))

/-- Whether a bough's launch follows the replay input, whose next GRANT of the core is another bough's (R434). -/
def State.grantWaits (s : State) (k : Nat) (g : Grove) : Bool :=
  s.plays g.die g.launch &&
    (match s.nextPlay g.die fun r => recType r == 0x01 && bitsOf r 106 6 == g.core % 64 with
      | some (_, r) => !recOf r (s.boughIds k)
      | none => false)

/-- The bough that a free phase is granted to; among equals the first of the table of boughs (assumption 121). -/
def State.nextGrant (s : State) (core : Nat) : Option (Nat × Bough × Grove) :=
  let xs := (s.coreBoughs core).filter fun x => s.eligible x.2.1 x.2.2 && !s.grantWaits x.1 x.2.2
  match xs with
  | [] => none
  | x :: rest => some (rest.foldl (fun best y => if y.2.1.before best.2.1 then y else best) x)

/-- The bough cycle in which a bough granted phase `f` now could first issue. -/
def State.firstSlot (s : State) (f : Nat) : Nat := if s.cc % 4 ≤ f then s.bc else s.bc + 1

/-- A grant's effect on its bough; results of a resumed bough move with it (R201). -/
def Bough.granted (b : Bough) (f g cc : Nat) : Bough :=
  let b := { b with phase := some f, grantCc := cc, raised := 0, grants := b.grants + 1 }
  match b.resumeFrom with
  | none => b
  | some r =>
    { b with resumeFrom := none, earliest := g, held := 0, needClock := [], needFrame := 0, needWrites := [],
             results := b.results.map fun x => { x with due := x.due + g - r },
             pend := b.pend.map fun x => { x with from_ := if x.from_ = 0 then 0 else x.from_ + g - r } }

/-- The GRANT record (R428): a bough event unless the bough is in its trap handler; a refused one traps LOG_FULL before
the first bundle of the grant (R431, R432). -/
def State.logGrant (s : State) (k f g : Nat) : State :=
  match s.bough? k with
  | none => s
  | some b =>
    let r := s.logBough k 0x01 0 (packFields [(g, 0, 64), (f, 64, 2)]) (if b.tstatIn then .other else .bough)
    if r.2 then r.1.addPend k { rank := 3, cause := Cause.logFull.code, tval := 0, frec := 0, seq := b.seq, from_ := 0 }
    else r.1

/-- A GRANT of the input has been followed; an input without one can be followed no longer (R434, R435). -/
def State.followGrant (s : State) (k : Nat) (g : Grove) : State :=
  if !s.plays g.die g.launch then s
  else
    match s.nextPlay g.die fun r => recType r == 0x01 && bitsOf r 106 6 == g.core % 64 with
    | some (i, _) => s.followed g.die i
    | none => s.diverge g.die g.launch 0x01 (((s.bough? k).map (·.pc.toNat)).getD 0) (g.core % 64) (s.boughIds k)

/-- PHASE_GRANT (R43): a free phase goes to the eligible bough that stands first. -/
def execPhaseGrant (core phase : Nat) (s : State) : Host.Outcome State Fault Refusal :=
  if !s.clocked core || !s.phaseFree core phase || 4 ≤ phase then .next s
  else
    match s.nextGrant core with
    | none => .next s
    | some (k, _, g) =>
      let at_ := s.firstSlot phase
      .next (((s.followGrant k g).onBough k fun b => b.granted phase at_ s.cc).logGrant k phase at_)

/-- PRIORITY_AGING (R43): one level more for each 2^20 cc without a grant. -/
def execPriorityAging (b : Nat) (s : State) : Host.Outcome State Fault Refusal :=
  .next (s.onBough b fun x => if x.standing < 3 then { x with raised := x.raised + 1 } else x)

/-- Whether a bough's next level of aging is due. -/
def State.agingDue (s : State) (b : Bough) (g : Grove) : Bool :=
  s.eligible b g && decide (b.standing < 3) && decide (b.eligSince + (b.raised + 1) * 2 ^ 20 ≤ s.cc)

/-- Whether the watchdog limit of a bough's grant is reached (R45, R357). -/
def State.watchdogDue (s : State) (b : Bough) (l : Launch) : Bool := b.phase.isSome && decide (b.grantCc + l.wdog ≤ s.cc)

/-! ### The compatibility unit (R461) -/

/-- The bough cycle that a bough's grant counts from. -/
def Bough.grantBc (b : Bough) : Nat := if b.grantCc % 4 ≤ b.phase.getD 0 then b.grantCc / 4 else b.grantCc / 4 + 1

/-- Whether a pending trap goes before another (R194, step 1). -/
def PendTrap.before (a b : PendTrap) : Bool := decide (a.rank < b.rank) || (a.rank == b.rank && decide (a.seq < b.seq))

/-- The first of the traps that land before the bundle (R194, step 1). -/
def Bough.pendNow (b : Bough) (t : Nat) : Option PendTrap :=
  match b.pend.filter fun p => decide (p.from_ ≤ t) with
  | [] => none
  | p :: rest => some (rest.foldl (fun best q => if q.before best then q else best) p)

/-- Whether an open-ended stretch of Table 1.3 other than the unit's own holds a bundle: one that would not otherwise issue presents no
request (R461). -/
def State.openHolds (s : State) (c : Ctx) (ops : List Instr) : Bool := c.readHolds ops || c.writeHolds ops || s.tileHolds c ops

/-- Whether a bough presents a request to its die's unit in this bough cycle (R194, R461): it holds a phase whose slot comes after
its grant, no trap, debug stop or watchdog comes first, its bundle holds a retired operation, its finite stretch is over, and nothing
else holds it. -/
def State.presentsCompat (s : State) (k : Nat) (b : Bough) (g : Grove) : Bool :=
  b.phase.isSome && decide (b.earliest ≤ s.bc) && decide (b.grantBc ≤ s.bc) && b.compatAt.isNone && (b.pendNow s.bc).isNone &&
    s.clocked g.core && !s.compatFault g.die &&
    (match s.bundleOf k, s.launchOf g with
      | .error _, _ | _, none => false
      | .ok bd, some l =>
        asksCompat bd && !(bd.d && b.stretchEnd.isNone && !b.dbgSkip) &&
          decide (4 * s.bc + b.phase.getD 0 < b.grantCc + l.wdog) &&
          (match (s.begin k bd).ctx? with
            | none => false
            | some c =>
              (c.bundleCause bd (b.dsLeft != 0)).isNone && (c.bundleLater (bundleOps bd)).isNone &&
                (b.stretchEnd.isSome || c.finiteStretch (bundleOps bd) == 0) && !s.openHolds c (bundleOps bd)))

/-- The requests of a die in order: first presentation, core, phase; each with its bough. -/
def State.compatRequests (s : State) (d : Nat) : List ((Nat × Nat × Nat) × Nat) :=
  let xs := s.boughs.filterMap fun e =>
    match s.grove? e.2.grove with
    | none => none
    | some g =>
      if g.die = d && s.presentsCompat e.1 e.2 g then
        some ((e.2.presented.getD s.bc, g.core, e.2.phase.getD 0), e.1)
      else none
  let le (a b : Nat × Nat × Nat) : Bool :=
    decide (a.1 < b.1) || (a.1 == b.1 && (decide (a.2.1 < b.2.1) || (a.2.1 == b.2.1 && decide (a.2.2 ≤ b.2.2))))
  xs.foldl (fun acc a => (acc.filter fun x => le x.1 a.1) ++ [a] ++ acc.filter fun x => !le x.1 a.1) []

/-- COMPAT_ACCEPT (R461): at most four requests of a bough cycle; the others stretch. -/
def execCompatAccept (die : Nat) (s : State) : Host.Outcome State Fault Refusal :=
  let used := if (s.die die).compatBc = s.bc + 1 then (s.die die).compatUsed else 0
  let rs := s.compatRequests die
  let yes := rs.take (4 - used)
  let s := yes.foldl (fun s r => s.onBough r.2 fun b => { b with presented := some r.1.1, compatAt := some s.bc }) s
  let s := (rs.drop (4 - used)).foldl (fun s r => s.onBough r.2 fun b => { b with presented := some r.1.1 }) s
  .next (s.onDie die fun x => { x with compatBc := s.bc + 1, compatUsed := used + yes.length })

end Sys2Proof.Machine
end

