-- ==== Sys2Proof/Machine/Issue.lean ====
section
/-!
DEFINITION. A bough that holds a phase presents its next bundle (R27, R75, R76, R160, R166, R167, R193, R194, R196): traps
and stops before it, its stretches, its operations in slot order, and where the next bundle comes from. `run` is the
meaning of an instruction.
-/
namespace Sys2Proof.Machine

/-- What an instruction does. -/
abbrev Run := Instr → State → Host.Outcome State Fault Refusal

/-! ### Debug stops (R441 to R443) -/

/-- DBGSTOP of a core: whether one of its boughs is stopped by a debug stop (Table 15.1). -/
def State.syncDbgStop (s : State) (core : Nat) : State :=
  let any := (s.coreBoughs core).any fun x => x.2.1.status == .debug
  let bit : Mask := BitVec.ofNat 64 (2 ^ (core % 64))
  s.onDie (dieOf core) fun d => { d with dbgStop := if any then d.dbgStop ||| bit else d.dbgStop &&& ~~~bit }

/-- A bough stops at a debug stop; `post` says that the host is told (R445). -/
def State.debugStop (s : State) (k core : Nat) (pc : DWord) (post : Bool) : State :=
  let t := (s.onBough k fun b => b.release .debug).syncDbgStop core
  if post then t.postBeacon (moduleOf (dieOf core)) 4 0x60 (core % 64) (pc.toNat % 2 ^ 32) else t

/-- Whether a bough can still be stopped at a boundary. -/
def Bough.stoppable (b : Bough) : Bool :=
  match b.status with
  | .ready | .waiting _ => true
  | _ => false

/-- Under ALLSTOP a debug stop has every other bough of the core stop at its next boundary (R442). -/
def State.stopOthers (s : State) (k core ctx : Nat) : State :=
  (s.coreBoughs core).foldl (fun t x =>
    if x.1 != k && x.2.1.stoppable && x.2.1.dbgCause == 0 then
      t.onBough x.1 fun b => { b with dbgCause := BitVec.ofNat 8 (16 + ctx) }
    else t) s

/-- A bough's own debug stop, by bit D or after a single step (R441 to R443). -/
def State.ownStop (s : State) (k core ctx : Nat) (pc : DWord) (allStop : Bool) : State :=
  let t := (s.onBough k fun b => { b with dbgCause := 1 }).debugStop k core pc true
  if allStop then t.stopOthers k core ctx else t

/-- The stop of bit D (R441). -/
def State.bitDStop (s : State) (c : Ctx) : State := s.ownStop c.key c.g.core c.b.ctx c.b.pc c.l.allStop

/-! ### Replay of holds (R434, R435) -/

/-- The bough cycle of the logged grant that the bough's present grant follows. -/
def State.loggedGrant (s : State) (c : Ctx) : Nat :=
  let ids := s.boughIds c.key
  let best := (s.die c.g.die).played.foldl (fun (m : Option Nat) i =>
    let r := s.playRecord c.g.die i
    if recType r == 0x01 && recOf r ids && (m.all fun j => decide (j < i)) then some i else m) none
  (best.map fun i => bitsOf (s.playRecord c.g.die i) 128 64).getD 0

/-- The logged STRETCH of a cause that began where this hold began in its grant: its number and length. -/
def State.loggedStretch (s : State) (c : Ctx) (cause soFar : Nat) : Option (Nat × Nat) :=
  (s.nextPlay c.g.die fun r =>
    recType r == 0x0D && recOf r (s.boughIds c.key) && bitsOf r 64 3 == cause && bitsOf r 192 64 == c.b.pc.toNat &&
      bitsOf r 16 48 / 4 + c.b.grantBc == c.t - soFar + bitsOf r 128 32 + s.loggedGrant c).map
    fun x => (x.1, bitsOf x.2 128 32)

/-- The cause under which a bundle counts the bough cycles for which an OBSERVE of the input holds it: none of Table 1.3, so that no
STRETCH tells of it (R434). -/
def observeCause : Nat := 4

/-- Bough cycles a cause has held the bundle so far. -/
def Bough.heldFor (b : Bough) (cause : Nat) : Nat := ((b.holds.find? fun h => h.1 == cause).map (·.2)).getD 0

/-- Whether a cause holds the bundle now: its condition, or the length that the input logs; and whether the input can be
followed no longer. -/
def State.holdNow (s : State) (c : Ctx) (cause : Nat) (cond : Bool) : Bool × Bool :=
  if !s.plays c.g.die c.g.launch then (cond, false)
  else
    let n := c.b.heldFor cause
    match s.loggedStretch c cause n with
    | some (_, len) => if n < len then (true, false) else (cond, cond)
    | none => (cond, cond)

/-- The STRETCH records of the input that a bundle's holds followed. -/
def State.followStretches (s : State) (c : Ctx) : State :=
  if !s.plays c.g.die c.g.launch then s
  else
    (c.b.holds.filter fun h => h.1 != observeCause).foldl (fun s h =>
      match s.loggedStretch c h.1 h.2 with
      | some (i, _) => s.followed c.g.die i
      | none => s) s

/-- What the input says of an operation whose outcome is logged (OBSERVE of R434): go, hold, or it cannot be followed. -/
inductive Observe where
  | go | hold | lost
  deriving DecidableEq, Repr

/-- The bough cycles for which the input lets an OBSERVE hold its bundle: those until the bough's next record of a later bough cycle
(R435; assumption 144). -/
def State.observeBound (s : State) (c : Ctx) (i : Nat) : Option Nat :=
  let bc := fun r : Nat => bitsOf r 16 48 / 4
  let x := s.die c.g.die
  let at_ := bc (s.playRecord c.g.die i)
  ((List.range x.playCount).find? fun j =>
    decide (i < j) && recOf (s.playRecord c.g.die j) (s.boughIds c.key) && decide (at_ < bc (s.playRecord c.g.die j))).map fun j =>
      bc (s.playRecord c.g.die j) - at_

/-- A kget waits for the logged count; a waitany for the logged flags, unless the input has it give up its phase; neither for longer
than the input allows (R434, R435). -/
def State.observe (s : State) (c : Ctx) (i : Instr) : Observe :=
  if !s.plays c.g.die c.g.launch then .go
  else
    let held := fun j : Nat => if (s.observeBound c j).all fun n => decide (c.b.heldFor observeCause < n) then Observe.hold else .lost
    match i with
    | .kget a =>
      (match s.playObserve c 0 with
        | none => .lost
        | some (j, r) =>
          let want : BitVec 24 := BitVec.ofNat 24 (bitsOf r 128 24)
          let have_ := (c.g.flag a.sa.toNat).count
          if have_ = want then .go else if flagSatisfied want have_ then held j else .lost)
    | .waitany a =>
      let y := c.anySatisfied a
      (match s.playObserve c 1 with
        | none => if y.1 || y.2 then .lost else .go
        | some (j, r) =>
          if s.playGivesUp c then .go
          else if (r.testBit 128 && !y.1) || (r.testBit 129 && !y.2) then held j
          else .go)
    | _ => .go

/-- OBSERVE records that a bundle's kget and waitany followed. -/
def State.followObserved (s : State) (c : Ctx) (ops : List Instr) : State :=
  ops.foldl (fun s i =>
    let kind := match i with
      | .kget _ => some 0
      | .waitany _ => some 1
      | _ => none
    match kind.bind (s.playObserve c) with
    | some (i, _) => s.followed c.g.die i
    | none => s) s

/-! ### The next bundle -/

/-- An address step lands on top of other writes (R166). -/
def stepResult (b : Bough) (pc : DWord) (p : StepPair) (t : Nat) : Result :=
  { scalarResult b p.reg.toNat p.stride t 0 with pc := pc, dest := .stepped p.reg.toNat }

/-- end_iteration of R166 at the end bundle `pc` issued at `t`: the bough, and the start it goes on at. A count that csrw made 0
ends the level (R197). An astep of the bundle itself has acted before (assumption 124). -/
def endIteration (pc : DWord) (t : Nat) : Nat → Bough → Bough × Option DWord
  | 0, b => (b, none)
  | fuel + 1, b =>
    match b.loops with
    | [] => (b, none)
    | l :: rest =>
      if l.last != pc then (b, none)
      else
        let armed := b.steps.toList.filter fun p => p.depth == rest.length + 1
        let b := armed.foldl (fun b p => b.addResult (stepResult b pc p t)) b
        if 1 < l.count.toNat then ({ b with loops := { l with count := l.count - 1 } :: rest }, some l.start)
        else endIteration pc t fuel { b with loops := rest }

/-- Where the next bundle comes from (R160, R165 to R168, R185, R195). `iter` is what end_iteration chose. -/
def Bough.advance (b : Bough) (pc : DWord) (x : Issue) (iter : Option DWord) : Bough :=
  if x.returned then b
  else if b.dsLeft = 1 then { b with pc := b.dsTarget, dsLeft := 0, dsTarget := 0 }
  else if b.dsLeft = 2 then { b with pc := pc + 32, dsLeft := 1 }
  else
    match x.taken, x.jump, iter with
    | some target, _, _ => { b with pc := pc + 32, dsLeft := 2, dsTarget := target }
    | none, some target, _ => { b with pc := target }
    | none, none, some start => { b with pc := start }
    | none, none, none => { b with pc := pc + 32 }

/-- BIND during a per-lane call (R196). -/
def Bough.bindCall (b : Bough) (vsite vmask : DWord) : Bough :=
  { b with vserved := b.vserved &&& ~~~vmask, tvmask := BitVec.allOnes 64, epc := vsite, tstatDsn := 0, tdst := 0 }

/-- The entry that a `trap` operation asks for (R193, R196): after its bundle. -/
def State.softTrap (s : State) (c : Ctx) (argCause : Word) (next : Nat) : State :=
  match s.bough? c.key with
  | none => s
  | some b =>
    let t := s.takeTrap c.key argCause (c.b.pc + 32) c.b.pc 0 next
    if argCause.setWidth 8 == Cause.bind.code && b.vsite != 0 && !b.trapUnhandled then
      t.onBough c.key fun x => x.bindCall b.vsite b.vmask
    else t

/-- STRETCH records of the bundle's open-ended stretches (R428). -/
def State.logStretches (s : State) (c : Ctx) : State :=
  (c.b.holds.filter fun h => h.1 != observeCause).foldl (fun s h =>
    s.logAfter c.key 0x0D h.1 (packFields [(h.2, 0, 32), (c.b.pc.toNat, 64, 64)])) s

/-- The bundle's open-ended stretches have ended: those of the input are followed, and each is logged (R428, R434). -/
def State.endStretches (s : State) (c : Ctx) : State := (s.followStretches c).logStretches c

/-- The open-ended stretches of the bundle that a bough presents have ended. -/
def State.endHolds (s : State) (k : Nat) : State :=
  match s.ctxOf k Bundle.empty 0 0 false with
  | none => s
  | some c => s.endStretches c

/-- Whether an issued bundle's transfer went anywhere but to the next address (R160): taken, or at once as rett, a loop of count 0
and a refill's handler go. -/
def Issue.left (x : Issue) (c : Ctx) (s : State) : Bool :=
  x.taken.isSome || (x.jump.any fun a => a != c.b.pc + 32) ||
    (x.returned && (s.bough? c.key).any fun b => b.dsLeft != 0 || b.pc != c.b.pc + 32)

/-- The end of an issued bundle: channels popped once each (R65), iteration ends, the next bundle, traps and phases. -/
def State.finish (s : State) (c : Ctx) (ops : List Instr) (gap : Nat) : State :=
  let s := s.followObserved c ops
  let s := (s.endStretches c).shareBanks c.g.core (c.bankCc ops)
  let s := ((ops.map c.chanReads).flatten.eraseDups).foldl (fun s n => s.popChannel c.b.grove n) s
  let x := s.cur
  let next := c.t + 1 + gap
  let s := s.onBough c.key fun b =>
    if b.status == .halted then { b with seq := b.seq + 1 }
    else
      let r := if x.popped then (b, none) else endIteration c.b.pc c.t 5 b
      let y := r.1.advance c.b.pc x r.2
      { y with earliest := next, seq := y.seq + 1, stretchEnd := none, presented := none, compatAt := none, holds := [],
               dbgSkip := false, dbgStep := false, dbgCause := if y.dbgStep then 1 else y.dbgCause }
  let s := s.traceBundle c.key c.b.pc (x.left c s) (ops.any fun i => match i with | .refill _ => true | _ => false)
  let s := match x.trap with
    | some (w, _) => s.softTrap c w next
    | none => s
  if x.giveUp then s.onBough c.key fun b => { b.release .ready with eligSince := s.cc } else s

/-! ### Issue -/

/-- Operations run one after another; the first stop ends it. -/
def runAll (run : Run) : List Instr → State → Host.Outcome State Fault Refusal
  | [], s => .next s
  | i :: is, s =>
    match run i s with
    | .next t => runAll run is t
    | .fault f => .fault f
    | .refused r => .refused r

/-- Control operations that may find at issue that their bundle does not issue (R194). -/
def mayGiveUp : Instr → Bool
  | .wait _ | .waitany _ | .await _ | .bar _ | .refill _ => true
  | _ => false

/-- Whether a bough has given up its phase other than by halting. -/
def State.gaveUp (s : State) (k : Nat) : Bool :=
  ((s.bough? k).map fun b => b.phase.isNone && b.status != .halted).getD false

/-- The slots run, and the bundle ends. -/
def State.runSlots (s : State) (run : Run) (c : Ctx) (ops : List Instr) (gap : Nat) : Host.Outcome State Fault Refusal :=
  match runAll run ops s with
  | .next t => .next (t.finish c ops gap)
  | .fault f => .fault f
  | .refused r => .refused r

/-- The tests made in the bundle's issue cycle (R194): flags with E set, then whether the control slot gives up. -/
def State.issueNow (s : State) (run : Run) (c : Ctx) (ops : List Instr) (gap : Nat) : Host.Outcome State Fault Refusal :=
  match ops.findSome? c.flagFault with
  | some f => .next ((s.endStretches c).takeTrap c.key f.trap.cause c.b.pc f.trap.tval f.trap.frec c.t)
  | none =>
    match ops.find? mayGiveUp with
    | none => s.runSlots run c ops gap
    | some i =>
      match run i s with
      | .next t => if t.gaveUp c.key then .next (t.endStretches c) else s.runSlots run c ops gap
      | .fault f => .fault f
      | .refused r => .refused r

/-- A bundle held for one bough cycle by an open-ended stretch (R27). -/
def State.holdBundle (s : State) (c : Ctx) (cause : Nat) : State :=
  s.onBough c.key fun b =>
    { b with earliest := c.t + 1, stretchEnd := some (b.stretchEnd.getD c.t),
             holds := if b.holds.any fun h => h.1 == cause then b.holds.map fun h => if h.1 = cause then (h.1, h.2 + 1) else h
               else b.holds ++ [(cause, 1)] }

/-- The open-ended stretches in the order of Table 1.3: the first that holds the bundle now, and whether the input can
be followed no longer. -/
def State.holdCause (s : State) (c : Ctx) (ops : List Instr) : Option (Nat × Bool) :=
  let r := s.holdNow c 0 (c.readHolds ops)
  let w := s.holdNow c 1 (c.writeHolds ops)
  let u := if ops.any isRetired then s.holdNow c 2 (((s.bough? c.key).bind (·.compatAt)).isNone) else (false, false)
  let t := s.holdNow c 3 (s.tileHolds c ops)
  if r.1 then some (0, r.2) else if w.1 then some (1, w.2) else if u.1 then some (2, u.2)
  else if t.1 then some (3, t.2) else none

/-- What OBSERVE records of the input do to a bundle. -/
def State.observeAll (s : State) (c : Ctx) (ops : List Instr) : Observe :=
  if ops.any fun i => s.observe c i == .hold then .hold
  else if ops.any fun i => s.observe c i == .lost then .lost
  else .go

/-- A bundle past its finite stretch: held, or issued. -/
def State.pastStretch (s : State) (run : Run) (c : Ctx) (bd : Bundle) : Host.Outcome State Fault Refusal :=
  let ops := bundleOps bd
  match s.holdCause c ops with
  | some (cause, lost) =>
    let s := if lost then s.diverge c.g.die c.g.launch 0x0D c.b.pc.toNat (c.g.core % 64) (s.boughIds c.key) else s
    .next (s.holdBundle c cause)
  | none =>
    match s.observeAll c ops with
    | .hold => .next (s.holdBundle c observeCause)
    | .lost => (s.diverge c.g.die c.g.launch 0x0C c.b.pc.toNat (c.g.core % 64) (s.boughIds c.key)).issueNow run c ops bd.gap.toNat
    | .go => s.issueNow run c ops bd.gap.toNat

/-- A trap before the presented bundle, whose open-ended stretches end (R428). -/
def State.trapBundle (s : State) (c : Ctx) (x : Cause) : State := (s.endStretches c).trapHere c.key x

/-- A bundle with its checks (R75; R194, steps 4 to 9) and its finite stretch (R84 to R86). -/
def State.checkBundle (s : State) (run : Run) (c : Ctx) (bd : Bundle) : Host.Outcome State Fault Refusal :=
  let ops := bundleOps bd
  match c.bundleCause bd (c.b.dsLeft != 0) with
  | some x => .next (s.trapBundle c x)
  | none =>
    if asksCompat bd && s.compatFault c.g.die then .next (s.trapBundle c .compatFault)
    else
      match c.bundleLater ops with
      | some x => .next (s.trapBundle c x)
      | none =>
        let n := c.finiteStretch ops
        if c.b.stretchEnd.isNone && n != 0 then
          .next (s.onBough c.key fun b => { b with stretchEnd := some (c.t + n), earliest := c.t + n })
        else if asksCompat bd && c.b.compatAt.isNone && !s.openHolds c ops then
          match run (.compatAccept c.g.die) s with
          | .next t => t.pastStretch run c bd
          | .fault f => .fault f
          | .refused r => .refused r
        else s.pastStretch run c bd

/-- WATCHDOG (R45): the bough traps before its next bundle. -/
def execWatchdog (b : Nat) (s : State) : Host.Outcome State Fault Refusal :=
  match s.ctxOf b Bundle.empty 0 0 false with
  | none => .next s
  | some c => if s.watchdogDue c.b c.l then .next (s.trapBundle c .watchdog) else .next s

/-- A pending trap taken: those that land before the same bundle are taken with it (R194). -/
def State.takePend (s : State) (c : Ctx) (p : PendTrap) : State :=
  let tval := if p.cause = Cause.logFull.code then c.b.pc else p.tval
  ((s.onBough c.key fun b => { b with pend := b.pend.filter fun q => !decide (q.from_ ≤ c.t) }).endStretches c).takeTrap c.key
    (causeWord p.cause 0) c.b.pc tval p.frec c.t

/-- A bough presents the bundle at its pc (R194); a fault on fetching it comes after WATCHDOG and before the checks of R75 (assumption 153). -/
def State.present (s : State) (run : Run) (k : Nat) : Host.Outcome State Fault Refusal :=
  match s.ctxOf k Bundle.empty 0 0 false with
  | none => .next s
  | some c0 =>
    match c0.b.pendNow c0.t with
    | some p => .next (s.takePend c0 p)
    | none =>
      let fetched := s.fetchBits k c0.g c0.l c0.b.pc
      let fresh := c0.b.stretchEnd.isNone && !c0.b.dbgSkip
      if fresh && (match fetched with | .ok w => (decodeBundle w).d | .error _ => false) then .next (s.bitDStop c0)
      else if s.watchdogDue c0.b c0.l then run (.watchdog k) s
      else
        match fetched with
        | .error f =>
          .next (((s.touch c0.g.die c0.l.asid c0.b.pc.toNat).endStretches c0).takeTrap k (causeWord f.1 0) c0.b.pc c0.b.pc 0 c0.t)
        | .ok w =>
          let bd := decodeBundle w
          let t := ((s.touch c0.g.die c0.l.asid c0.b.pc.toNat).keepFetched k c0.g c0.l c0.b.pc w).begin k bd
          match t.ctx? with
          | none => .next s
          | some c => t.checkBundle run c bd

end Sys2Proof.Machine
end

