-- ==== Sys2Proof/Machine/Completions.lean ====
section
/-!
DEFINITION. Completions of the memory engine and of beacon reads (R131, R140, R141, R198, R204, R215 to R229, R233 to
R235): when an operation has been performed where it must be, and what its completion does.
-/
namespace Sys2Proof.Machine

/-! ### Accesses and views -/

/-- HOME_ACCESS (R131, Table 4.3): a lane's access is performed, or what it sent arrives at its home. -/
def execHomeAccess (op lane : Nat) (err : Bool) (s : State) : Host.Outcome State Fault Refusal :=
  .next (s.accessLane op lane err)

/-- REPLICA_APPLY (R133, R134): a die applies a write that its home has delivered. -/
def execReplicaApply (die w : Nat) (s : State) : Host.Outcome State Fault Refusal := .next (s.applyReplica die w)

/-! ### What a completion says -/

/-- Cause and AUX of a lane: its access fault, or an enabled flag that it raised (Table 6.8, R117). -/
def laneFault (fpen : Flags) (r : LaneReq) : Option XFault :=
  match r.fault with
  | some f => some f
  | none => if enabledRaised fpen r.flags then some (xfault .fpException) else none

/-- The value of a lane, from the words that it was read in (R136); none where one of them faulted. -/
def GOp.laneValue (o : GOp) (l : Nat) : Option Nat :=
  let parts := o.lanes.filter fun r => r.lane == l
  if parts.isEmpty || parts.any fun r => r.fault.isSome then none
  else some (parts.foldl (fun n r => n + r.value * 2 ^ (32 * r.part)) 0)

/-- The fault record of an operation: its faulting lanes, and the cause and address of the lowest (Table 6.9). -/
def GOp.faultInfo (o : GOp) (fpen : Flags) : Option FaultInfo :=
  let bad := o.lanes.filterMap fun r => (laneFault fpen r).map fun f => (r, f)
  match bad with
  | [] => none
  | (r, f) :: _ =>
    some { cause := f.1, pc := o.pc, lanes := maskOf fun l => bad.any fun b => b.1.lane == l, va := r.va - BitVec.ofNat 64 (4 * r.part), aux := f.2,
           src := 0, bid := o.bid, iids := o.iids }

/-- A fault of the sequencer's own operations, which name no lane (R198 to R200). -/
def GOp.ownFault (o : GOp) (f : XFault) (va : DWord) : FaultInfo :=
  { cause := f.1, pc := o.pc, lanes := 0, va := va, aux := f.2, src := 3, bid := o.bid, iids := o.iids }

/-- An operation is no longer outstanding. -/
def State.dropOp (s : State) (id : Nat) : State := { s with ops := tdel s.ops id }

/-- Results of a completion enter the bough, with this bough cycle as their due cycle (R216); a stopped bough takes them at its end
(`State.landDelivered`). -/
def State.deliver (s : State) (k : Nat) (rs : List Result) : State := s.onBough k fun b => rs.foldl Bough.addResult b

/-- An operation completes (R204): its results, its flags and its increment; a killed launch's results are discarded
(R367). -/
def State.completeOp (s : State) (id : Nat) (o : GOp) (rs : List Result) (flags : Flags) (fault : Option FaultInfo) : State :=
  let t := s.dropOp id
  let lid := launchOfKey o.bough
  if s.killedLaunch lid then t
  else
    ((t.deliver o.bough rs).raiseFlags o.bough flags).reachFlag lid (groveOf o.bough) (.complete o.flag 1 fault)

/-- Trap enables of an operation's launch. -/
def State.opFpen (s : State) (o : GOp) : Flags := ((tget s.launches (launchOfKey o.bough)).map (·.fpen)).getD 0

/-- An operation with lanes completes: the lanes that were performed write their destinations (R216, R233). -/
def State.completeLanes (s : State) (id : Nat) (o : GOp) (bytes : Nat) (signed : Bool) : State :=
  let act := maskOf fun l => (o.laneValue l).isSome
  let rs := if act = 0 then [] else
    loadResults o.seq o.pc .none o.dests bytes signed act (fun l => (o.laneValue l).getD 0) s.bc true
  s.completeOp id o rs (orFlags ((o.lanes.filter fun r => r.fault.isNone).map (·.flags))) (o.faultInfo (s.opFpen o))

/-- Whether every lane has been performed where the operation needs it, no earlier than issue + 2, and answered. -/
def GOp.performed (o : GOp) (bc : Nat) : Bool := decide (o.issued + 2 ≤ bc) && o.lanes.all fun r => r.stage == 2 && r.reach != .answering

/-- A completion of lanes for operations of a sort. -/
def laneCompletion (op : Nat) (sort : OpKind → Option (Nat × Bool)) (s : State) : Host.Outcome State Fault Refusal :=
  match tget s.ops op with
  | none => .next s
  | some o =>
    match sort o.kind with
    | none => .next s
    | some (bytes, signed) =>
      if o.performed s.bc && decide (o.arg0 ≤ s.bc) then .next (s.completeLanes op o bytes signed) else .next s

/-- GLOBAL_LOAD_COMPLETION (R213, R215, R216). -/
def execGlobalLoadCompletion (op : Nat) (s : State) : Host.Outcome State Fault Refusal :=
  laneCompletion op (fun k => match k with | .load b sg => some (b, sg) | _ => none) s

/-- STORE_COMPLETION (R131, R215). -/
def execStoreCompletion (op : Nat) (s : State) : Host.Outcome State Fault Refusal :=
  laneCompletion op (fun k => match k with | .store => some (4, false) | _ => none) s

/-- ATOMG_COMPLETION (R216 to R220). -/
def execAtomgCompletion (op : Nat) (s : State) : Host.Outcome State Fault Refusal :=
  laneCompletion op (fun k => match k with | .atomg _ wide => some (if wide then 8 else 4, false) | _ => none) s

/-- RED_COMPLETION (R221, R223). -/
def execRedCompletion (op : Nat) (s : State) : Host.Outcome State Fault Refusal :=
  laneCompletion op (fun k => match k with | .red _ _ => some (4, false) | _ => none) s

/-- SETTLE_COMPLETION (R222). -/
def execSettleCompletion (op : Nat) (s : State) : Host.Outcome State Fault Refusal :=
  laneCompletion op (fun k => match k with | .settle => some (4, false) | _ => none) s

/-- PREF_COMPLETION (R229): it never carries E. -/
def execPrefCompletion (op : Nat) (s : State) : Host.Outcome State Fault Refusal :=
  match tget s.ops op with
  | none => .next s
  | some o =>
    match o.kind with
    | .pref => if o.performed s.bc then .next (s.completeOp op o [] 0 none) else .next s
    | _ => .next s

/-! ### Fences (R139 to R141) -/

/-- The beacon group of a module, none when it is its own (R393, R404). -/
def Module.groupOf (m : Module) : Option Nat := if m.bcfg.getLsbD 0 then some (bitsOf m.bcfg.toNat 48 16) else none

/-- Whether two modules belong to one beacon group (R139). -/
def State.sameGroup (s : State) (m p : Nat) : Bool :=
  m == p || ((s.module m).groupOf.isSome && (s.module m).groupOf == (s.module p).groupOf && (s.module m).domain == (s.module p).domain)

/-- Whether a scope's instance reaches a die (Table 4.4): up to .die it is the issuing die. -/
def State.scopeHas (s : State) (scope d e : Nat) : Bool :=
  match scope with
  | 0 | 1 | 2 => d == e
  | 3 => d / 32 == e / 32
  | 4 => s.sameGroup (d / 32) (e / 32)
  | _ => true

/-- Whether a write has been performed with respect to every bough of a scope's instance on die `d`: where it is to be
read at its home, there, and in every view of the instance that holds a replica. -/
def State.writeSeen (s : State) (scope d : Nat) (w : Write) : Bool :=
  (w.order != 0 || (decide (scope ≤ 2) && !atHome d w.home)) && w.todo.all fun e => !s.scopeHas scope d e

/-- Whether every access that a bough issued before `order` has been performed for a scope (R140). -/
def State.accessesSeen (s : State) (bough order scope d : Nat) : Bool :=
  (s.ops.all fun e => e.2.bough != bough || decide (order ≤ e.2.order) || e.2.kind.access.isNone ||
    e.2.lanes.all fun r => s.laneDone d false r) &&
  s.writes.all fun w => w.2.bough != bough || s.writeSeen scope d w.2

/-- Whether every copy that a bough issued before `order` has completed. -/
def State.copiesDone (s : State) (bough order : Nat) : Bool :=
  s.copies.all fun e => e.2.bough != bough || e.2.preload || decide (order ≤ e.2.order)

/-- Whether what the bough may have read at the homes of other modules stands in their views, as far as the scope reaches
(R143). -/
def State.remoteSeen (s : State) (cut scope d : Nat) : Bool :=
  s.writes.all fun w => decide (cut ≤ w.1) || w.2.order == 0 || w.2.home / 32 == d / 32 || s.writeSeen scope d w.2

/-- The release condition (R140, R143): accesses, copies, for .mod and wider every write that the die had applied, and for
.bcn and wider what was read at the homes of other modules. -/
def State.released (s : State) (o : GOp) (scope d : Nat) : Bool :=
  s.accessesSeen o.bough o.order scope d && s.copiesDone o.bough o.order && s.remoteSeen o.cut scope d &&
    (decide (scope ≤ 2) || (clockCovers (s.die d).clock o.snap && (otherDies d).all fun e => clockCovers (s.die e).clock o.snap))

/-- The acquire condition (R141): every read that the bough issued before has been performed. -/
def State.readsDone (s : State) (o : GOp) : Bool :=
  s.ops.all fun e => e.2.bough != o.bough || decide (o.order ≤ e.2.order) ||
    (match e.2.kind with
      | .load _ _ | .atomg _ _ => e.2.lanes.all fun r => r.stage == 2
      | _ => true)

/-- An acquire of .die scope or wider drops the L1 lines of the address space (R138, R141). -/
def State.acquireL1 (s : State) (o : GOp) (g : Grove) (scope : Nat) : State :=
  if 2 ≤ scope then s.dropL1 g.core o.asid else s

/-- FENCE_COMPLETION (R140, R141, R225). -/
def execFenceCompletion (op : Nat) (s : State) : Host.Outcome State Fault Refusal :=
  match tget s.ops op with
  | none => .next s
  | some o =>
    match o.kind, s.opHome o.bough with
    | .fence acq rel scope, some (g, _) =>
      if o.performed s.bc && (!rel || s.released o scope g.die) && (!acq || s.readsDone o) then
        .next ((if acq then s.acquireL1 o g scope else s).completeOp op o [] 0 none)
      else .next s
    | _, _ => .next s

/-! ### Reads of the beacon's tables (R227, R228) -/

/-- The record of a beacon operation that completes (R427, R432). -/
def State.markDone (s : State) (k op seq : Nat) : State :=
  s.logAfter k 0x06 0 (packFields [(seq, 0, 32), (op, 32, 2)])

/-- Whether the replay input lets a bough's bld or bseq complete at the die's last frame (BMARK of R434), and the state with
the record followed. -/
def State.playMark (s : State) (k op d seq : Nat) : Option State :=
  if !s.plays d (launchOfKey k) then some s
  else
    match s.nextPlay d fun r => recType r == 0x06 && recOf r (s.boughIds k) && bitsOf r 160 2 == op with
    | none => some (s.diverge d (launchOfKey k) 0x06 0 0 (s.boughIds k))
    | some (i, r) =>
      if bitsOf r 128 32 = seq then some (s.followed d i)
      else if seq < bitsOf r 128 32 then none
      else some (s.diverge d (launchOfKey k) 0x06 0 0 (s.boughIds k))

/-- Whether the bough has a bld or bseq on its way that it issued before: what they return comes in one order (R144, R145). -/
def State.tableRead (s : State) (o : GOp) : Bool :=
  s.ops.any fun e => e.2.bough == o.bough && decide (e.2.order < o.order) &&
    (match e.2.kind with
      | .bld _ | .bseq => true
      | _ => false)

/-- A result for a scalar register (R216). -/
def GOp.scalarResults (o : GOp) (x bc : Nat) : List Result :=
  loadResults o.seq o.pc .none o.dests 8 false 1 (fun _ => x) bc true

/-- BLD_COMPLETION (R146, R227). -/
def execBldCompletion (op : Nat) (s : State) : Host.Outcome State Fault Refusal :=
  match tget s.ops op with
  | none => .next s
  | some o =>
    match o.kind, s.opHome o.bough with
    | .bld acq, some (g, _) =>
      let x := s.die g.die
      if !o.performed s.bc || x.appliedCc = s.cc + 1 || s.heldByOp o.bough o.order || s.tableRead o || (acq && !s.readsDone o) then .next s
      else
        match s.playMark o.bough 0 g.die x.lastSeq.toNat with
        | none => .next s
        | some t =>
          let t := if acq then t.acquireL1 o g 4 else t
          .next ((t.completeOp op o (o.scalarResults (tgetD x.flagTab o.arg0 0).toNat s.bc) 0 none).markDone o.bough 0
            x.lastSeq.toNat)
    | _, _ => .next s

/-- BSEQ_COMPLETION (R228). -/
def execBseqCompletion (op : Nat) (s : State) : Host.Outcome State Fault Refusal :=
  match tget s.ops op with
  | none => .next s
  | some o =>
    match o.kind, s.opHome o.bough with
    | .bseq, some (g, _) =>
      let x := s.die g.die
      if !o.performed s.bc || x.appliedCc = s.cc + 1 || s.heldByOp o.bough o.order || s.tableRead o then .next s
      else
        match s.playMark o.bough 1 g.die x.lastSeq.toNat with
        | none => .next s
        | some t =>
          .next ((t.completeOp op o (o.scalarResults x.lastSeq.toNat s.bc) 0 none).markDone o.bough 1 x.lastSeq.toNat)
    | _, _ => .next s

/-! ### icinv (R198) -/

/-- Whether every global write that a bough issued before, a copy's too (R147, assumption 138), has been performed at its home. -/
def State.storesHome (s : State) (bough order : Nat) : Bool :=
  s.copiesDone bough order && s.ops.all fun e => e.2.bough != bough || decide (order ≤ e.2.order) ||
    (match e.2.kind.access with
      | some .write => e.2.lanes.all fun r => r.stage == 2
      | _ => true)

/-- Whether a fetched copy holds bytes of a range. -/
def FetchCopy.meets (e : FetchCopy) (asid base len : Nat) : Bool :=
  e.asid == asid && len != 0 && decide (e.va < base + len) && decide (base < e.va + 32)

/-- Whether a bough is at a bundle boundary, and not within the stretch of a bundle (R27). -/
def State.atBoundary (s : State) (k : Nat) : Bool := !(s.bough? k).any fun b => b.stretchEnd.isSome

/-- The fetched copies of a range are dropped by the boughs that are at a bundle boundary (R198). -/
def State.dropFetched (s : State) (asid base len : Nat) : State :=
  { s with cores := s.cores.map fun (e : Nat × Core) =>
      (e.1, { e.2 with fetched := e.2.fetched.filter fun x => !(x.meets asid base len && s.atBoundary x.bough) }) }

/-- Whether a fetch buffer still holds bytes of a range. -/
def State.holdsFetched (s : State) (asid base len : Nat) : Bool :=
  s.cores.any fun e => e.2.fetched.any fun x => x.meets asid base len

/-- ICINV_COMPLETION (R198): every bough that holds copies of its bytes drops them at its next bundle boundary, so that a bundle
fetched later is read anew; then it completes. -/
def execIcinvCompletion (op : Nat) (s : State) : Host.Outcome State Fault Refusal :=
  match tget s.ops op with
  | none => .next s
  | some o =>
    match o.kind with
    | .icinv =>
      if o.arg2 = 0 then .next (s.completeOp op o [] 0 none)
      else if s.heldByOp o.bough o.order || !s.storesHome o.bough o.order then .next s
      else
        let t := s.dropFetched o.asid o.arg1.toNat o.arg2.toNat
        if t.holdsFetched o.asid o.arg1.toNat o.arg2.toNat then .next (t.atTime (s.cc + 1) (.icinvCompletion op))
        else .next (t.completeOp op o [] 0 none)
    | _ => .next s

end Sys2Proof.Machine
end

