-- ==== Sys2Proof/Machine/Copy.lean ====
section
/-!
DEFINITION. The engine slot's copy form at issue (R297 to R305, R310, R312): every scalar register that an operation names
is read, what refuses it is found, and it enters the copy engine.
-/
namespace Sys2Proof.Machine

/-! ### Names and places -/

/-- Scalar registers that complete a space-tagged address (R300). -/
def tagRegs (x : DWord) : Nat := if spaceOf x = 2 then 1 else if spaceOf x = 3 then 2 else 0

/-- Whether a space-tagged address is sound: its SPACE, its reserved bits, its registers within s31, and its name
(R300, R305). -/
def Launch.tagOk (l : Launch) (reg : Nat) (x name : DWord) : Bool :=
  decide (spaceOf x < 4) && (spaceOf x == 0 || bitsOf x.toNat 20 41 == 0) && decide (reg + tagRegs x ≤ 31) &&
    (spaceOf x != 2 || (l.named name).isSome) && (spaceOf x != 3 || nameClean name)

/-- NX, NY, NZ of a grove set (Table 9.4). -/
def setExtents (x : DWord) : Nat × Nat × Nat := (bitsOf x.toNat 0 16, bitsOf x.toNat 16 16, bitsOf x.toNat 32 16)

/-- Whether a set's extents are sound (R300, R305). -/
def setOk (name ext : DWord) : Bool :=
  let e := setExtents ext
  ext.toNat / 2 ^ 48 == 0 && e.1 != 0 && e.2.1 != 0 && e.2.2 != 0 && decide (e.1 * e.2.1 * e.2.2 ≤ 4096) &&
    decide (bitsOf name.toNat 0 16 + e.1 ≤ 65536) && decide (bitsOf name.toNat 16 16 + e.2.1 ≤ 65536) &&
    decide (bitsOf name.toNat 32 16 + e.2.2 ≤ 65536)

/-- The members of a set, by ordinal; a coordinate that names no grove is skipped (R300). -/
def Launch.members (l : Launch) (name ext : DWord) : List Nat :=
  let e := setExtents ext
  (List.range (e.1 * e.2.1 * e.2.2)).filterMap fun i =>
    l.ordinalOf (bitsOf name.toNat 48 3) (bitsOf name.toNat 0 16 + i % e.1) (bitsOf name.toNat 16 16 + i / e.1 % e.2.1)
      (bitsOf name.toNat 32 16 + i / e.1 / e.2.1)

/-! ### Refusals (R305, R308) -/

/-- Whether a form accepts the SPACEs of its operands (Table 9.6). -/
def CopyForm.spacesOk (f : CopyForm) (src dst : Nat) : Bool :=
  match f with
  | .multi => decide (src ≤ 1) && dst == 3
  | .fill => decide (dst ≤ 2)
  | _ => decide (src ≤ 2) && decide (dst ≤ 2)

/-- Whether a form reads an index list. -/
def CopyForm.indexed : CopyForm → Bool
  | .gather | .scatter => true
  | _ => false

/-- Whether the fields of a shape are sound, with R308 for a conversion. -/
def CopyOp.shapeOk (c : CopyOp) : Bool :=
  bitsOf c.shape0.toNat 37 3 == 0 && decide (c.rlen ≤ 2 ^ 20) &&
    (match c.form with
      | .convert slot =>
        decide (c.conv ≤ 3) && decide (c.rowBytes.1 ≤ 2 ^ 20) && decide (c.rowBytes.2 ≤ 2 ^ 20) &&
          (slot.elemBits != 4 || c.rlen % 2 == 0) && (slot.scale != 1 || c.rlen % 32 == 0)
      | _ => c.conv == 0 && c.sidx == 0)

/-- The SPACE of a source as Table 9.6 judges it: a remote tag that names the issuing grove acts as an own one (R300). -/
def CopyOp.srcSpace (c : CopyOp) (l : Launch) : Nat :=
  if spaceOf c.src = 2 && (l.named c.src1).map (groveKey (launchOfKey c.bough)) == some (groveOf c.bough) then 1
  else spaceOf c.src

/-- R305. `srcReg` and `dstReg` are the numbers of the address registers. -/
def CopyOp.refusal (c : CopyOp) (l : Launch) (srcReg dstReg : Nat) : Bool :=
  !(c.form == .fill || l.tagOk srcReg c.src c.src1) || !l.tagOk dstReg c.dst c.dst1 ||
    !c.form.spacesOk (c.srcSpace l) (spaceOf c.dst) || (spaceOf c.dst == 3 && !setOk c.dst1 c.dst2) || !c.shapeOk ||
    (c.form.indexed && bitsOf c.idx.toNat 20 44 != 0) || (c.loc == 2 && !nameClean c.named) ||
    (c.loc == 1 && spaceOf c.dst == 0)

/-! ### Issue -/

/-- The increment that an INC field encodes (R58). -/
def incOf (inc : BitVec 6) : Nat := if inc = 0 then 64 else inc.toNat

/-- A copy-engine operation with its registers read (R304). -/
def Ctx.copyOp (c : Ctx) (order : Nat) (form : CopyForm) (a : CSlot) : CopyOp :=
  let r (n : Nat) : DWord := if n ≤ 31 then c.b.sreg n else 0
  let ext := a.shp.toNat + 2
  { bough := c.key, issued := c.t, issuedCc := c.cc, order := order, pc := c.b.pc, asid := c.l.asid, bid := c.bid,
    form := form, src := r a.src.toNat, src1 := r (a.src.toNat + 1), dst := r a.dstb.toNat, dst1 := r (a.dstb.toNat + 1),
    dst2 := r (a.dstb.toNat + 2), shape0 := r a.shp.toNat, shape1 := r (a.shp.toNat + 1), idx := r ext,
    named := r (if form.indexed then ext + 1 else ext), flag := a.kf.toNat, inc := incOf a.inc, loc := a.loc.toNat,
    tag := a.tag.toNat, life := .waiting, refused := false, cancelled := false, awaits := [], preload := false,
    owns := none, progress := .start }

/-- Whether a bough has as many copy-engine operations as it may (R310). -/
def State.copiesFull (s : State) (bough : Nat) : Bool :=
  decide (32 ≤ (s.copies.filter fun e => e.2.bough == bough && !e.2.preload).length)

/-- A copy-engine operation is accepted in its issue cycle, with the event that follows. -/
def State.enterCopy (s : State) (c : CopyOp) (cc : Nat) (exact_ : Bool) (ev : Nat → Instr) : State :=
  let id := s.nextOp
  let t := { s with nextOp := id + 1, copies := tput s.copies id c }
  if exact_ then t.atTime cc (ev id) else t.later cc (ev id)

/-- A copy is issued: refused, beyond its bough's limit or without bytes it completes at issue + 2 (R304, R305, R310); else it
waits for a slot, and owns its destination lines unless an earlier fence holds it back (R147, R310; assumption 20). -/
def State.issueCopy (s : State) (c : CopyOp) (l : Launch) (srcReg dstReg : Nat) : State :=
  let c := { c with refused := c.refusal l srcReg dstReg }
  if s.copiesFull c.bough then
    s.enterCopy { c with life := .over } (4 * (c.issued + 2)) true .copyCompletion
  else if c.refused || !c.moves then
    s.enterCopy { c with life := .empty } (4 * (c.issued + 2)) true .copyCompletion
  else
    s.enterCopy { c with owns := if s.heldByOp c.bough c.order then none else some c.order } (4 * (c.issued + 1)) false .copyStart

/-- cpy to cpyc. -/
def copyExec (i : Instr) (form : Ctx → CopyForm) (a : CSlot) (s : State) : Host.Outcome State Fault Refusal :=
  s.guarded i fun c => s.issueCopy (c.copyOp s.nextOp (form c) a) c.l a.src.toNat a.dstb.toNat

/-- enop (R52). -/
def execEnop (s : State) : Host.Outcome State Fault Refusal := s.nothing

/-- cpy (R304). -/
def execCpy (a : CSlot) (s : State) : Host.Outcome State Fault Refusal := copyExec (.cpy a) (fun _ => .plain) a s

/-- cpyr (R306). -/
def execCpyr (a : CSlot) (s : State) : Host.Outcome State Fault Refusal := copyExec (.cpyr a) (fun _ => .relay) a s

/-- cpym (R307). -/
def execCpym (a : CSlot) (s : State) : Host.Outcome State Fault Refusal := copyExec (.cpym a) (fun _ => .multi) a s

/-- cpyg (R304). -/
def execCpyg (a : CSlot) (s : State) : Host.Outcome State Fault Refusal := copyExec (.cpyg a) (fun _ => .gather) a s

/-- cpys (R304). -/
def execCpys (a : CSlot) (s : State) : Host.Outcome State Fault Refusal := copyExec (.cpys a) (fun _ => .scatter) a s

/-- cpyf (R302, R304). -/
def execCpyf (a : CSlot) (s : State) : Host.Outcome State Fault Refusal := copyExec (.cpyf a) (fun _ => .fill) a s

/-- cpyc (R308). -/
def execCpyc (a : CSlot) (s : State) : Host.Outcome State Fault Refusal :=
  copyExec (.cpyc a) (fun c => .convert (c.l.fslot a.fsSlot.toNat)) a s

/-! ### cpyx and tstamp -/

/-- An operation with no shape: its named-grove register is s(SHP) (R303). -/
def Ctx.bareOp (c : Ctx) (order : Nat) (form : CopyForm) (a : CSlot) : CopyOp :=
  let o := { c.copyOp order form a with named := c.b.sreg a.shp.toNat }
  { o with refused := o.loc == 2 && !nameClean o.named }

/-- Whether cpyx cancels a copy: any tag with TAG 0 (R312). -/
def CopyOp.cancelledBy (c : CopyOp) (grove tag : Nat) : Bool :=
  groveOf c.bough == grove && (tag == 0 || c.tag == tag) &&
    (match c.form with
      | .cancel | .stamp _ => false
      | _ => true)

/-- Copies of a grove cancelled. -/
def State.cancelCopies (s : State) (hit : CopyOp → Bool) : State :=
  { s with copies := s.copies.map fun e =>
      (e.1, { e.2 with cancelled := e.2.cancelled || (hit e.2 && (e.2.life == .waiting || e.2.life == .running)) }) }

/-- A cpyx takes effect: what it cancels is marked, and it waits for that (R312). -/
def State.cancelBy (s : State) (id : Nat) (c : CopyOp) : State :=
  let hit (x : CopyOp) : Bool := decide (x.order < c.order) && x.cancelledBy (groveOf c.bough) c.tag
  (s.cancelCopies hit).onCopy id fun x =>
    { x with life := .running, awaits := (s.copies.filter fun e => hit e.2).map (·.1) }

/-- cpyx (R312): it waits for what it cancels, at once unless an earlier fence holds it back. -/
def execCpyx (a : CSlot) (s : State) : Host.Outcome State Fault Refusal :=
  s.guarded (.cpyx a) fun c =>
    let o := c.bareOp s.nextOp .cancel a
    if s.copiesFull c.key then s.enterCopy { o with life := .over } (4 * (c.t + 2)) true .cpyxCompletion
    else if o.refused then s.enterCopy { o with life := .empty } (4 * (c.t + 2)) true .cpyxCompletion
    else
      let t := s.enterCopy o (4 * (c.t + 2)) false .cpyxCompletion
      if s.heldByOp c.key o.order then t else t.cancelBy s.nextOp o

/-- tstamp (R309). -/
def execTstamp (a : CSlot) (s : State) : Host.Outcome State Fault Refusal :=
  s.guarded (.tstamp a) fun c =>
    let o := c.bareOp s.nextOp (.stamp a.src.toNat) a
    if s.copiesFull c.key then s.enterCopy { o with life := .over } (4 * (c.t + 2)) true .tstampCompletion
    else if o.refused then s.enterCopy { o with life := .empty } (4 * (c.t + 2)) true .tstampCompletion
    else s.enterCopy o (4 * (c.t + 2)) false .tstampCompletion

end Sys2Proof.Machine
end

