-- ==== Sys2Proof/Machine/CopyRun.lean ====
section
/-!
DEFINITION. A copy at work (R304 to R316): its slot, the bytes and elements that it moves, the faults that it meets, and
its completion. A copy moves in rounds, each of which reads some of its source words and writes some of its destination lines
and words (assumption 23).
-/
namespace Sys2Proof.Machine

/-! ### Places (R300) -/

/-- Where an operand lies: from a virtual address, or from an offset of a grove's partition. -/
inductive Place where
  | global (va : Nat)
  | part (grove off : Nat)
  deriving DecidableEq, Repr

/-- The address that offsets of a place count from. -/
def Place.base : Place → Int
  | .global va => va
  | .part _ off => off

/-- The unit that a fault or a cancellation keeps whole, a line or a word (R312, R315). -/
def Place.unit (p : Place) (at_ : Int) : Int :=
  match p with
  | .global _ => at_ / 128
  | .part _ _ => at_ / 4

/-- The place of a space-tagged address. -/
def CopyOp.placeOf (c : CopyOp) (l : Launch) (x name : DWord) : Option Place :=
  match spaceOf x with
  | 0 => some (.global x.toNat)
  | 1 => some (.part (groveOf c.bough) (x.toNat % 2 ^ 20))
  | 2 => (l.named name).map fun n => .part (groveKey (launchOfKey c.bough) n) (x.toNat % 2 ^ 20)
  | _ => none

/-- The places that a copy writes: the members of its set, or one. -/
def CopyOp.targets (c : CopyOp) (l : Launch) : List Place :=
  if spaceOf c.dst = 3 then
    (l.members c.dst1 c.dst2).map fun n => .part (groveKey (launchOfKey c.bough) n) (c.dst.toNat % 2 ^ 20)
  else (c.placeOf l c.dst c.dst1).toList

/-- The place that a copy reads; none for a fill. -/
def CopyOp.source (c : CopyOp) (l : Launch) : Option Place :=
  if c.form == .fill then none else if c.preload then some (.global c.src.toNat) else c.placeOf l c.src c.src1

/-- Whether a place can be reached: its grove has been placed. -/
def State.placeReady (s : State) (p : Place) : Bool :=
  match p with
  | .global _ => true
  | .part k _ => (s.grove? k).isSome

/-- Offset of the partition in a grove image (Table 11.6). -/
def Launch.imagePart (l : Launch) : Nat := 0x8000 + 16384 * l.tileCount

/-! ### One byte -/

/-- A byte of global memory read for a copy issued on die `d`, in the view of die `v` (R306). -/
def State.globalByte (s : State) (since d v asid va : Nat) : Except XFault Byte :=
  match s.xlate d asid .read va with
  | .error f => .error f
  | .ok pa =>
    if s.poisoned pa then .error (lineFault .uncorrectable pa)
    else
      match s.sentCause since d (paHome pa) (some (paLocal pa)) with
      | some c => .error (wayFault c pa)
      | none => if s.answered since d (paHome pa) then .ok (s.viewByte v pa) else .error (xfault .trustReject)

/-- A byte of a grove's partition, wherever the grove stands (R316). -/
def State.partByte (s : State) (since : Nat) (l : Launch) (d key n : Nat) : Except XFault Byte :=
  match s.grove? key with
  | none => .ok (Config.freeByte s.free n)
  | some g =>
    match s.sentCause since d g.die none with
    | some c => .error (xfault c)
    | none =>
      if !s.answered since d g.die then .error (xfault .trustReject) else
      match g.life, g.saveAt with
      | .ended, _ =>
        if !s.workOut key then .ok (Config.freeByte s.free n)
        else if g.badBytes n 1 then .error (xfault .uncorrectable)
        else .ok (readByte g.scratch n)
      | .saved, some at_ =>
        (match s.readVa g.saveDie l.asid (at_.toNat + l.imagePart + n) 1 with
          | .ok xs => .ok (xs.headD 0)
          | .error f => .error f)
      | _, _ => if g.badBytes n 1 then .error (xfault .uncorrectable) else .ok (readByte g.scratch n)

/-- The range of a saved image in which a byte of a partition stands: die, address space, address. -/
def State.imageByte (s : State) (l : Launch) (p : Place) (at_ : Int) : Option (Nat × Nat) :=
  match p with
  | .global _ => none
  | .part key _ =>
    (s.grove? key).bind fun g =>
      match g.life, g.saveAt with
      | .saved, some b => some (g.saveDie, b.toNat + l.imagePart + at_.toNat)
      | _, _ => none

/-- A source byte (R304, Table 9.7). -/
def State.sourceByte (s : State) (since : Nat) (l : Launch) (d v : Nat) (p : Place) (at_ : Int) : Except XFault Byte :=
  match p with
  | .global _ => s.globalByte since d v l.asid (BitVec.ofInt 64 at_).toNat
  | .part key _ =>
    if at_ < 0 || (l.scratchBytes : Int) ≤ at_ then .error (xfault .scratchBounds) else s.partByte since l d key at_.toNat

/-- The die of a place at an address, and the physical address there; none for a partition. -/
def State.placeAt (s : State) (l : Launch) (d : Nat) (k : AccessKind) (p : Place) (at_ : Int) : Option (Nat × Option Nat) :=
  match p with
  | .global _ => ((s.xlate d l.asid k (BitVec.ofInt 64 at_).toNat).toOption).map fun a => (paHome a, some a)
  | .part key _ => (s.grove? key).map fun g => (g.die, none)

/-- Whether a place is on a module whose clocks are stopped and to which there is still a way: nothing of it is read or written
(R446). -/
def State.stalled (s : State) (l : Launch) (d : Nat) (k : AccessKind) (p : Place) (at_ : Int) : Bool :=
  (s.placeAt l d k p at_).any fun x => !(s.module (moduleOf x.1)).clocked && s.reaches d x.1

/-- What the writing of a byte meets (R315). -/
def State.destFault (s : State) (since : Nat) (l : Launch) (d : Nat) (p : Place) (at_ : Int) : Option XFault :=
  match p with
  | .global _ =>
    (match s.xlate d l.asid .write (BitVec.ofInt 64 at_).toNat with
      | .error f => some f
      | .ok pa => (s.sentCause since d (paHome pa) (some (paLocal pa))).map fun c => wayFault c pa)
  | .part key _ =>
    if at_ < 0 || (l.scratchBytes : Int) ≤ at_ then some (xfault .scratchBounds)
    else ((s.grove? key).bind fun g => s.sentCause since d g.die none).map xfault

/-! ### Rows -/

/-- A choice among what may be done now: some of it, never nothing (assumption 23). -/
def chosen {α : Type} (free : Nat) (key : α → Int) (xs : List α) : List α :=
  let ys := xs.filter fun x => Config.gathers free (key x).natAbs
  if ys.isEmpty then xs else ys

/-- The row of the source that row `r` reads (R304), once the index list has been read. -/
def CopyOp.srcRow (c : CopyOp) (r : Nat) : Option Nat :=
  match c.form with
  | .gather => (c.progress.index.getD []).getD r none
  | _ => some r

/-- The row of the destination that row `r` writes. -/
def CopyOp.outRow (c : CopyOp) (r : Nat) : Option Nat :=
  match c.form with
  | .scatter => (c.progress.index.getD []).getD r none
  | _ => some r

/-- The index list read (R304): a word that lies outside the partition or cannot be read is a fault. -/
def CopyOp.readIndex (c : CopyOp) (g : Grove) (l : Launch) : List (Option Nat) × List CopyFault :=
  let at_ (r : Nat) : Nat := c.idx.toNat % 2 ^ 20 + 4 * r
  let word (r : Nat) : Except CopyFault Nat :=
    match copyIndex g l c r with
    | none => .error { row := r, at_ := at_ r, cause := xfault .scratchBounds }
    | some x => if g.badBytes (at_ r) 4 then .error { row := r, at_ := at_ r, cause := xfault .uncorrectable } else .ok x
  let ws := (List.range c.rows).map word
  (ws.map Except.toOption, ws.filterMap fun w => match w with
    | .error f => some f
    | .ok _ => none)

/-- The source bytes row by row, those yet to be read with them. -/
def CopyOp.grid (c : CopyOp) : List (List (Option (Option Byte))) :=
  if c.progress.got.isEmpty then List.replicate c.rows (List.replicate c.rowBytes.1 none) else c.progress.got

/-- Whether row `r` reads and writes a row at all: its word of the index list has been read, and is none's fault (R304). -/
def CopyOp.rowLive (c : CopyOp) (r : Nat) : Bool := (c.srcRow r).isSome && (c.outRow r).isSome

/-- The address of byte `k` of row `r` at its source. -/
def CopyOp.srcAt (c : CopyOp) (p : Place) (r k : Nat) : Int := p.base + ((c.srcRow r).getD 0 : Nat) * c.spitch + (k : Int)

/-- Whether a copy owned its lines before another: it writes what both write first (R313, assumption 157). -/
def CopyOp.before (c x : CopyOp) : Bool :=
  match c.owns, x.owns with
  | some m, some n => decide (m < n) || (m == n && decide (c.order < x.order))
  | some _, none => true
  | _, _ => false

/-- Whether a byte of global memory is on one of a list of lines. -/
def State.onLines (s : State) (lines : List Nat) (l : Launch) (d : Nat) (k : AccessKind) (p : Place) (at_ : Int) : Bool :=
  match p with
  | .part _ _ => false
  | .global _ =>
    !lines.isEmpty &&
      (match s.xlate d l.asid k (BitVec.ofInt 64 at_).toNat with
        | .error _ => false
        | .ok pa => lines.contains (pa / 128))

/-- The source bytes that may be read now, by row, number and address (R148): in the copy's own partition once every write up
to issue + 2 has landed; on no line that another copy came to own before (R147, R313). -/
def State.readable (s : State) (c : CopyOp) (g : Grove) (l : Launch) (p : Place) : List (Nat × Nat × Int) :=
  let own := match p with
    | .part k _ => k == groveOf c.bough
    | .global _ => false
  if own && decide (s.bc < c.issued + 3) then []
  else
    let held := s.ownedLines fun x => x.before c
    (c.grid.zipIdx.map fun row =>
      if !c.rowLive row.2 then []
      else row.1.zipIdx.filterMap fun b =>
        let a := c.srcAt p row.2 b.2
        if b.1.isSome || s.onLines held l g.die .read p a ||
            ((s.imageByte l p a).any fun x => s.rangeOn held x.1 l.asid x.2 1) || s.stalled l g.die .read p a then none else some (row.2, b.2, a)).flatten

/-- Some of the source words that may be read now are read. -/
def State.readSome (s : State) (c : CopyOp) (g : Grove) (l : Launch) (v : Nat) (p : Place) : CopyProgress :=
  let picked := (chosen s.free (fun (e : Nat × Nat × Int) => e.2.2 / 4) (s.readable c g l p)).map fun e =>
    (e, s.sourceByte c.issuedCc l g.die v p e.2.2)
  { c.progress with
    got := c.grid.zipIdx.map fun row =>
      let mine := picked.filter fun e => e.1.1 == row.2
      if mine.isEmpty then row.1
      else row.1.zipIdx.map fun b => ((mine.find? fun e => e.1.2.1 == b.2).map fun e => e.2.toOption).or b.1
    faults := c.progress.faults ++ picked.filterMap fun e => match e.2 with
      | .ok _ => none
      | .error f => some { row := e.1.1, at_ := e.1.2.2, cause := f } }

/-- The bytes of a source row, once every one has been read. -/
def CopyOp.rowRead (c : CopyOp) (r : Nat) : Option (List (Option Byte)) := (c.grid.getD r []).mapM fun b => b

/-- Row `r` of a copy that converts nothing (R304), once it can be made. -/
def CopyOp.plainRow (c : CopyOp) (r : Nat) : Option CopyRow :=
  match c.form, c.srcRow r, c.outRow r with
  | .fill, _, _ =>
    some { row := r, start := r * c.dpitch,
           bytes := (List.range c.rlen).map fun k => some (BitVec.ofNat 8 (bitsOf c.src.toNat (8 * (k % 8)) 8)) }
  | _, none, _ => some { row := r, start := r * c.dpitch, bytes := List.replicate c.rlen none }
  | _, _, none => some { row := r, start := 0, bytes := [] }
  | _, some _, some dr => (c.rowRead r).map fun bs => { row := r, start := dr * c.dpitch, bytes := bs }

/-! ### Conversion (R308) -/

/-- The codes of a row's elements. -/
def elemCodes (bits n : Nat) (bytes : List (Option Byte)) : List (Option Nat) :=
  (List.range n).map fun x =>
    if bits = 4 then (bytes.getD (x / 2) none).map fun b => b.toNat / 16 ^ (x % 2) % 16
    else (((bytes.drop (bits / 8 * x)).take (bits / 8)).mapM fun b => b).map natOfBytes

/-- The bytes of a row's codes. -/
def elemBytes (bits : Nat) (codes : List (Option Nat)) : List (Option Byte) :=
  if bits = 4 then
    (List.range (codes.length / 2)).map fun i =>
      match codes.getD (2 * i) none, codes.getD (2 * i + 1) none with
      | some x, some y => some (BitVec.ofNat 8 (x + 16 * y))
      | _, _ => none
  else (codes.map fun c => match c with
    | some x => (bytesOfNat (bits / 8) x).map some
    | none => List.replicate (bits / 8) none).flatten

/-- Address of the side list of a slot (R109). -/
def Launch.sideList (l : Launch) (slot : FSlot) : Nat := (l.params.getD slot.side 0).toNat

/-- Address and bytes of the side information of element x of row r, rows having n elements (R109, R308). -/
def sideAt (l : Launch) (slot : FSlot) (c : CopyOp) (n r x : Nat) : Nat × Nat :=
  match slot.scale with
  | 1 => (l.sideList slot + 8 * (r * (n / 32) + x / 32 + c.sidx), 8)
  | 2 => (l.sideList slot + 4 * (r + c.sidx), 4)
  | _ => (l.sideList slot + 4 * (x + c.sidx), 4)

/-- The side information read for an element. -/
def State.readSide (s : State) (l : Launch) (d : Nat) (slot : FSlot) (c : CopyOp) (n r x : Nat) : Except CopyFault Side :=
  if slot.scale = 0 then .ok .none
  else
    let a := sideAt l slot c n r x
    match s.readVa d l.asid a.1 a.2 with
    | .error f => .error { row := r, at_ := a.1, cause := f }
    | .ok bytes =>
      let w := natOfBytes bytes
      if slot.scale = 1 then .ok (.block (BitVec.ofNat 32 w) (BitVec.ofNat 8 (w / 2 ^ 32)))
      else .ok (.factor (BitVec.ofNat 32 w))

/-- The range of a copy's side list: its address and bytes. -/
def CopyOp.sideRange (c : CopyOp) (l : Launch) (slot : FSlot) : Nat × Nat :=
  let a := sideAt l slot c c.rlen 0 0
  let z := sideAt l slot c c.rlen (c.rows - 1) (c.rlen - 1)
  if slot.scale = 0 then (0, 0) else (a.1, z.1 + z.2 - a.1)

/-- A destination code of each element, with the flags and faults of the row. -/
structure ConvRow where
  codes : List (Option Nat)
  sides : List (Nat × List Byte)
  flags : Flags
  faults : List CopyFault
  deriving DecidableEq, Repr

/-- Escapes before element x in its block (R110). -/
def rowEscapes (codes : List (Option Nat)) (x : Nat) : Nat :=
  ((List.range (x % 32)).filter fun i => codes.getD (x / 32 * 32 + i) none == some 8).length

/-- A row expanded: elem_value, then round rne with SAT 0 (R110, R308). -/
def State.expandRow (s : State) (l : Launch) (d : Nat) (slot : FSlot) (c : CopyOp) (r : Nat) (codes : List (Option Nat)) :
    ConvRow :=
  let f := if c.conv = 0 then FFmt.fp32 else FFmt.bf16
  let one (x : Nat) : Option Nat × Flags × List CopyFault :=
    match codes.getD x none, s.readSide l d slot c codes.length r x with
    | none, _ => (none, 0, [])
    | _, .error e => (none, 0, [e])
    | some code, .ok side =>
      let y := roundWith f .rne false (elemValue slot slot.planes code (rowEscapes codes x) side)
      (some y.1, y.2, [])
  let rs := (List.range codes.length).map one
  { codes := rs.map (·.1), sides := [], flags := orFlags (rs.map (·.2.1)), faults := (rs.map (·.2.2)).flatten }

/-- A row narrowed as qnt narrows a bough (R292, R293, R308); `draw x` is the draw of element x. -/
def State.narrowRow (s : State) (l : Launch) (d : Nat) (slot : FSlot) (c : CopyOp) (r : Nat) (draw : Nat → BitVec 64)
    (codes : List (Option Nat)) : ConvRow :=
  let f := if c.conv = 2 then FFmt.fp32 else FFmt.bf16
  let n := codes.length
  let vals := (List.range n).filterMap fun x => (codes.getD x none).map fun k => (x, valOf f k)
  if slot.scale = 1 then
    let blocks := (List.range (n / 32)).map fun b => (b, quantBlock slot draw (vals.filter fun v => v.1 / 32 == b))
    let all := (blocks.map fun b => b.2.codes).flatten
    { codes := (List.range n).map fun x => (all.lookup x).map (·.1)
      sides := blocks.map fun b => ((sideAt l slot c n r (32 * b.1)).1,
        bytesOfNat 4 b.2.sidew.toNat ++ [b.2.scale8, 0, 0, 0])
      flags := orFlags (blocks.map fun b => b.2.flags), faults := [] }
  else
    let one (v : Nat × FVal) : Nat × Option Nat × Flags × List CopyFault :=
      match s.readSide l d slot c n r v.1 with
      | .error e => (v.1, none, 0, [e])
      | .ok side =>
        let q := match side with
          | .factor w => v.2.over (valOf .fp32 w.toNat)
          | _ => (v.2, 0)
        let y := slot.conv (draw v.1) q.1
        (v.1, some y.1, y.2 ||| q.2, [])
    let rs := vals.map one
    { codes := (List.range n).map fun x => ((rs.lookup x).map (·.1)).getD none
      sides := [], flags := orFlags (rs.map (·.2.2.1)), faults := (rs.map (·.2.2.2)).flatten }

/-- The misaligned addresses of a conversion: nothing moves when there is one (R308, R109). -/
def CopyOp.misaligned (c : CopyOp) (l : Launch) (slot : FSlot) (src dst : Place) : List CopyFault :=
  let b := convBits slot c.conv
  let bad (row : Nat) (at_ : Int) (bytes : Nat) : List CopyFault :=
    if bytes ≤ 1 || at_ % bytes == 0 then [] else [{ row := row, at_ := at_, cause := xfault .misaligned }]
  (if slot.scale = 0 then [] else bad 0 (l.sideList slot) (if slot.scale = 1 then 8 else 4)) ++
    ((List.range c.rows).map fun r =>
      bad r (src.base + r * c.spitch) (b.1 / 8) ++ bad r (dst.base + r * c.dpitch) (b.2 / 8)).flatten

/-- Row `r` of a conversion, from its source bytes: the row, its side records, its flags and faults. -/
def State.convRow (s : State) (c : CopyOp) (g : Grove) (l : Launch) (slot : FSlot) (dst : Place) (r : Nat)
    (bytes : List (Option Byte)) : CopyRow × ConvRow :=
  let b := convBits slot c.conv
  let codes := elemCodes b.1 c.rlen bytes
  let draw (i : Nat) : BitVec 64 :=
    drawOf l.seed (BitVec.ofInt 32 (dst.base + r * c.dpitch + (i * b.2 / 8 : Nat))) 65 c.pc 0
  let y := if c.conv ≤ 1 then s.expandRow l g.die slot c r codes else s.narrowRow l g.die slot c r draw codes
  ({ row := r, start := r * c.dpitch, bytes := elemBytes b.2 y.codes }, y)

/-- Whether a copy's side list waits for another that owns a line of it (R147). -/
def State.sideHeld (s : State) (c : CopyOp) (g : Grove) (l : Launch) (slot : FSlot) : Bool :=
  slot.scale != 0 && s.rangeOn (s.ownedLines fun x => x.before c) g.die l.asid (c.sideRange l slot).1 (c.sideRange l slot).2

/-- Rows that can be made and have not been are made. -/
def State.makeRows (s : State) (c : CopyOp) (g : Grove) (l : Launch) : CopyProgress :=
  (List.range c.rows).foldl (fun p r =>
    if (p.rows.any fun x => x.row == r) || (c.form.indexed && p.index.isNone) then p
    else
      match c.form, (c.targets l).head? with
      | .convert slot, some dst =>
        (match c.rowRead r, s.sideHeld c g l slot with
          | none, _ | _, true => p
          | some bs, false =>
            let y := s.convRow c g l slot dst r bs
            { p with rows := p.rows ++ [y.1], sides := p.sides ++ y.2.sides.map fun z => (r, z.1, z.2)
                     flags := p.flags ||| y.2.flags, faults := p.faults ++ y.2.faults })
      | _, _ =>
        match c.plainRow r with
        | none => p
        | some x => { p with rows := p.rows ++ [x] }) c.progress

/-- The die that carries a copy out: a relay's is that of its source (R306). -/
def State.copyCarrier (s : State) (c : CopyOp) (g : Grove) (l : Launch) : Nat :=
  match c.form, c.source l with
  | .relay, some (.global va) =>
    (match s.xlate g.die l.asid .read va with
      | .ok pa => paHome pa
      | .error _ => g.die)
  | .relay, some (.part k _) => ((s.grove? k).map (·.die)).getD g.die
  | _, _ => g.die

/-! ### Landing -/

/-- Bytes of one line of global memory written as a whole for a bough: as a store's (R147, Table 4.3); the write's number. -/
def State.copyWrite (s : State) (d bough : Nat) (cells : List Host.Cell) : Nat × State :=
  let home := paHome ((cells.head?.map (·.1)).getD 0)
  if atHome d home then
    let w := s.originate home bough 4 cells
    (w.1, w.2.spread w.1)
  else
    let w := s.sendWrite d home bough 4 cells
    (w.1, w.2.later (s.cc + 1) (.homeAccess w.1 0 false))

/-- Bytes of one unit written to a place: a line of global memory, or a word of a partition wherever its grove stands
(R316); the numbers of the writes made. A byte for a saved partition whose image takes no write is lost (assumption 147). -/
def State.putBytes (s : State) (l : Launch) (bough d : Nat) (p : Place) (bytes : List (Int × Byte)) : List Nat × State :=
  match p with
  | .global _ =>
    let va (x : Int × Byte) : Nat := (BitVec.ofInt 64 x.1).toNat
    let cells := bytes.foldl (fun (m : Table Byte) x =>
      match s.xlate d l.asid .write (va x) with
      | .ok pa => tput m pa x.2
      | .error _ => m) []
    if cells.isEmpty then ([], s)
    else
      let w := (bytes.foldl (fun s x => s.touch d l.asid (va x)) s).copyWrite d bough cells
      ([w.1], w.2)
  | .part key _ =>
    match s.grove? key with
    | none => ([], s)
    | some g =>
      match g.life, g.saveAt with
      | .ended, _ =>
        ([], if s.workOut key then s.onGrove key fun g => g.scratchWrite (bytes.map fun x => (x.1.toNat, x.2)) else s)
      | .saved, some at_ =>
        ([], bytes.foldl (fun s x =>
          let y := s.tryWrite g.saveDie l.asid (at_.toNat + l.imagePart + x.1.toNat) [x.2]
          if y.2 then y.1 else y.1.dropped (launchOfKey bough)) s)
      | _, _ => ([], s.onGrove key fun g => g.scratchWrite (bytes.map fun x => (x.1.toNat, x.2)))

/-- The bytes that the rows made put at a place, with their rows and addresses, the last row's above the others' (R304). -/
def CopyOp.hits (c : CopyOp) (p : Place) : List (Nat × Int × Option Byte) :=
  ((List.range c.rows).map fun r => ((c.progress.rows.filter fun x => x.row == r).map fun x =>
    x.bytes.zipIdx.map fun b => (r, p.base + x.start + (b.2 : Int), b.1)).flatten).flatten

/-- The first and the last unit of a row at a place. -/
def CopyOp.rowUnits (c : CopyOp) (p : Place) (r : Nat) : Option (Int × Int) :=
  (c.outRow r).map fun dr =>
    let a := p.base + dr * c.dpitch
    (p.unit a, p.unit (a + c.rowBytes.2 - 1))

/-- Whether a row has been made. -/
def CopyOp.rowMade (c : CopyOp) (r : Nat) : Bool := c.progress.rows.any fun x => x.row == r

/-- Whether a row that is yet to be made will put bytes into a unit. -/
def CopyOp.awaited (c : CopyOp) (p : Place) (u : Int) : Bool :=
  (List.range c.rows).any fun r => !c.rowMade r && (c.rowUnits p r).any fun x => decide (x.1 ≤ u) && decide (u ≤ x.2)

/-- The units that the rows made write at a place and that the copy is not done with. -/
def CopyOp.unitsLeft (c : CopyOp) (i : Nat) (p : Place) : List Int :=
  ((((List.range c.rows).filter c.rowMade).map fun r =>
    match c.rowUnits p r with
    | none => []
    | some x => (List.range (x.2 - x.1 + 1).toNat).map fun (n : Nat) => x.1 + (n : Int)).flatten.filter fun u =>
      !c.progress.landed.contains (i, u)).eraseDups

/-- The units of a target that can be written now. -/
def State.landable (s : State) (c : CopyOp) (g : Grove) (l : Launch) (i : Nat) (p : Place) : List Int :=
  if c.form.indexed && c.progress.index.isNone then []
  else
    let held := s.ownedLines fun x => x.before c
    if !s.placeReady p then [] else
    (c.unitsLeft i p).filter fun u => !c.awaited p u && !s.onLines held l g.die .write p (128 * u) && !s.stalled l g.die .write p (128 * u)

/-- The die keeps the translations of the addresses that a copy writes (R127). -/
def State.touchHits (s : State) (l : Launch) (d : Nat) (p : Place) (xs : List Int) : State :=
  match p with
  | .global _ => xs.foldl (fun s x => s.touch d l.asid (BitVec.ofInt 64 x).toNat) s
  | .part _ _ => s

/-- One unit of a target written, or left as it is where a byte of it faults (R315); one whose response is rejected faults all the
same (R417). -/
def State.landUnit (s : State) (c : CopyOp) (g : Grove) (l : Launch) (i : Nat) (p : Place) (u : Int) : CopyProgress × State :=
  let hits := (c.hits p).filter fun h => p.unit h.2.1 == u
  let faults := hits.filterMap fun h =>
    (s.destFault c.issuedCc l g.die p h.2.1).map fun f => (i, ({ row := h.1, at_ := h.2.1, cause := f } : CopyFault))
  let refused := (hits.filter fun h => ((s.placeAt l g.die .write p h.2.1).any fun x => !s.answered c.issuedCc g.die x.1)).map fun h =>
    (i, ({ row := h.1, at_ := h.2.1, cause := xfault .trustReject } : CopyFault))
  let q := { c.progress with landed := (i, u) :: c.progress.landed,
                             putFaults := c.progress.putFaults ++ faults ++ if faults.isEmpty then refused else [] }
  if !faults.isEmpty || hits.any fun h => h.2.2.isNone then (q, s.touchHits l g.die p (hits.map (·.2.1)))
  else
    let w := s.putBytes l c.bough g.die p (hits.filterMap fun h => h.2.2.map fun b => (h.2.1, b))
    ({ q with sent := q.sent ++ w.1 }, w.2)

/-! ### What the links carry for a copy (R371, R377) -/

/-- Bytes from an address up in pieces that a flit carries: within 256 bytes and one 64 KiB page, whose bytes have one home. -/
def pieces : Nat → Int → List Byte → List (Int × List Byte)
  | 0, _, _ => []
  | fuel + 1, a, bs =>
    if bs.isEmpty then []
    else
      let n := min 256 (65536 - (a % 65536).toNat)
      (a, bs.take n) :: pieces fuel (a + n) (bs.drop n)

/-- The pieces of a row of source bytes, by address. -/
def CopyOp.sourcePieces (c : CopyOp) (p : Place) (r : Nat) : List (Int × List Byte) :=
  if (c.srcRow r).isNone then []
  else pieces c.rowBytes.1 (c.srcAt p r 0) ((c.grid.getD r []).map fun b => (b.bind id).getD 0)

/-- The pieces of a row at a place, by address. -/
def CopyRow.pieces (r : CopyRow) (p : Place) : List (Int × List Byte) :=
  Sys2Proof.Machine.pieces r.bytes.length (p.base + r.start) (r.bytes.map fun b => b.getD 0)

/-- Flits of rows of a copy: the homes of its source answer the engine, and the engine sends each destination its bytes, a cpym's in
multicast flits; a relay's go from the source's die, which the issuing die only asks (R306). -/
def State.carryCopy (s : State) (id : Nat) (c : CopyOp) (g : Grove) (l : Launch) (rows : List CopyRow) : State :=
  if rows.isEmpty then s
  else
  let d := g.die
  let from_ := s.copyCarrier c g l
  let s := if from_ = d then s else s.request d from_ 0 .copy id none [] []
  let t := match c.source l with
    | none => s
    | some p => ((rows.map fun r => c.sourcePieces p r.row).flatten).foldl (fun t x =>
        match s.placeAt l d .read p x.1 with
        | some (e, pa) => t.request from_ e 0 .copy id pa [] x.2
        | none => t) s
  if spaceOf c.dst = 3 then
    let ms := ((c.targets l).filterMap fun p => (s.placeAt l d .write p p.base).map (·.1)).eraseDups
    ((rows.map fun r => r.pieces (.part 0 0)).flatten).foldl (fun t x => t.injectMulti from_ ms id x.2) t
  else
    (c.targets l).foldl (fun t p =>
      ((rows.map fun r => r.pieces p).flatten).foldl (fun t x =>
        match s.placeAt l d .write p x.1 with
        | some (e, pa) => t.request from_ e 0 .copy id pa x.2 []
        | none => t) t) t

/-- A side record written (R308); one whose own address faults is not. -/
def State.landSide (s : State) (c : CopyOp) (g : Grove) (l : Launch) (x : Nat × Nat × List Byte) : CopyProgress × State :=
  let p := { c.progress with sides := c.progress.sides.filter (· != x) }
  match s.writeVa g.die l.asid x.2.1 x.2.2 with
  | .ok t => (p, t)
  | .error f =>
    ({ p with faults := p.faults ++ [{ row := x.1, at_ := x.2.1, cause := f }] }, s.touchRange g.die l.asid x.2.1 x.2.2.length)

/-! ### One round -/

/-- A copy with its progress. -/
def CopyOp.at (c : CopyOp) (p : CopyProgress) : CopyOp := { c with progress := p }

/-- The index list is read, in the copy's own partition (R148). -/
def State.indexRound (s : State) (c : CopyOp) (g : Grove) (l : Launch) : CopyOp :=
  if c.form.indexed && c.progress.index.isNone && decide (c.issued + 3 ≤ s.bc) then
    let x := c.readIndex g l
    c.at { c.progress with index := some x.1, faults := c.progress.faults ++ x.2 }
  else c

/-- Some source words are read; the die keeps the translations (R127). -/
def State.readRound (s : State) (c : CopyOp) (g : Grove) (l : Launch) : CopyOp × State :=
  match c.source l with
  | none => (c, s)
  | some p =>
    if c.form.indexed && c.progress.index.isNone then (c, s)
    else
      let now := s.readable c g l p
      if now.isEmpty then (c, s)
      else
        let t := now.foldl (fun (t : State) (x : Nat × Nat × Int) =>
          match p, s.imageByte l p x.2.2 with
          | .global _, _ => t.touch g.die l.asid (BitVec.ofInt 64 x.2.2).toNat
          | .part _ _, some y => t.touch y.1 l.asid y.2
          | .part _ _, none => t) s
        let t := match p with
          | .global _ => t.seenNow c.bough c.order g.die
          | .part _ _ => t
        (c.at (s.readSome c g l (s.copyCarrier c g l) p), { t with free := s.free + 1 })

/-- Some units of every target are written, and some side records. -/
def State.landRound (s : State) (c : CopyOp) (g : Grove) (l : Launch) : CopyOp × State :=
  let r := (c.targets l).zipIdx.foldl (fun (q : CopyOp × State) p =>
    let us := q.2.landable q.1 g l p.2 p.1
    if us.isEmpty then q
    else
      (chosen q.2.free (fun u => u) us).foldl (fun q u =>
        let x := q.2.landUnit q.1 g l p.2 p.1 u
        (q.1.at x.1, x.2)) (q.1, { q.2 with free := q.2.free + 1 })) (c, s)
  if r.1.progress.sides.isEmpty then r
  else
    (chosen r.2.free (fun (x : Nat × Nat × List Byte) => (x.2.1 : Int)) r.1.progress.sides).foldl (fun q x =>
      let y := q.2.landSide q.1 g l x
      (q.1.at y.1, y.2)) (r.1, { r.2 with free := r.2.free + 1 })

/-- What a copy cannot move: a conversion with misaligned addresses moves nothing (R308). -/
def CopyOp.stuck (c : CopyOp) (l : Launch) : List CopyFault :=
  match c.form, c.source l, (c.targets l).head? with
  | .convert slot, some src, some dst => c.misaligned l slot src dst
  | _, _, _ => []

/-- Whether a copy has nothing more to read or write: a set without a member moves nothing (R307). -/
def CopyOp.moved (c : CopyOp) (l : Launch) : Bool :=
  (c.targets l).isEmpty || c.stuck l != [] ||
    ((List.range c.rows).all c.rowMade && c.progress.sides.isEmpty &&
      (c.targets l).zipIdx.all fun p => (c.unitsLeft p.2 p.1).isEmpty)

/-- What a copy has moved: words read, bytes of which have been counted one by one, and words of the units written. -/
def CopyProgress.moves (p : CopyProgress) : Nat := (p.got.map fun r => r.countP Option.isSome).sum + 32 * p.landed.length

/-- The cores in whose scratchpads a copy moves. -/
def State.copyCores (s : State) (c : CopyOp) (l : Launch) : List Nat :=
  (((c.source l).toList ++ c.targets l).filterMap fun p => match p with
    | .part k _ => (s.grove? k).map (·.core)
    | .global _ => none).eraseDups

/-- The die keeps the translations of a conversion's side list (R127). -/
def State.touchSides (s : State) (c : CopyOp) (g : Grove) (l : Launch) : State :=
  match c.form with
  | .convert slot => if slot.scale = 0 then s else s.touchRange g.die l.asid (c.sideRange l slot).1 (c.sideRange l slot).2
  | _ => s

/-- One round of a copy (R148, R149, R304). -/
def State.moveCopy (s : State) (id : Nat) (c : CopyOp) (g : Grove) (l : Launch) : State :=
  if c.moved l then s
  else
    let c1 := s.indexRound c g l
    let x := s.readRound c1 g l
    let made := x.2.makeRows x.1 g l
    let x := (x.1, if made.rows.length = x.1.progress.rows.length then x.2 else x.2.touchSides c g l)
    let t := x.2.carryCopy id x.1 g l (made.rows.drop x.1.progress.rows.length)
    let y := t.landRound (x.1.at made) g l
    let n := y.1.progress.moves - c1.progress.moves
    (s.copyCores c l).foldl (fun t core => t.shareBanks core n) (y.2.onCopy id fun _ => y.1)

/-! ### Completion -/

/-- The groves whose flags receive the increment (Table 9.2); a refused operation posts to its own (R305). -/
def CopyOp.loci (c : CopyOp) (l : Launch) : List (Option Nat) :=
  let own := some (groveOf c.bough)
  if c.refused then [own]
  else
    match c.loc with
    | 0 => [own]
    | 1 => (c.targets l).map fun p => match p with
      | .part k _ => some k
      | .global _ => own
    | _ => [(l.named c.named).map (groveKey (launchOfKey c.bough))]

/-- The first fault, in row order, then address order (R315). -/
def firstFault (fs : List CopyFault) : Option CopyFault :=
  fs.foldl (fun a f =>
    match a with
    | none => some f
    | some x => if f.row < x.row || (f.row == x.row && decide (f.at_ < x.at_)) then some f else some x) none

/-- The fault record of a copy (R315). -/
def CopyOp.faultInfo (c : CopyOp) (cause : Byte) (va aux : DWord) : FaultInfo :=
  { cause := cause, pc := c.pc, lanes := 0, va := va, aux := aux, src := 1, bid := c.bid, iids := zeroLanes }

/-- What a completion says: a fault, or an enabled flag raised (R117). `free` stands for an address that none is given. -/
def CopyOp.ending (c : CopyOp) (l : Launch) (free : DWord) (fs : List CopyFault) (flags : Flags) : Option FaultInfo :=
  match firstFault fs with
  | some f => some (c.faultInfo f.cause.1 (BitVec.ofInt 64 f.at_) f.cause.2)
  | none => if enabledRaised l.fpen flags then some (c.faultInfo Cause.fpException.code free 0) else none

/-- The die from which a copy's completion comes: of a relay that has moved, that of its source (R306). -/
def State.completionDie (s : State) (c : CopyOp) : Option Nat :=
  (s.opHome c.bough).map fun h => if c.life == .running then s.copyCarrier c h.1 h.2 else h.1.die

/-- An increment of a copy reaches a flag, or is dropped (R298, R311); a killed launch's copies post nothing (R317). -/
def State.postCopy (s : State) (c : CopyOp) (key : Option Nat) (x : Option FaultInfo) : State :=
  let lid := launchOfKey c.bough
  if s.killedLaunch lid then s
  else
    match key with
    | none => s.dropped lid
    | some k =>
      let lost := match s.completionDie c, s.grove? k with
        | some d, some g => d != g.die && (s.sentCause c.issuedCc d g.die none).isSome
        | _, _ => false
      if lost then s.dropped lid else s.reachFlag lid k (.complete c.flag c.inc x)

/-- A copy is no longer outstanding. -/
def State.dropCopy (s : State) (id : Nat) : State := { s with copies := tdel s.copies id }

/-- An operation that was refused, beyond its limit, or without bytes completes (R304, R305, R310). -/
def State.endUnmoved (s : State) (id : Nat) (c : CopyOp) (l : Launch) : State :=
  let bad := c.refused || c.life == .over
  let x := if bad then some (c.faultInfo Cause.illegalState.code (Config.freeWord s.free) 0) else none
  let t := { s.dropCopy id with free := s.free + 1 }
  (c.loci l).foldl (fun t k => t.postCopy c k x) t

/-- Whether the groves that an operation posts to have been placed: its increments are delivered wherever they then run
(R311). -/
def State.lociReady (s : State) (c : CopyOp) (l : Launch) : Bool :=
  l.life == .killed || (c.loci l).all fun k => (k.map fun k => (s.grove? k).isSome).getD true

/-- Whether a copy's data can start: the grove that it reads is placed, or else one that it writes, and it owns its lines or may come
to own them now (R147). -/
def State.mayBegin (s : State) (c : CopyOp) (l : Launch) : Bool :=
  (match c.source l with
    | some p => s.placeReady p
    | none => (c.targets l).any s.placeReady) && (c.owns.isSome || s.linesFree c)

/-- Whether every write that a copy has made stands at every point of Table 4.3 (R147, R311). -/
def State.copySettled (s : State) (c : CopyOp) : Bool := !s.writes.any fun w => c.progress.sent.contains w.1

/-- Whether every byte for the target of a number has landed. -/
def CopyOp.targetMoved (c : CopyOp) (l : Launch) (i : Nat) : Bool :=
  c.stuck l != [] || ((List.range c.rows).all c.rowMade && c.progress.sides.isEmpty &&
    ((c.targets l)[i]?).any fun p => (c.unitsLeft i p).isEmpty)

/-- The increments that a copy may post now, by their number, with their groves: no earlier than issue + 8 (R314), to groves that are
placed, once its writes have settled; under LOC .dst a member's once its own rows have landed, else all together once the copy has
moved or stopped (R307, R311, R312). -/
def State.duePosts (s : State) (c : CopyOp) (l : Launch) : List (Option Nat × Nat) :=
  if s.bc < c.issued + 8 || !s.copySettled c then []
  else
    let placed (e : Option Nat × Nat) : Bool := l.life == .killed || (e.1.map fun k => (s.grove? k).isSome).getD true
    let left := (c.loci l).zipIdx.filter fun e => !c.progress.posted.contains e.2
    if c.loc = 1 && !c.cancelled then left.filter fun e => placed e && c.targetMoved l e.2
    else if (c.cancelled || c.moved l) && left.all placed then left
    else []

/-- Whether a copy has nothing more to do: moved or stopped, its writes settled, every increment posted. -/
def State.copyOver (s : State) (c : CopyOp) (l : Launch) : Bool :=
  decide (c.issued + 8 ≤ s.bc) && s.copySettled c && (c.cancelled || c.moved l) &&
    (c.loci l).zipIdx.all fun e => c.progress.posted.contains e.2

/-- Increments of a copy posted, and the copy ended once there are no more (R304, R307, R311, R312, R315). -/
def State.postDue (s : State) (id : Nat) (c : CopyOp) (l : Launch) : State :=
  let due := s.duePosts c l
  let p := { c.progress with posted := c.progress.posted ++ due.map (·.2) }
  let word (i : Nat) : Option FaultInfo :=
    if c.cancelled then none
    else c.ending l (Config.freeWord s.free)
      (p.faults ++ c.stuck l ++ (p.putFaults.filter fun f => c.loc != 1 || f.1 == i).map (·.2)) p.flags
  let ends := s.copyOver (c.at p) l
  let t := if ends then s.dropCopy id else if due.isEmpty then s else s.onCopy id fun _ => c.at p
  let t := if ends && !c.cancelled then t.raiseFlags c.bough p.flags else t
  let t := if due.isEmpty then t else { t with free := t.free + 1 }
  due.foldl (fun t e => t.postCopy c e.1 (word e.2)) t

/-- A copy begins to move: it owns its destination lines, and its tag is stamped (R147, R309). -/
def State.beginCopy (s : State) (id : Nat) (c : CopyOp) : State :=
  (s.onCopy id fun _ => { c.at { c.progress with begun := true } with owns := some (c.owns.getD s.nextOp) }).stamp (groveOf c.bough)
    c.tag .copyStart

/-- The last byte of a copy has landed (R309, R311). -/
def State.stampLanding (s : State) (id : Nat) (c : CopyOp) (l : Launch) : State :=
  if c.progress.begun && !c.progress.landedAll && !c.cancelled && c.moved l && s.copySettled c then
    (s.onCopy id fun _ => c.at { c.progress with landedAll := true }).stamp (groveOf c.bough) c.tag .copyLand
  else s

/-- What a copy in a slot does next: its data start; from the next core cycle on a round of it moves, its landing is stamped and its
increments are posted. -/
def State.runCopy (s : State) (id : Nat) (c : CopyOp) (g : Grove) (l : Launch) : State :=
  if !c.progress.begun && !c.moved l && s.mayBegin c l then s.beginCopy id c
  else
    let t := if c.progress.begun then s.moveCopy id c g l else s
    let t := match tget t.copies id with
      | some x => t.stampLanding id x l
      | none => t
    match tget t.copies id with
    | some x => t.postDue id x l
    | none => t

/-- COPY_COMPLETION (R148, R149, R304, R311, R312, R314, R315): a round of the copy, or its end. One that was cancelled
moves nothing more, and completes once its writes have settled. -/
def execCopyCompletion (id : Nat) (s : State) : Host.Outcome State Fault Refusal :=
  match tget s.copies id with
  | none => .next s
  | some c =>
    match s.opHome c.bough with
    | none => .next (s.dropCopy id)
    | some (g, l) =>
      match c.life with
      | .empty | .over => if s.bc < c.issued + 2 || !s.lociReady c l then .next s else .next (s.endUnmoved id c l)
      | _ =>
        let t := if c.cancelled then s.postDue id c l else if c.life == .running then s.runCopy id c g l else s
        .next (if t = s || (tget t.copies id).isNone then t else t.later (s.cc + 1) (.copyCompletion id))

/-- Copies of a core that are in flight (R310). -/
def State.copiesRunning (s : State) (core : Nat) : Nat :=
  (s.copies.filter fun e => e.2.life == .running &&
    (match e.2.form with | .cancel => false | _ => true) &&
    ((s.grove? (groveOf e.2.bough)).map (·.core)) == some core).length

/-- Whether a waiting copy is the next of its core: nothing holds it, and none issued before it could start (R310). -/
def State.copyNext (s : State) (id : Nat) (c : CopyOp) (core : Nat) : Bool :=
  !s.heldByOp c.bough c.order &&
    s.copies.all fun e => decide (id ≤ e.1) || e.2.life != .waiting || e.2.cancelled ||
      (match e.2.form with | .cancel | .stamp _ => true | _ => false) || s.heldByOp e.2.bough e.2.order ||
      ((s.grove? (groveOf e.2.bough)).map (·.core)) != some core

/-- A copy takes a slot, and its rounds begin. -/
def State.startCopy (s : State) (id : Nat) (c : CopyOp) : State :=
  (s.onCopy id fun x => { x with life := .running }).later (max (s.cc + 1) (4 * (c.issued + 2))) (.copyCompletion id)

/-- COPY_START (R310): a copy takes a slot; one cancelled before it started only completes. -/
def execCopyStart (id : Nat) (s : State) : Host.Outcome State Fault Refusal :=
  match tget s.copies id with
  | none => .next s
  | some c =>
    match s.grove? (groveOf c.bough) with
    | none => .next (s.dropCopy id)
    | some g =>
      if c.life != .waiting then .next s
      else if c.cancelled then .next (s.later (s.cc + 1) (.copyCompletion id))
      else if s.copyNext id c g.core && decide (s.copiesRunning g.core < Config.copySlots) then .next (s.startCopy id c)
      else .next s

/-- CPYX_COMPLETION (R312): one that an earlier fence holds back cancels once that has completed (R140, R141); it
completes when every copy that it cancels has posted. -/
def execCpyxCompletion (id : Nat) (s : State) : Host.Outcome State Fault Refusal :=
  match tget s.copies id with
  | none => .next s
  | some c =>
    match s.opHome c.bough with
    | none => .next (s.dropCopy id)
    | some (_, l) =>
      if s.bc < c.issued + 2 then .next s
      else
        match c.life with
        | .empty | .over => if s.lociReady c l then .next (s.endUnmoved id c l) else .next s
        | .waiting =>
          if s.heldByOp c.bough c.order then .next s
          else .next ((s.cancelBy id c).later (s.cc + 1) (.cpyxCompletion id))
        | .running =>
          if c.awaits.any (fun a => (tget s.copies a).isSome) || !s.lociReady c l then .next s
          else .next ((c.loci l).foldl (fun t k => t.postCopy c k none) (s.dropCopy id))

/-- The record of a tstamp (R440): mark 3 writes the entry of its tag and empties it, marks 0 to 2 write a MARK. -/
def State.writeMark (s : State) (c : CopyOp) (g : Grove) (mark : Nat) : State :=
  let key := 256 * g.slot + c.tag
  let ids := s.boughIds c.bough
  if mark = 3 then
    let e := tget (s.core g.core).stamps key
    let r := stampRecord (e.getD (Stamp.at (groveOf c.bough) c.issuedCc)) c.tag ids false
    ((s.log g.die g.launch .stamp r).1).onCore g.core fun x => { x with stamps := tdel x.stamps key }
  else
    (s.log g.die g.launch .stamp
      (logRecord 0x21 (packFields [(c.tag, 0, 8), (mark, 8, 2)]) ids 0 c.issuedCc)).1

/-- TSTAMP_COMPLETION (R309, R440): it completes once its record has been written, or counted lost. -/
def execTstampCompletion (id : Nat) (s : State) : Host.Outcome State Fault Refusal :=
  match tget s.copies id with
  | none => .next s
  | some c =>
    match s.opHome c.bough, c.form with
    | some (g, l), .stamp mark =>
      if s.bc < c.issued + 2 || !s.lociReady c l then .next s
      else if c.life != .waiting then .next (s.endUnmoved id c l)
      else if s.heldByOp c.bough c.order then .next s
      else .next ((c.loci l).foldl (fun t k => t.postCopy c k none) ((s.writeMark c g mark).dropCopy id))
    | _, _ => .next (s.dropCopy id)

end Sys2Proof.Machine
end

