-- ==== Sys2Proof/Machine/Initial.lean ====
section
/-!
DEFINITION. A bough, a grove and a launch as they begin (R17, R31, R192, R348, R350): registers, flags, tiles and barriers
zero, every span idle.
-/
namespace Sys2Proof.Machine

/-- A bough as it begins at its stage's entry point (R17, R43, R342, R350). -/
def Bough.initial (grove bnum ctx : Nat) (pc tvec : DWord) (prio cc : Nat) : Bough :=
  { grove := grove, bnum := bnum, ctx := ctx, pc := pc, v := Vector.replicate 128 zeroLanes,
    o := Vector.replicate 8 zeroLanes, p := Vector.replicate 8 0, s := Vector.replicate 32 0, lv0 := zeroLanes,
    lv1 := zeroLanes, lm0 := zeroLanes, lf0 := zeroLanes, results := [], seq := 0, loops := [],
    steps := Vector.replicate 4 { reg := 0, depth := 0, stride := 0 }, dsLeft := 0, dsTarget := 0, vserved := 0,
    vmask := BitVec.allOnes 64, vsite := 0, active := 0, iid := Vector.replicate 64 0, iage := Vector.replicate 64 0,
    refc := 0, prio := prio, raised := 0, eligSince := cc, status := .ready, phase := none, grantCc := 0,
    earliest := cc / 4, stretchEnd := none, presented := none, compatAt := none, holds := [], fflags := 0, tvec := tvec,
    cause := 0, epc := 0, tval := 0, frec := 0, tstatIn := false, tstatDsn := 0, tdst := 0, tvmask := 0,
    bars := Vector.replicate 4 { armed := false, gen := 0, coming := false }, pend := [], opseq := 0, stopAsked := false,
    dbgSkip := false, dbgStep := false, dbgCause := 0, needClock := [], needFrame := 0, needWrites := [], held := 0, aged := 0, resumeFrom := none,
    grants := 0 }

/-- A flag at zero. -/
def CFlag.zero : CFlag := { count := 0, e := false, frec := 0, cause := 0, pc := 0 }

/-- An endpoint that nothing binds: every access finds it broken (R378, R382). -/
def Endpoint.unbound : Endpoint :=
  { bound := false, receives := false, broken := false, peer := 0, peerEnd := 0, credits := [], words := [] }

/-- A grove as it is placed (R350). -/
def Grove.initial (launch ordinal stage gx gy gz core slot flagBase : Nat) (tileMap : List Nat) : Grove :=
  { launch := launch, ordinal := ordinal, stage := stage, gx := gx, gy := gy, gz := gz, core := core, slot := slot,
    flagBase := flagBase, tileMap := tileMap, life := .placed, scratch := [], scratchBad := [],
    flags := Vector.replicate 32 CFlag.zero, flagWrites := [], tiles := [],
    queues := Vector.replicate 4 { head := 0, count := 0 }, tables := Vector.replicate 4 [],
    bars := Vector.replicate 4 { a := 0, n := 0, g := 0 }, held := [], reqOut := false, told := false,
    chans := Vector.replicate 8 Endpoint.unbound, pipe := [], saveAt := none, savedOn := 0, keepsPlace := false }

/-- A launch as it is accepted (R344, R345). -/
def Launch.initial (module queue asid : Nat) (recVa : DWord) (record header : BitVec 2048) (params : List DWord) : Launch :=
  { module := module, queue := queue, asid := asid, recVa := recVa, record := record, header := header, params := params,
    life := .queued, shares := [], supply := List.replicate 8 0, placedGroves := 0, endedGroves := 0,
    unrun := false, settleFault := false, fflags := 0, logGap := false, unhandled := false, drops := false,
    faults := false, reports := [] }

end Sys2Proof.Machine
end

