-- ==== Sys2Proof/Machine/Launches.lean ====
section
/-!
DEFINITION. Launch records on their way into the queues (R341 to R347): submission by the host and by `launch`, the
conditions of Table 11.4, acceptance and refusal, and predecessors.
-/
namespace Sys2Proof.Machine

/-! ### Conditions of Table 11.4 -/

namespace Launch

/-- REASON 1, but for the reading of the record. -/
def recordSound (l : Launch) : Bool :=
  l.ctl / 2 ^ 27 == 0 && bitsOf (recField l.record 40 8) 41 7 == 0 && l.place / 2 ^ 51 == 0 && decide (l.npred ≤ 4) &&
    ((List.range 4).all fun j => decide (j < l.npred) || l.pred j == 0) &&
    (bitsOf l.ctl 19 5 == 0 || decide (16 ≤ bitsOf l.ctl 19 5)) && recField l.record 8 8 % 8 == 0 && l.faultsVa % 64 == 0 &&
    l.evt % 8 == 0

/-- Whether an offset of the header is that of a bundle (R341) within reach of the header. -/
def offsetOk (x : Nat) : Bool := x % 32 == 0 && decide (x < 2 ^ 24)

/-- Item widths (R11). -/
def widthOk (w : Nat) : Bool := [1, 2, 4, 8, 16, 32, 64].contains w

/-- The largest item width of the declared stages. -/
def widest (l : Launch) : Nat := (List.range l.stageCount).foldl (fun m i => max m (l.itemWidth i)) 0

/-- Whether a deferral queue of the header is declared soundly, or empty. -/
def queueSound (l : Launch) (q : Nat) : Bool :=
  recField l.header (93 + 8 * q) 1 == 0 &&
    (if l.drainAt q = 0 then recField l.header (88 + 8 * q) 8 == 0
     else decide (l.drainAt q ≤ 64) && l.capacity q != 0 && recField l.header (88 + 8 * q) 4 % 32 == 0) &&
    (q == 0 || l.drainAt q == 0 || l.drainAt (q - 1) != 0)

/-- Whether a stage of the header is declared soundly, or empty. -/
def stageSound (l : Launch) (i : Nat) : Bool :=
  if i < l.stageCount then
    recField l.header (29 + 8 * i) 3 == 0 && widthOk (l.itemWidth i) && offsetOk (recField l.header (24 + 8 * i) 4)
  else recField l.header (24 + 8 * i) 8 == 0

/-- REASON 2, but for the reading of the header (Table 11.1, R98, R351). -/
def headerSound (l : Launch) : Bool :=
  recField l.header 0 2 == 0x4B47 && decide (1 ≤ l.rev) && decide (l.rev ≤ 3) && decide (1 ≤ recField l.header 3 1) &&
    decide (recField l.header 3 1 ≤ 4) && decide (1 ≤ l.boughsPer) && decide (l.boughsPer ≤ 16) &&
    (l.flagBlock == 16 || l.flagBlock == 32) && decide (l.tileCount ≤ 4) && decide (l.tableCount ≤ 4) &&
    l.scratchBytes % 256 == 0 && decide (256 ≤ l.scratchBytes) && decide (l.scratchBytes ≤ 2 ^ 20) &&
    decide (1 ≤ l.stageCount) && decide (l.stageCount ≤ 8) && recField l.header 14 2 == 0 &&
    recField l.header 184 72 == 0 && offsetOk (recField l.header 16 4) && offsetOk l.tvecOffset &&
    (List.range 8).all l.stageSound && (List.range 4).all l.queueSound &&
    decide (((List.range 4).map fun q => l.queueBytes l.widest q).sum ≤ l.scratchBytes)

end Launch

/-- SCALE values that a format code allows (Table 3.4). -/
def scaleAllowed (fmt scale : Nat) : Bool :=
  if [0x03, 0x04, 0x0A, 0x0C, 0x0D, 0x0E, 0x10].contains fmt then true
  else if [0x00, 0x01, 0x02, 0x08, 0x09, 0x0B].contains fmt then scale != 1
  else if fmt = 0x05 then scale == 1
  else scale == 0

/-- R108. -/
def FSlot.sound (f : FSlot) : Bool :=
  let n := f.raw.toNat
  bitsOf n 10 6 == 0 && bitsOf n 20 4 == 0 && bitsOf n 34 6 == 0 && n / 2 ^ 41 == 0 &&
    [0x00, 0x01, 0x02, 0x03, 0x04, 0x05, 0x06, 0x08, 0x09, 0x0A, 0x0B, 0x0C, 0x0D, 0x0E, 0x10, 0xFF].contains f.fmt &&
    scaleAllowed f.fmt f.scale &&
    (if f.fmt = 0xFF then f.rnd == 0 else if f.fmt = 0x06 ∨ f.fmt = 0x10 then decide (f.rnd ≤ 1) else decide (f.rnd ≤ 2)) &&
    (if f.fmt = 0x10 then decide (2 ≤ f.planes) && decide (f.planes ≤ 8) else f.planes == 0) &&
    (f.scale != 0 || f.side == 0)

namespace Launch

/-- REASON 3. -/
def slotsSound (l : Launch) : Bool :=
  (List.range 8).all fun n =>
    let f := l.fslot n
    f.sound && (f.scale == 0 || decide (f.side < l.nparam)) &&
      (!(recField l.header 13 1).testBit n || f.raw.toNat == recField l.header (120 + 8 * n) 8)

/-- REASON 4, as far as acceptance checks it. -/
def regionSound (l : Launch) : Bool :=
  l.rlen == 0 || (l.det && l.rbase % l.regionBytes == 0 && l.rshadow % 64 == 0)

/-- The modules of the span. -/
def span (l : Launch) : List Nat := (List.range l.mcount).map (l.mfirst + ·)

/-- REASON 5. -/
def gridSound (l : Launch) (modules : Nat) : Bool :=
  ((List.range 8).all fun i =>
    let g := l.gridOf i
    if i < l.stageCount then g.1 != 0 && g.2.1 != 0 && g.2.2 != 0 else recField l.record (176 + 10 * i) 10 == 0) &&
    decide (l.allot * l.boughsPer ≤ 1024) && decide (l.mfirst + l.mcount ≤ modules) && decide (l.groveCount ≤ 2 ^ 24)

/-- A parameter. -/
def param (l : Launch) (n : Nat) : DWord := l.params.getD n 0
/-- LEN of the preload (R352). -/
def preloadLen (l : Launch) : Nat := bitsOf (l.param (l.preld + 1)).toNat 0 21
/-- The address from which the grove of an ordinal is preloaded. -/
def preloadFrom (l : Launch) (n : Nat) : DWord :=
  l.param l.preld + BitVec.ofInt 64 (n * ((l.param (l.preld + 1)).extractLsb' 32 32).toInt)

/-- REASON 7, but for the reading of the parameters. -/
def paramsSound (l : Launch) : Bool :=
  (l.chanp == 0xFF || decide (l.chanp < l.nparam)) &&
    (!l.pren || (decide (l.preld + 1 < l.nparam) && (l.param l.preld).toNat % 256 == 0 &&
      bitsOf (l.param (l.preld + 1)).toNat 21 11 == 0 && decide (l.preloadLen ≤ l.scratchBytes)))

end Launch

/-- What comes of a record that is read. -/
inductive Judged where
  | unreadable (f : XFault)
  /-- REASON and EVT. -/
  | refused (reason evt : Nat)
  | good (l : Launch)
  deriving DecidableEq, Repr

/-- 256 bytes as a number. -/
def wideNum (xs : List Byte) : BitVec 2048 := BitVec.ofNat 2048 (natOfBytes xs)

/-- A record judged (R344, Table 11.4), read by die 0 of the module. -/
def State.judge (s : State) (m q asid : Nat) (va : DWord) : Judged :=
  let d := 32 * m
  match s.readVa d asid va.toNat 256 with
  | .error f => .unreadable f
  | .ok rec_ =>
    let bare := Launch.initial m q asid va (wideNum rec_) 0 []
    if !bare.recordSound then .refused 1 bare.evt
    else
      match if bare.kaddr.toNat % 256 = 0 then s.readVa d asid bare.kaddr.toNat 256 else .error (xfault .misaligned) with
      | .error _ => .refused 2 bare.evt
      | .ok hdr =>
        let l := { bare with header := wideNum hdr, module := bare.mfirst }
        if !l.headerSound then .refused 2 l.evt
        else if !l.slotsSound then .refused 3 l.evt
        else if !l.regionSound then .refused 4 l.evt
        else if !l.gridSound s.moduleCount then .refused 5 l.evt
        else if !(l.span.all fun p => (s.module p).domain == l.tdom) then .refused 6 l.evt
        else
          match s.readVa d asid (recField l.record 8 8) (8 * l.nparam) with
          | .error _ => .refused 7 l.evt
          | .ok ps =>
            let l := { l with params := (List.range l.nparam).map fun i => BitVec.ofNat 64 (numAt ps (8 * i) 8) }
            if l.paramsSound then .good l else .refused 7 l.evt

/-- The ranges that a record's judging reads: the record, its header and its parameters, as far as they can be named. -/
def State.judgeRanges (s : State) (m q asid : Nat) (va : DWord) : List (Nat × Nat) :=
  let d := 32 * m
  (va.toNat, 256) ::
    (match s.readVa d asid va.toNat 256 with
      | .error _ => []
      | .ok rec_ =>
        let bare := Launch.initial m q asid va (wideNum rec_) 0 []
        if !bare.recordSound || bare.kaddr.toNat % 256 != 0 then []
        else
          (bare.kaddr.toNat, 256) ::
            (match s.readVa d asid bare.kaddr.toNat 256 with
              | .error _ => []
              | .ok hdr => [((recField bare.record 8 8), 8 * { bare with header := wideNum hdr }.nparam)]))

/-- Whether a copy owns a line that the judging of a record reads (R147). -/
def State.judgeHeld (s : State) (m q asid : Nat) (va : DWord) : Bool :=
  !s.copies.isEmpty && (s.judgeRanges m q asid va).any fun x => s.rangeOwned (32 * m) asid x.1 x.2

/-- The die that judges a record keeps the translations that it uses (R127). -/
def State.touchJudged (s : State) (m q asid : Nat) (va : DWord) : State :=
  (s.judgeRanges m q asid va).foldl (fun t x => if x.2 = 0 then t else t.touchRange (32 * m) asid x.1 x.2) s

/-! ### Completion words (R345) -/

/-- A completion word stored at EVT, where there is one; it goes nowhere when EVT takes no write. -/
def State.storeWord (s : State) (m asid evt word : Nat) : State :=
  if evt = 0 then s
  else (s.tryWrite (32 * m) asid evt (bytesOfNat 8 word)).1

/-- DONE, REFUSED and REASON. -/
def refusalWord (reason : Nat) : Nat := packFields [(3, 0, 2), (reason, 16, 8)]

/-! ### Submission -/

/-- What stands for the host of a module as the source of writes; no bough has this key. -/
def hostKey (m : Nat) : Nat := 2 ^ 61 + m

/-- Whether a write that the host made through the window has yet to be performed at .sys scope (R473). -/
def State.hostWritesOut (s : State) (m : Nat) : Bool := s.writes.any fun w => w.2.bough == hostKey m

/-- Accepted records of a queue. -/
def Module.queue (m : Module) (q : Nat) : List Nat := tgetD m.queues q []

/-- Whether a queue holds as many records as it may (R346). -/
def State.queueFull (s : State) (m q : Nat) : Bool := decide (Config.launchQueueDepth ≤ ((s.module m).queue q).length)

/-- QFULL (R465, R469); the manual states no WORD. -/
def State.postQfull (s : State) (m : Nat) (va : DWord) : State :=
  { s.postLaunch m 5 0x75 0 (Config.freeWord s.free).toNat va.toNat with free := s.free + 1 }

/-- LQDOOR_SUBMIT (R465, R473): the record is handed to its queue, which takes it, or has no room for it, once the host's window
writes before it have been performed. -/
def execLqdoorSubmit (m : Nat) (value : DWord) (s : State) : Host.Outcome State Fault Refusal :=
  let q := bitsOf value.toNat 0 6
  let va := value &&& ~~~(0x3F#64)
  if (s.module m).mstate != 1 then .next s
  else
    let id := s.nextOp
    let k := MsgKind.submit m q va ((s.module m).lqAsid.toNat % 2 ^ 16) 0
    .next (({ s with nextOp := id + 1, msgs := tput s.msgs id k }).later (s.cc + 1) (.launchAcceptance id (BitVec.ofNat 32 id)))

/-- Whether the host submitted another record to the module earlier. -/
def State.hostEarlier (s : State) (msg m : Nat) : Bool :=
  s.msgs.any fun e => decide (e.1 < msg) && (match e.2 with
    | .submit p _ _ _ 0 => p == m
    | _ => false)

/-- Whether a submission may be read: the writes before it, a bough's copies' too (assumption 138), have been performed at .sys scope
(R199, R473). -/
def State.submitReady (s : State) (msg m op : Nat) : Bool :=
  (s.module m).mstate == 1 && (s.module m).pstate != 2 &&
    (if op = 0 then !s.hostWritesOut m && !s.hostEarlier msg m
     else
      match tget s.ops op with
      | none => true
      | some o =>
        decide (o.issued + 2 ≤ s.bc) && !s.heldByOp o.bough o.order && s.copiesDone o.bough o.order &&
          s.accessesSeen o.bough o.order 5 (((s.opHome o.bough).map fun h => h.1.die).getD 0))

/-- The answer to a submission: its `launch` completes (R199), or the host is told (R469). -/
def State.answer (s : State) (m op : Nat) (va : DWord) (fault : Option XFault) (word : Nat) : State :=
  if op = 0 then (if fault.isNone then s else s.postLaunch m 5 0x71 0 word va.toNat)
  else
    match tget s.ops op with
    | none => s
    | some o => s.completeOp op o [] 0 (fault.map fun f => o.ownFault f va)

/-- Whether the engine that held the launch has been reset, and with it what it held of the launch (R466): its supplies are gone. -/
def Launch.engineLost (l : Launch) : Bool := l.supply.isEmpty

/-- Share of module `m` (R348): ordinals floor(kG/M) to floor((k+1)G/M) - 1. -/
def Launch.shareOf (l : Launch) (m : Nat) : Share :=
  let k := m - l.mfirst
  if l.mfirst ≤ m ∧ m < l.mfirst + l.mcount then
    { next := k * l.groveCount / l.mcount, last := (k + 1) * l.groveCount / l.mcount, begun := false }
  else { next := 0, last := 0, begun := false }

/-- The launch that a record submitted on another module of its span joins (R348). -/
def State.joined (s : State) (m q asid : Nat) (l : Launch) : Option Nat :=
  (s.launches.find? fun e => e.2.recVa == l.recVa && e.2.asid == asid && e.2.queue == q && e.2.record == l.record &&
    !e.2.engineLost && e.2.span.contains m && (tget e.2.shares m).isNone && (e.2.life == .queued || e.2.life == .placing)).map (·.1)

/-- A record enters its queue. -/
def State.enterQueue (s : State) (m q lid : Nat) : State :=
  let t := s.onModule m fun x => { x with queues := tput x.queues q (x.queue q ++ [lid]) }
  let t := t.onLaunch lid fun l => { l with shares := tput l.shares m (l.shareOf m) }
  t.laterAll (s.cc + 1) [.predecessorRecheck m q, .launchPlacement m]

/-- A record that meets every condition is accepted (R344): it joins its launch or becomes one under the identity
given. -/
def State.acceptLaunch (s : State) (m q op : Nat) (va : DWord) (l : Launch) (lid : Nat) : State :=
  match s.joined m q l.asid l with
  | some k => (s.enterQueue m q k).answer m op va none 0
  | none => (({ s with launches := tput s.launches lid l }).enterQueue m q lid).answer m op va none 0

/-- LAUNCH_ACCEPTANCE (R199, R344, R346). -/
def execLaunchAcceptance (msg : Nat) (lid : BitVec 32) (s : State) : Host.Outcome State Fault Refusal :=
  match tget s.msgs msg with
  | some (.submit m q va asid op) =>
    if !s.submitReady msg m op then .next s
    else if lid = 0 ∨ (tget s.launches lid.toNat).isSome then .next (s.atTime (s.cc + 1) (.launchAcceptance msg (lid + 1)))
    else
      let t := (s.touchJudged m q asid va).dropMsg msg
      if s.queueFull m q then .next (if op = 0 then (s.dropMsg msg).postQfull m va else s)
      else if s.judgeHeld m q asid va then .next s
      else if va.toNat % 64 != 0 then .next ((s.dropMsg msg).answer m op va (some (xfault .misaligned)) 0)
      else
        match s.judge m q asid va with
        | .unreadable f => .next (t.answer m op va (some f) (refusalWord 1))
        | .refused r evt =>
          .next ((t.storeWord m asid evt (refusalWord r)).answer m op va (some (xfault .illegalState)) (refusalWord r))
        | .good l => .next (t.acceptLaunch m q op va l lid.toNat)
  | _ => .next s

/-! ### Predecessors (R347) -/

/-- Whether a predecessor's completion word reads DONE; one that cannot be read, or that a copy owns, does not. -/
def State.predDone (s : State) (m asid va : Nat) : Bool :=
  !s.rangeOwned (32 * m) asid va 8 &&
  match s.readVa (32 * m) asid va 8 with
  | .ok xs => (natOfBytes xs).testBit 0
  | .error _ => false

/-- PREDECESSOR_RECHECK (R347): the head of a queue becomes ready once every predecessor is done. -/
def execPredecessorRecheck (m queue : Nat) (s : State) : Host.Outcome State Fault Refusal :=
  match ((s.module m).queue queue).head? with
  | none => .next s
  | some lid =>
    match tget s.launches lid with
    | none => .next s
    | some l =>
      if (s.module m).ready.contains lid then .next s
      else
        let t := (List.range l.npred).foldl (fun t j => t.touchRange (32 * m) l.asid (l.pred j) 8) s
        if (List.range l.npred).all fun j => s.predDone m l.asid (l.pred j) then
          .next (t.onModule m fun x => { x with ready := lid :: x.ready })
        else .next (if t = s then s else t.atTime (s.cc + 1) (.predecessorRecheck m queue))

end Sys2Proof.Machine
end

