-- ==== Sys2Proof/Machine/Placement.lean ====
section
/-!
DEFINITION. Placement (R347 to R355): the next launch of a module, room on a core, channels (R378 to R380), a grove as it is
placed, its preload and its item blocks; and increments that reach a grove by name (R173).
-/
namespace Sys2Proof.Machine

/-! ### Channel bindings (R378, R379) -/

/-- An entry of the channel-binding table (Table 12.2). -/
structure ChanEntry where
  valid : Bool
  writes : Bool
  wrap : Bool
  clean : Bool
  stage : Nat
  chan : Nat
  dx : Int
  dy : Int
  dz : Int
  deriving DecidableEq, Repr

/-- An entry from its 16 bytes. -/
def ChanEntry.ofNat (n : Nat) : ChanEntry :=
  { valid := n.testBit 0, writes := n.testBit 1, wrap := n.testBit 2
    clean := bitsOf n 3 5 == 0 && bitsOf n 11 5 == 0 && bitsOf n 19 13 == 0 && bitsOf n 80 48 == 0
    stage := bitsOf n 8 3, chan := bitsOf n 16 3
    dx := intVal 16 true (bitsOf n 32 16), dy := intVal 16 true (bitsOf n 48 16), dz := intVal 16 true (bitsOf n 64 16) }

/-- The table of a launch; a table that cannot be read, or is not aligned, has no entry in force. -/
def State.chanTable (s : State) (m : Nat) (l : Launch) : List ChanEntry :=
  if l.chanp = 0xFF then []
  else
    let at_ := (l.param l.chanp).toNat
    match if at_ % 16 = 0 then s.readVa (32 * m) l.asid at_ 1024 else .error (xfault .misaligned) with
    | .ok xs => (List.range 64).map fun i => ChanEntry.ofNat (numAt xs (16 * i) 16)
    | .error _ => []

/-- Whether a copy owns a line of the table (R147). -/
def State.chanTableHeld (s : State) (m : Nat) (l : Launch) : Bool :=
  l.chanp != 0xFF && s.rangeOwned (32 * m) l.asid (l.param l.chanp).toNat 1024

/-- The die that reads the table keeps the translation (R127). -/
def State.touchTable (s : State) (m : Nat) (l : Launch) : State :=
  if l.chanp = 0xFF || (l.param l.chanp).toNat % 16 != 0 then s
  else s.touchRange (32 * m) l.asid (l.param l.chanp).toNat 1024

/-- Entry (s, k). -/
def chanEntry (t : List ChanEntry) (st k : Nat) : Option ChanEntry := (t[8 * st + k]?).filter (·.valid)

/-- A peer coordinate: modulo the peer's extent with WRAP, else within it. -/
def peerCoord (wrap : Bool) (x : Nat) (d : Int) (n : Nat) : Option Nat :=
  if n = 0 then none
  else if wrap then some (((x : Int) + d) % (n : Int)).toNat
  else if 0 ≤ (x : Int) + d ∧ (x : Int) + d < n then some ((x : Int) + d).toNat
  else none

/-- The ordinal of the peer that an entry gives the grove at a coordinate (R379). -/
def ChanEntry.peerOf (e : ChanEntry) (l : Launch) (x y z : Nat) : Option Nat :=
  let g := l.gridOf e.stage
  if l.stageCount ≤ e.stage then none
  else
    match peerCoord e.wrap x e.dx g.1, peerCoord e.wrap y e.dy g.2.1, peerCoord e.wrap z e.dz g.2.2 with
    | some a, some b, some c => l.ordinalOf e.stage a b c
    | _, _, _ => none

/-- The peer ordinal of channel k of a grove, when the binding holds (R379). -/
def boundPeer (t : List ChanEntry) (l : Launch) (ordinal st x y z k : Nat) : Option Nat :=
  match chanEntry t st k with
  | none => none
  | some e =>
    match e.peerOf l x y z with
    | none => none
    | some n =>
      let p := l.coordOf 8 0 n
      (match chanEntry t e.stage e.chan with
        | none => none
        | some f =>
          if e.clean && f.clean && f.writes != e.writes && f.chan == k &&
              f.peerOf l p.2.1 p.2.2.1 p.2.2.2 == some ordinal then some n else none)

/-- Endpoint k of a grove as it is bound: in force and sound, in force and broken, or not in force. -/
def boundEnd (t : List ChanEntry) (l : Launch) (lid ordinal st x y z k : Nat) : Endpoint :=
  match chanEntry t st k with
  | none => Endpoint.unbound
  | some e =>
    match boundPeer t l ordinal st x y z k with
    | none => { Endpoint.unbound with bound := true, receives := !e.writes, broken := true }
    | some n => { Endpoint.unbound with bound := true, receives := !e.writes, peer := groveKey lid n, peerEnd := e.chan }

/-- The grove of a key has been placed and has not ended. -/
def State.peerLives (s : State) (key : Nat) : Bool := ((s.grove? key).map fun g => g.life != .ended).getD false

/-- A writing endpoint's credits become 8 (R380); in a saved image, CREDIT does. -/
def State.fillCredits (s : State) (key n : Nat) : State :=
  match s.grove? key with
  | none => s
  | some g =>
    if g.life = .saved then s.editImage g (imageEndpoint n) 4 fun b => bytesOfNat 4 (natOfBytes b + 2 ^ 27)
    else s.onGrove key fun g => g.onChan n fun e => { e with credits := List.replicate 8 s.bc }

/-- The bindings of a placed grove confirmed (R380, R382): the writing end of each channel whose peer stands gets its
credits; a channel whose peer has ended, or that no way reaches, is broken. -/
def State.confirmChans (s : State) (key : Nat) : State :=
  (List.range 8).foldl (fun s k =>
    match (s.grove? key).bind fun g => g.endpoint k with
    | none => s
    | some e =>
      if !e.bound || e.broken then s
      else
        match s.grove? e.peer with
        | none => s
        | some p =>
          if p.life = .ended then s.breakEnd key k
          else if s.wayLost s.cc key e.peer then (s.breakEnd key k).breakEnd e.peer e.peerEnd
          else if e.receives then s.fillCredits e.peer e.peerEnd else s.fillCredits key k) s

/-! ### Room on a core (R349) -/

/-- The groves that stand on a core: those of which engine operations are still under way among them (assumption 85), and those of a
launch whose kill has yet to quiesce (R367). -/
def State.coreGroves (s : State) (core : Nat) : List (Nat × Grove) :=
  s.groves.filter fun e => e.2.core == core &&
    (e.2.life == .placed || e.2.life == .stopping || (e.2.life == .ended && (s.workOut e.1 || e.2.keepsPlace)))

/-- A number summed over the launches of groves. -/
def State.sumOver (s : State) (gs : List (Nat × Grove)) (f : Launch → Nat) : Nat :=
  (gs.map fun e => ((s.launchOf e.2).map f).getD 0).sum

/-- Where a grove goes on a core: its slot, its flag block and its tiles. -/
structure Room where
  core : Nat
  slot : Nat
  flagBase : Nat
  tiles : List Nat
  deriving DecidableEq, Repr

/-- The flag block of lowest place that is free. -/
def State.freeFlags (s : State) (gs : List (Nat × Grove)) (n : Nat) : Option Nat :=
  ((List.range (64 / n)).map (n * ·)).find? fun at_ => gs.all fun e =>
    let k := ((s.launchOf e.2).map (·.flagBlock)).getD 0
    decide (at_ + n ≤ e.2.flagBase) || decide (e.2.flagBase + k ≤ at_)

/-- Whether a grove of a launch fits on a core, and where (R349); `ends` are the endpoints that it holds (R379). -/
def State.roomOn (s : State) (core : Nat) (l : Launch) (ends : List Nat) : Option Room :=
  let gs := s.coreGroves core
  let tiles := ((List.range 4).filter fun t => gs.all fun e => !e.2.tileMap.contains t).take l.tileCount
  let heldEnds := (gs.map fun e => (List.range 8).filter fun k => ((e.2.endpoint k).map (·.bound)).getD false).flatten
  if decide (gs.length < 4) && decide (s.sumOver gs (·.boughsPer) + l.boughsPer ≤ 16) &&
      decide (s.sumOver gs (fun x => x.allot * x.boughsPer) + l.allot * l.boughsPer ≤ 1024) &&
      decide (s.sumOver gs (·.scratchBytes) + l.scratchBytes ≤ 2 ^ 20) && tiles.length == l.tileCount &&
      ends.all fun k => !heldEnds.contains k then
    match (List.range 4).find? fun n => gs.all fun e => e.2.slot != n, s.freeFlags gs l.flagBlock with
    | some slot, some at_ => some { core := core, slot := slot, flagBase := at_, tiles := tiles }
    | _, _ => none
  else none

/-- The cores of a module in the order of R350. -/
def moduleCores (m : Nat) : List Nat :=
  ((List.range Config.diesPerModule).map fun d =>
    (List.range Config.coresPerDie).map fun c => 64 * (32 * m + d) + c).flatten

/-- The lowest free contexts of a core (R349). -/
def State.freeContexts (s : State) (core n : Nat) : List Nat :=
  let kept := s.boughs.filter fun e => (s.grove? e.2.grove).any fun g => g.core == core && g.keepsPlace
  let used := ((s.coreBoughs core).filter fun x => x.2.1.status != .halted).map (fun x => x.2.1.ctx) ++ kept.map fun e => e.2.ctx
  ((List.range 16).filter fun c => !used.contains c).take n

/-! ### A grove placed (R350 to R353) -/

/-- The fault-record area of a grove cleared (R355); where it takes no write, the launch reports FAULTS. -/
def State.clearArea (s : State) (m lid : Nat) (l : Launch) (ordinal : Nat) : State :=
  match s.tryWrite (32 * m) l.asid (l.faultsVa + 40960 * ordinal) (List.replicate 40960 0) with
  | (t, true) => t
  | (t, false) => t.onLaunch lid fun l => { l with faults := true }

/-- cr.tvec as a bough starts (R342). -/
def Launch.startTvec (l : Launch) : DWord :=
  if l.tvecOffset = 0 then 0 else l.kaddr + BitVec.ofNat 64 l.tvecOffset

/-- The preload of a grove (R352): a copy as if bough 0 had issued it; with LEN 0 it only adds 1 to k0. -/
def State.preloadGrove (s : State) (key : Nat) (l : Launch) (ordinal stage slot ctx : Nat) : State :=
  if !l.pren then s
  else if l.preloadLen = 0 then s.onGrove key fun g => g.pushFlag (.complete 0 1 none)
  else
    s.enterCopy
      { bough := boughKey key 0, issued := s.bc, issuedCc := s.cc, order := s.nextOp, pc := l.entry stage, asid := l.asid,
        bid := BitVec.ofNat 32 (bidOf 0 slot ctx), form := .plain, src := l.preloadFrom ordinal, src1 := 0,
        dst := 0x2000000000000000, dst1 := 0, dst2 := 0, shape0 := BitVec.ofNat 64 (1 + l.preloadLen * 2 ^ 16), shape1 := 0,
        idx := 0, named := 0, flag := 0, inc := 1, loc := 1, tag := 0, life := .waiting, refused := false,
        cancelled := false, awaits := [], preload := true, owns := none, progress := .start } (s.cc + 1) false .copyStart

/-- The boughs of a placed grove start at their stage's entry (R17, R350). -/
def State.startBoughs (s : State) (key : Nat) (l : Launch) (stage : Nat) (ctxs : List Nat) : State :=
  { s with boughs := ctxs.zipIdx.foldl (fun t x =>
      tput t (boughKey key x.2) (Bough.initial key x.2 x.1 (l.entry stage) l.startTvec l.prio s.cc)) s.boughs }

/-- The acquire of R347 reaches the L1 of a core. -/
def State.acquirePreds (s : State) (core : Nat) (l : Launch) : State := if l.npred = 0 then s else s.dropL1 core l.asid

/-- The grove of the next ordinal is placed where it has room. -/
def State.placeGrove (s : State) (m lid ordinal : Nat) (l : Launch) (r : Room) : State :=
  let c := l.coordOf 8 0 ordinal
  let key := groveKey lid ordinal
  let t := (s.touchTable m l).clearArea m lid l ordinal
  let tab := t.chanTable m l
  let ctxs := t.freeContexts r.core l.boughsPer
  let g := Grove.initial lid ordinal c.1 c.2.1 c.2.2.1 c.2.2.2 r.core r.slot r.flagBase r.tiles
  let g := { g with chans := Vector.ofFn fun k => boundEnd tab l lid ordinal c.1 c.2.1 c.2.2.1 c.2.2.2 k.val }
  let t := { t with groves := tput t.groves key g }
  let t := (t.startBoughs key l c.1 ctxs).acquirePreds r.core l
  let t := (t.confirmChans key).preloadGrove key l ordinal c.1 r.slot (ctxs.headD 0)
  let t := t.onLaunch lid fun x =>
    { x with placedGroves := x.placedGroves + 1,
             shares := tmod x.shares m fun y => { y with next := ordinal + 1 } }
  t.askBlock key

/-- GROVE_PLACEMENT (R349, R350): the next grove of a module's share, onto the first core with room. -/
def execGrovePlacement (m launch : Nat) (s : State) : Host.Outcome State Fault Refusal :=
  match tget s.launches launch with
  | none => .next s
  | some l =>
    match tget l.shares m with
    | none => .next s
    | some y =>
      if !y.begun || y.last ≤ y.next || (s.module m).mstate != 1 || (s.module m).pstate != 0 || s.chanTableHeld m l then .next s
      else
        let tab := s.chanTable m l
        let st := (l.coordOf 8 0 y.next).1
        let ends := (List.range 8).filter fun k => (chanEntry tab st k).isSome
        match (moduleCores m).findSome? fun core => s.roomOn core l ends with
        | none => .next s
        | some r => .next ((s.placeGrove m launch y.next l r).later (s.cc + 1) (.grovePlacement m launch))

/-! ### The next launch of a module (R347) -/

/-- Whether a launch at the head of its queue is ready. -/
def State.launchReady (s : State) (m lid : Nat) (l : Launch) : Bool := l.npred == 0 || (s.module m).ready.contains lid

/-- Whether another recorded launch runs on a module under PLAY (R434). -/
def State.playBusy (s : State) (m lid : Nat) (l : Launch) : Bool :=
  l.replay && ((List.range 24).any fun d => (s.die (32 * m + d)).playOn) &&
    s.launches.any fun e => e.1 != lid && e.2.replay && ((tget e.2.shares m).map (·.begun)).getD false

/-- The queue whose head is placed next: of the ready ones that of highest priority, then that of lowest number. -/
def State.nextQueue (s : State) (m : Nat) : Option (Nat × Nat × Launch) :=
  let xs := (s.module m).queues.filterMap fun q =>
    match q.2.head? with
    | none => none
    | some lid =>
      match tget s.launches lid with
      | none => none
      | some l => if s.launchReady m lid l && !s.playBusy m lid l then some (q.1, lid, l) else none
  match xs with
  | [] => none
  | x :: rest => some (rest.foldl (fun best y =>
      if best.1 / 16 < y.1 / 16 || (best.1 / 16 == y.1 / 16 && decide (y.1 < best.1)) then y else best) x)

/-- The queues at whose head a launch stands, by module and number. -/
def State.headOf (s : State) (lid : Nat) : List (Nat × Nat) :=
  (s.modules.map fun e => (e.2.queues.filter fun q => q.2.head? == some lid).map fun q => (e.1, q.1)).flatten

/-- A launch leaves the queues of its modules; the records behind it become the heads (R347). -/
def State.unqueue (s : State) (lid : Nat) : State :=
  let t := { s with modules := s.modules.map fun (e : Nat × Module) =>
      (e.1, { e.2 with queues := e.2.queues.map (fun q => (q.1, q.2.filter (· != lid))), ready := e.2.ready.filter (· != lid) }) }
  (s.headOf lid).foldl (fun t q => t.laterAll (s.cc + 1) [.predecessorRecheck q.1 q.2, .launchPlacement q.1]) t

/-- Every shadow cleared to zero (R151), none where one cannot be. -/
def State.clearShadows (s : State) (m : Nat) (l : Launch) : Except XFault State :=
  if !l.det then .ok s
  else
    (List.range l.rlen).foldl (fun (r : Except XFault State) i =>
      match r with
      | .error f => .error f
      | .ok t =>
        match t.shadowAt t.cc (32 * m) (32 * m) l.asid l i with
        | .error f => .error f
        | .ok _ => t.writeVa (32 * m) l.asid (l.shadowVa i) (List.replicate 64 0)) (.ok s)

/-- A record that had been accepted is refused as its placement begins (R344): it leaves its queues and never runs. -/
def State.refusePlaced (s : State) (m lid : Nat) (l : Launch) : State :=
  let t := if l.det then (List.range l.rlen).foldl (fun t i => t.touch (32 * m) l.asid (l.shadowVa i)) s else s
  let t := (t.unqueue lid).storeWord m l.asid l.evt (refusalWord 4)
  { t.postLaunch m 5 0x71 0 (refusalWord 4) l.recVa.toNat with launches := tdel t.launches lid }

/-- A launch's placement begins on a module: it leaves the queue there, and its groves follow (R347, R350). -/
def State.beginLaunch (s : State) (m q lid : Nat) (l : Launch) : State :=
  let t := s.onModule m fun x => { x with queues := tmod x.queues q fun y => y.filter (· != lid), ready := x.ready.filter (· != lid) }
  let first := l.shares.all fun y => !y.2.begun
  let t := t.onLaunch lid fun x => { x with life := .placing, shares := tmod x.shares m fun y => { y with begun := true } }
  let t := t.laterAll (s.cc + 1) [.grovePlacement m lid, .predecessorRecheck m q, .launchPlacement m]
  if first then t.later (s.cc + 1) (.launchCompletion lid) else t

/-- LAUNCH_PLACEMENT (R151, R344, R347). -/
def execLaunchPlacement (m : Nat) (s : State) : Host.Outcome State Fault Refusal :=
  if (s.module m).mstate != 1 || (s.module m).pstate != 0 then .next s
  else
    match s.nextQueue m with
    | none => .next s
    | some (q, lid, l) =>
      if l.shares.any fun y => y.2.begun then .next (s.beginLaunch m q lid l)
      else
        match s.clearShadows m l with
        | .ok t => .next (t.beginLaunch m q lid l)
        | .error _ => .next (s.refusePlaced m lid l)

/-! ### Item blocks (R353) -/

/-- Indices of block b of a stage. -/
def Launch.blockItems (l : Launch) (stage b : Nat) : List Nat :=
  (List.range (min 64 (l.items stage - 64 * b))).map (64 * b + ·)

/-- The supply words of a grove image: next index, count held with the outstanding request in bit 31, two block
numbers (Table 11.6). Indices held are consecutive within their blocks. -/
def supplyWords (held : List Nat) (reqOut : Bool) : List Byte :=
  let blocks := (held.map (· / 64)).eraseDups
  bytesOfNat 4 (held.headD 0) ++ bytesOfNat 4 (held.length + (if reqOut then 2 ^ 31 else 0)) ++
    bytesOfNat 4 (blocks.getD 0 0) ++ bytesOfNat 4 (blocks.getD 1 0)

/-- The indices that the supply words hold: from the next index through its block, then through the second block. -/
def supplyHeld (bytes : List Byte) : List Nat :=
  let next := numAt bytes 0 4
  let n := numAt bytes 4 4 % 2 ^ 31
  ((List.range (64 - next % 64)).map (next + ·) ++ (List.range 64).map (64 * numAt bytes 12 4 + ·)).take n

/-- The grant reaches its grove wherever it stands: `xs` are its indices, none when the supply is exhausted. A grove that
has ended takes none (R22). -/
def State.giveBlock (s : State) (key : Nat) (xs : List Nat) : State :=
  match s.grove? key with
  | none => s
  | some g =>
    let t := s.onGrove key fun g => { g with reqOut := false, told := xs.isEmpty, held := if g.life = .ended then g.held else g.held ++ xs }
    match g.life with
    | .ended => if xs.isEmpty then t else t.onLaunch g.launch fun l => { l with unrun := true }
    | .saved => t.editImage g 0x1A0 16 fun b => supplyWords (supplyHeld b ++ xs) false
    | _ => t.askBlock key

/-- Whether the replay input gives the next block of a stage to a grove (R353), and which record says so. -/
def State.playBlock (s : State) (d : Nat) (g : Grove) : Option (Nat × Bool) :=
  (s.nextPlay d fun r => recType r == 0x02 && bitsOf r 160 3 == g.stage).map fun x =>
    (x.1, bitsOf x.2 64 24 == g.ordinal)

/-- The next block of a stage granted to a grove, with its BLOCK record (R427, R428). -/
def State.grantBlock (s : State) (key : Nat) (g : Grove) (l : Launch) : State :=
  let d := 32 * l.mfirst
  let b := l.supply.getD g.stage 0
  let t := s.onLaunch g.launch fun x => { x with supply := x.supply.set g.stage (b + 1) }
  let t := (t.log d g.launch .other (logRecord 0x02 g.ordinal (launchIds g.launch)
    (packFields [(b, 0, 32), (g.stage, 32, 3)]) s.cc)).1
  t.giveBlock key (l.blockItems g.stage b)

/-- ITEM_BLOCK_GRANT (R353): a grove's request reaches its stage's supply. A BLOCK of the input for a grove that has ended cannot be
followed (R435). -/
def execItemBlockGrant (grove : Nat) (s : State) : Host.Outcome State Fault Refusal :=
  match s.grove? grove with
  | none => .next s
  | some g =>
    match s.launchOf g with
    | none => .next s
    | some l =>
      if !g.reqOut || l.engineLost then .next s
      else if l.exhausted g.stage then .next (s.giveBlock grove [])
      else if s.plays (32 * l.mfirst) g.launch then
        match s.playBlock (32 * l.mfirst) g with
        | some (i, true) => .next ((s.followed (32 * l.mfirst) i).grantBlock grove g l)
        | some (i, false) =>
          let o := groveKey g.launch (bitsOf (s.playRecord (32 * l.mfirst) i) 64 24)
          let lives : Bool := match s.grove? o with
            | some y => y.life != .ended
            | none => s.mayPlace g.launch
          if lives then .next s else .next ((s.diverge (32 * l.mfirst) g.launch 0x02 0 0 0).grantBlock grove g l)
        | none => .next ((s.diverge (32 * l.mfirst) g.launch 0x02 0 0 0).grantBlock grove g l)
      else .next (s.grantBlock grove g l)

/-! ### Increments by name (R173) -/

/-- Whether an earlier postr of the same bough to the same grove is still on its way. -/
def State.postrEarlier (s : State) (msg : Nat) (name : DWord) (bough : Nat) : Bool :=
  s.msgs.any fun e => decide (e.1 < msg) && (match e.2 with
    | .postr _ n _ _ b _ => n == name && b == bough
    | _ => false)

/-- POSTR_ARRIVAL (R173, R417): applied wherever the named grove stands, once it has been placed. -/
def execPostrArrival (msg : Nat) (s : State) : Host.Outcome State Fault Refusal :=
  match tget s.msgs msg with
  | some (.postr lid name flag n bough since) =>
    if s.postrEarlier msg name bough then .next s
    else
      match tget s.launches lid with
      | none => .next (s.dropMsg msg)
      | some l =>
        match l.named name with
        | none => .next ((s.dropMsg msg).dropped lid)
        | some o =>
          let key := groveKey lid o
          if (s.grove? key).isNone then (if l.life = .killed then .next (s.dropMsg msg) else .next s)
          else if s.wayLost since (groveOf bough) key then .next ((s.dropMsg msg).dropped lid)
          else .next ((s.dropMsg msg).reachFlag lid key (.bump flag (BitVec.ofNat 24 n)))
  | _ => .next s

end Sys2Proof.Machine
end

