-- ==== Sys2Proof/Machine/LaunchEnd.lean ====
section
/-!
DEFINITION. The end of a launch: its completion (R22, R345, R356) and its kill (R317, R340, R367).
-/
namespace Sys2Proof.Machine

/-! ### What a launch still has under way -/

/-- The groves of a launch. -/
def State.launchGroves (s : State) (lid : Nat) : List (Nat × Grove) := s.groves.filter fun e => e.2.launch == lid

/-- Whether a matrix operation of a launch is queued, running or refused and not completed. -/
def State.matrixOut (s : State) (lid : Nat) : Bool :=
  s.cores.any fun c => (c.2.mq ++ c.2.refused).any fun m => launchOfKey m.bough == lid

/-- Whether a bbar of a killed launch waits for others alone: its frame has been sent and applied (R367, R402). -/
def GOp.acknowledged (o : GOp) : Bool :=
  (match o.kind with
    | .bbar _ _ => true
    | _ => false) && o.applied

/-- Whether an engine operation of a launch has yet to complete (R22), or, of a killed one, to complete or be acknowledged (R367). -/
def State.opsOut (s : State) (lid : Nat) : Bool :=
  (s.ops.any fun e => launchOfKey e.2.bough == lid && !(s.killedLaunch lid && e.2.acknowledged)) || (s.copies.any fun e => launchOfKey e.2.bough == lid) || s.matrixOut lid

/-- Whether an increment by name of a launch is on its way. -/
def State.postrOut (s : State) (lid : Nat) : Bool :=
  s.msgs.any fun e => match e.2 with
    | .postr l _ _ _ _ _ => l == lid
    | _ => false

/-- Whether a write of a launch has yet to be performed at .sys scope. -/
def State.writesOut (s : State) (lid : Nat) : Bool := s.writes.any fun w => launchOfKey w.2.bough == lid

/-- The conditions of R22. -/
def State.launchDone (s : State) (lid : Nat) (l : Launch) : Bool :=
  ((List.range l.stageCount).all l.exhausted) && l.endedGroves == l.groveCount && l.placedGroves == l.groveCount &&
    ((s.launchGroves lid).all fun e => !e.2.reqOut && e.2.flagWrites.isEmpty && (List.range 4).all fun q => (e.2.queue q).count == 0) &&
    !s.opsOut lid && !s.postrOut lid

/-! ### The completion word -/

/-- The completion word (R345). -/
def Launch.doneWord (l : Launch) (killed : Bool) : Nat :=
  packFields [(1, 0, 1), (bit01 killed, 2, 1), (bit01 l.faults, 3, 1), (bit01 l.drops, 4, 1), (bit01 l.unhandled, 5, 1),
    (bit01 l.logGap, 6, 1), (l.fflags.toNat, 7, 6), (bit01 l.settleFault, 13, 1), (bit01 l.unrun, 14, 1)]

/-- Step 1 of R356: every element of a deterministic region whose shadow is live is settled. -/
def State.settleRegion (s : State) (lid : Nat) (l : Launch) : State :=
  if !l.det then s
  else
    (List.range l.rlen).foldl (fun s i =>
      let s := (s.touch (32 * l.module) l.asid (l.shadowVa i)).touch (32 * l.module) l.asid (l.elementVa i)
      match s.settleElement s.cc (32 * l.module) (32 * l.module) l.asid (boughKey (groveKey lid 0) 0) l i with
      | .ok (f, _, _, t) => t.onLaunch lid fun x => { x with fflags := x.fflags ||| f }
      | .error _ => s.onLaunch lid fun x => { x with settleFault := true }) s

/-- The launch of a grove key. -/
def launchOfGrove (key : Nat) : Nat := key / 2 ^ 24

/-- The stamp entries of a core whose last event was a launch's are written with INCOMPLETE set, wherever its groves stand now
(R440). -/
def State.flushStamps (s : State) (lid core : Nat) : State :=
  let mine (x : Nat × Stamp) : Bool := launchOfGrove x.2.grove == lid
  let ids (slot : Nat) : Nat := packFields [(slot, 8, 2), (core % 64, 10, 6), (lid, 16, 16)]
  (((s.core core).stamps.filter mine).foldl (fun s x =>
      (s.log (dieOf core) lid .stamp (stampRecord x.2 (x.1 % 256) (ids (x.1 / 256)) true)).1) s).onCore core
    fun c => { c with stamps := c.stamps.filter fun x => !mine x }

/-- The stamp entries of a launch on every core. -/
def State.flushAllStamps (s : State) (lid : Nat) : State := s.cores.foldl (fun t c => t.flushStamps lid c.1) s

/-- Whether a flag of a saved grove's image has E set. -/
def State.imageFaults (s : State) (g : Grove) (l : Launch) : Bool :=
  match g.life, g.saveAt with
  | .saved, some at_ =>
    (match s.readVa g.saveDie l.asid (at_.toNat + 0x100) 128 with
      | .ok ws => (List.range 32).any fun k => (numAt ws (4 * k) 4).testBit 24
      | .error _ => false)
  | _, _ => false

/-- Flags with E set as the launch ends, those of saved groves in their images, are fault records left unconsumed (R41, R345). -/
def State.noteFaults (s : State) (lid : Nat) : State :=
  let gs := s.launchGroves lid
  let t := gs.foldl (fun t e => match e.2.life, e.2.saveAt, tget s.launches lid with
    | .saved, some at_, some l => t.touchRange e.2.saveDie l.asid (at_.toNat + 0x100) 128
    | _, _, _ => t) s
  t.onLaunch lid fun l =>
    { l with faults := l.faults || gs.any fun e => s.imageFaults e.2 l || (e.2.life != .saved && e.2.flags.toList.any (·.e)) }

/-- Step 4 of R356: the launch, its groves and its boughs are no more. -/
def State.freeLaunch (s : State) (lid : Nat) : State :=
  let t := s.unqueue lid
  { t with launches := tdel t.launches lid, groves := t.groves.filter fun e => e.2.launch != lid,
           boughs := t.boughs.filter fun e => launchOfKey e.1 != lid,
           ops := t.ops.filter fun e => launchOfKey e.2.bough != lid,
           cores := t.cores.map fun (e : Nat × Core) =>
             (e.1, { e.2 with fetched := e.2.fetched.filter fun x => launchOfKey x.bough != lid }) }

/-- Steps 3 and 4 of R356: the word at EVT, the event to the host, the cores freed. -/
def State.endLaunch (s : State) (lid kind : Nat) (killed : Bool) : State :=
  let t := (s.noteFaults lid).flushAllStamps lid
  match tget t.launches lid with
  | none => t
  | some l =>
    let w := l.doneWord killed
    ((t.storeWord l.module l.asid l.evt w).postLaunch l.module 5 kind lid w l.recVa.toNat).freeLaunch lid

/-- LAUNCH_COMPLETION (R22, R356): settled, then reported once its writes have been performed at .sys scope. -/
def execLaunchCompletion (launch : Nat) (s : State) : Host.Outcome State Fault Refusal :=
  match tget s.launches launch with
  | none => .next s
  | some l =>
    match l.life with
    | .placing =>
      if s.launchDone launch l && !l.engineLost then
        .next (((s.settleRegion launch l).onLaunch launch fun x => { x with life := .draining }).later (s.cc + 1)
          (.launchCompletion launch))
      else .next s
    | .draining => if s.writesOut launch || l.engineLost then .next s else .next (s.endLaunch launch 0x70 false)
    | _ => .next s

/-! ### Kill (R367) -/

/-- The fields of PCMD (R465): OP and LAUNCH, none when a reserved bit is set. -/
def pcmdLaunch (op : Nat) (value : DWord) : Option Nat :=
  let n := value.toNat
  if n % 4 = op ∧ bitsOf n 2 14 = 0 ∧ n / 2 ^ 48 = 0 then some (bitsOf n 16 32) else none

/-- Every bough of a launch stops without being saved. -/
def State.stopBoughs (s : State) (lid : Nat) : State :=
  { s with boughs := s.boughs.map fun (e : Nat × Bough) =>
      if launchOfKey e.1 = lid then (e.1, { e.2.release .halted with results := [], pend := [] }) else e }

/-- A grove whose launch is killed: it ends, and keeps its place on its core until the launch has quiesced. -/
def Grove.killed (g : Grove) : Grove :=
  { g with keepsPlace := g.life == .placed || g.life == .stopping, life := if g.life == .saved then .saved else .ended,
           pipe := [], flagWrites := [], reqOut := false }

/-- Its groves end, and keep their places on their cores until the launch has quiesced; what they still hold was never handed to a
span. -/
def State.stopGroves (s : State) (lid : Nat) : State :=
  let live := (s.launchGroves lid).filter fun e => e.2.life != .ended
  let t := { s with groves := s.groves.map fun (e : Nat × Grove) =>
    if e.2.launch = lid then (e.1, e.2.killed) else e }
  t.onLaunch lid fun l =>
    { l with unrun := l.unrun || (live.any fun e => !e.2.held.isEmpty) }

/-- The core cycle at which an operation killed in its array stops: the next 16-cc boundary of its array time, which for mmap is
the end of a plane pair (R340). -/
def MatOp.stopsAt (x : MatOp) (cc : Nat) : Option Nat :=
  match x.ab, x.fetched with
  | some ab, some y =>
    if cc < 4 * ab + y.arrayCc + (if x.kind == .mtrSp then x.shared else 0) then some (4 * ab + 16 * ((cc - 4 * ab + 15) / 16)) else none
  | _, _ => none

/-- Its waiting matrix operations are removed, and those in their fetch or their drain; one in the array stops there (R340). -/
def State.dropMatrix (s : State) (lid : Nat) : State :=
  let mine (m : MatOp) : Bool := launchOfKey m.bough == lid
  let t := { s with cores := s.cores.map fun (c : Nat × Core) =>
      (c.1, { c.2 with mq := c.2.mq.filterMap fun m =>
                         if !mine m then some m else (m.stopsAt s.cc).map fun cc => { m with halt := some cc },
                       refused := c.2.refused.filter fun m => !mine m }) }
  s.cores.foldl (fun t c => (c.2.mq.filter mine).foldl (fun t m =>
    match m.stopsAt s.cc with
    | some cc => t.atTime cc (.matrixCompletion c.1)
    | none => t) t) t

/-- Its increments by name go; the operations already issued stay until they are completed or acknowledged. -/
def State.dropOthers (s : State) (lid : Nat) : State :=
  { s with msgs := s.msgs.filter fun e => match e.2 with
             | .postr l _ _ _ _ _ => l != lid
             | _ => true }

/-- A launch killed: its boughs stop, its record and unplaced groves go, and its copies are cancelled (R317). -/
def State.killLaunch (s : State) (lid : Nat) : State :=
  let t := ((s.unqueue lid).stopBoughs lid).stopGroves lid
  let t := (t.dropMatrix lid).dropOthers lid
  let t := t.cancelCopies fun c => launchOfKey c.bough == lid && (match c.form with
    | .cancel | .stamp _ => false
    | _ => true)
  let t := t.onLaunch lid fun l =>
    { l with life := .killed, shares := l.shares.map fun (y : Nat × Share) => (y.1, { y.2 with next := y.2.last }) }
  ((s.launchGroves lid).foldl (fun t e => t.syncDbgStop e.2.core) t).later (s.cc + 1) (.killQuiesce lid)

/-- KILL (R367, R473): after the window writes that the host made before it. -/
def execKill (m : Nat) (value : DWord) (s : State) : Host.Outcome State Fault Refusal :=
  match pcmdLaunch 3 value with
  | none => .next s
  | some lid =>
    match tget s.launches lid with
    | none => .next s
    | some l =>
      if (s.module m).mstate != 1 || l.life == .killed || l.engineLost then .next s
      else if s.hostWritesOut m then .next (s.atTime (s.cc + 1) (.kill m value))
      else .next (s.killLaunch lid)

/-- KILL_QUIESCE (R367): nothing of the launch writes any more; its word carries DONE and KILLED. -/
def execKillQuiesce (launch : Nat) (s : State) : Host.Outcome State Fault Refusal :=
  match tget s.launches launch with
  | none => .next s
  | some l =>
    if l.life != .killed || s.opsOut launch || s.writesOut launch || l.engineLost then .next s
    else .next (s.endLaunch launch 0x73 true)

end Sys2Proof.Machine
end

