-- ==== Sys2Proof/Machine/Preempt.lean ====
section
/-!
DEFINITION. Pre-emption (R201, R359 to R365, R383, R406, R430): the commands, the images of Tables 11.5, 11.6 and 12.3, saving
and resumption.
-/
namespace Sys2Proof.Machine

/-! ### The commands (R359, R362, R465) -/

/-- A grove is to stop and to be saved at an address; a grove whose save is under way keeps its area. -/
def State.preemptAt (s : State) (m key : Nat) (at_ : DWord) : State :=
  match s.grove? key with
  | none => s
  | some g =>
    if !(g.life == .placed || (g.life == .stopping && g.saveAt.isNone)) || moduleOf g.die != m then s
    else
      let t := s.onGrove key fun g => { g with life := .stopping, saveAt := some at_, savedOn := m }
      let t := { t with boughs := t.boughs.map fun (e : Nat × Bough) =>
        match e.2.status with
        | .halted | .stopped _ => e
        | _ => if groveOf e.1 = key then (e.1, { e.2 with stopAsked := true }) else e }
      t.later (s.cc + 1) (.groveImageSave key)

/-- A command of PCMD, which waits for the window writes that the host made before it and keeps PARG and PSAVE as they were when it
was written (R473): what is done now (`act` of PARG and PSAVE), or one entry more that waits. A command comes again once for each
that waits. -/
def State.command (s : State) (m : Nat) (value : DWord) (e : Instr) (act : DWord → DWord → State → State) : State :=
  let x := s.module m
  let again := decide ((s.agenda.filter fun a => a.2 == e).length < (x.commands.filter fun c => c.1 == value).length)
  match again, x.commands.find? fun c => c.1 == value with
  | true, some c =>
    if s.hostWritesOut m then s.atTime (s.cc + 1) e
    else act c.2.1 c.2.2 (s.onModule m fun y => { y with commands := y.commands.erase c })
  | _, _ =>
    if s.hostWritesOut m then
      (s.onModule m fun y => { y with commands := y.commands ++ [(value, y.parg, y.psave)] }).atTime (s.cc + 1) e
    else act x.parg x.psave s

/-- PREEMPT_LAUNCH (R359, R362): every grove of the launch that stands on the module's cores. -/
def execPreemptLaunch (m : Nat) (value : DWord) (s : State) : Host.Outcome State Fault Refusal :=
  match pcmdLaunch 1 value with
  | none => .next s
  | some lid =>
    if (s.module m).mstate != 1 then .next s
    else
      .next (s.command m value (.preemptLaunch m value) fun _ psave s =>
        (s.launchGroves lid).foldl (fun t e => t.preemptAt m e.1 (psave + BitVec.ofNat 64 (0x400000 * e.2.ordinal))) s)

/-- PREEMPT_GROVE (R359, R362): the grove that PARG names. -/
def execPreemptGrove (m : Nat) (value : DWord) (s : State) : Host.Outcome State Fault Refusal :=
  match pcmdLaunch 2 value with
  | none => .next s
  | some lid =>
    if (s.module m).mstate != 1 then .next s
    else
      .next (s.command m value (.preemptGrove m value) fun parg psave s =>
        match (tget s.launches lid).bind fun l => l.named parg with
        | none => s
        | some n => s.preemptAt m (groveKey lid n) psave)

/-! ### The image of a bough (Table 11.5, R363) -/

/-- The grove name of a grove (Table 5.2). -/
def Grove.name (g : Grove) : Nat := packFields [(g.gx, 0, 16), (g.gy, 16, 16), (g.gz, 32, 16), (g.stage, 48, 3)]

/-- The operand code of a destination, and whether it is a predicate number. -/
def Dest.code : Dest → Nat × Bool
  | .vreg n => (n, false)
  | .oreg n => (0x80 + n, false)
  | .row n => (0x100 + n, false)
  | .chan n => (0xB8 + n, false)
  | .pred n => (n, true)
  | .scalar n => (0x90 + n, false)
  | _ => (0x90, false)

/-- The destination of an entry in flight. -/
def destOfCode (n : Nat) (pred : Bool) : Dest :=
  if pred then .pred (n % 8)
  else
    match classOf (BitVec.ofNat 9 n) with
    | .vreg k => .vreg k
    | .oreg k => .oreg k
    | .row k => .row k
    | .chan k => .chan k
    | .scalar k => .scalar k
    | _ => .none

/-- PATH of R363. -/
def Path.imageCode : Path → Nat
  | .none => 0 | .vector => 1 | .memory => 2 | .function => 3

/-- The latch path of a code. -/
def pathOfCode (n : Nat) : Path :=
  match n with
  | 1 => .vector | 2 => .memory | 3 => .function | _ => .none

/-- The address steps of a stopped bough (R166), which land on top of what is due with them, as scalar results. -/
def foldSteps (b : Bough) : List Result :=
  let plain := b.results.filter fun r => !r.isStep
  let steps := b.results.filter Result.isStep
  let reg (r : Result) : Nat := match r.dest with
    | .stepped n => n
    | _ => 0
  let last (n due : Nat) : DWord := (((plain.filter fun r => r.dest == .scalar n && r.due == due).getLast?).map (·.sval)).getD (b.sreg n)
  let sums := ((steps.map fun r => (reg r, r.due)).eraseDups).map fun x =>
    (x, (steps.filter fun r => reg r == x.1 && r.due == x.2).foldl (fun v r => v + r.sval) (last x.1 x.2))
  plain ++ sums.filterMap fun x =>
    (steps.find? fun r => reg r == x.1.1 && r.due == x.1.2).map fun r => { r with dest := .scalar x.1.1, sval := x.2 }

/-- Whether a result has done all that it is to do: a predicate that has entered its place in its due cycle (R26), which the image
does not hold. -/
def Result.entered (r : Result) : Bool :=
  r.latched && (match r.dest with
    | .pred _ => true
    | _ => false)

/-- A bough stopped before the bough cycle `at_` as its image takes it (R361): control registers written and flags raised by
what has issued stand in it; an enabled flag still to come is a trap that it keeps. -/
def Bough.settled (b : Bough) (fpen : Flags) (at_ : Nat) : Bough :=
  let xs := foldSteps b
  let b := { b with fflags := b.fflags ||| orFlags ((xs.filter fun r => decide (r.due < at_) || r.latched).map Result.flags) }
  let b := xs.foldl landCreg b
  let late := xs.filter fun r => decide (at_ ≤ r.due) && !r.latched
  let b := { b with fflags := b.fflags ||| orFlags (late.map Result.flags) }
  let pend : List PendTrap := b.pend ++ (late.filter fun r => enabledRaised fpen r.flags).map fun r =>
    { rank := 0, cause := Cause.fpException.code, tval := r.pc, frec := 0, seq := r.seq, from_ := r.due }
  { b with
    pend := pend.map fun p => { p with from_ := if p.from_ ≤ at_ then 0 else p.from_ - at_ + 1 }
    results := xs.filter fun r => !r.entered && (match r.dest with
      | .creg _ => false
      | .none => !r.latched && r.path != .none
      | _ => true) }

/-- An entry in flight (R363): 272 bytes; a channel's word that waits for others has DUE −1 (assumption 142). -/
def entryBytes (r : Result) (at_ : Nat) : List Byte :=
  let c := r.dest.code
  let scalar := match r.dest with
    | .scalar _ => true
    | _ => false
  bytesOfNat 8 (packFields [(c.1, 0, 9), (r.path.imageCode, 9, 3), (bit01 (!r.latched && r.path != .none), 12, 1),
    (bit01 c.2, 13, 1), ((max ((r.due : Int) - (at_ : Int)) (-1)) % 256 |>.toNat, 16, 8)]) ++ bytesOfNat 8 r.act.toNat ++
  (if scalar then bytesOfNat 256 r.sval.toNat else laneBytes r.vals)

/-- 8-byte words. -/
def wordsBytes (xs : List Nat) : List Byte := (xs.map (bytesOfNat 8)).flatten

/-- HELD of Table 11.5. -/
def Bough.heldCode (b : Bough) : Nat :=
  match b.status with
  | .waiting (.flag _ _) | .waiting (.either _ _ _ _) => 1
  | .waiting (.barrier _) => 2
  | .waiting .items => 3
  | _ => 0

/-- HELD of a bough's image: until a resumed bough is granted, that of the image it came from. -/
def Bough.heldNow (b : Bough) : Nat := if b.resumeFrom.isSome then b.held else b.heldCode

/-- Core cycles for which a bough has been eligible without a grant (Table 11.5). -/
def Bough.agedAt (b : Bough) (cc : Nat) : Nat := if b.status == .ready && b.phase.isNone then cc - b.eligSince else 0

/-- The parts of a bough image by offset. `at_` is the bough cycle before which it stopped, `wdog` the core cycles of its grant, which a
stopped bough has none of. -/
def boughImage (b : Bough) (g : Grove) (l : Launch) (at_ : Nat) (clock : List Nat) (wdog : Nat := 0) : List (Nat × List Byte) :=
  let es := b.results.map fun r => entryBytes r at_
  let head := packFields [(3, 0, 8), (l.allot / 32 - 1, 8, 2), (b.bnum, 16, 4), (g.slot, 20, 2), (g.stage, 24, 3), (b.held, 28, 3),
    (es.length, 32, 7)]
  [(0, wordsBytes [head, b.pc.toNat, b.dsTarget.toNat, b.dsLeft, b.active.toNat, b.aged, g.name, 0] ++
      ((List.range 24).map fun i => bytesOfNat 4 (clock.getD i 0)).flatten ++ List.replicate 96 0),
   (0x100, wordsBytes ((List.range 72).map fun n => (b.creg l.fpen wdog n).toNat)),
   (0x340, wordsBytes ((List.range 32).map fun n => (b.sreg n).toNat)),
   (0x440, wordsBytes ((List.range 8).map fun n => (b.pred n).toNat)),
   (0x480, wordsBytes ((b.iid.toList.zip b.iage.toList).map fun x => x.1.toNat + x.2.toNat * 2 ^ 32)),
   (0x680, wordsBytes (b.bars.toList.map fun x => bit01 x.armed + x.gen.toNat * 2 ^ 8)),
   (0x700, laneBytes b.lv0 ++ laneBytes b.lv1 ++ laneBytes b.lm0 ++ laneBytes b.lf0),
   (0xB00, (b.o.toList.map laneBytes).flatten),
   (0x1300, (es.take 32).flatten),
   (0x4000, ((b.v.toList.take l.allot).map laneBytes).flatten),
   (0xC000, ((es.drop 32).take 32).flatten)]

/-! ### The image of a grove (Tables 11.6 and 12.3) -/

/-- An endpoint's image: its header and its words from slot 0. -/
def endpointBytes (l : Launch) (e : Endpoint) : List Byte :=
  let c := l.coordOf 8 0 (e.peer % 2 ^ 24)
  let name := if e.bound && !(e.peer == 0) then packFields [(c.2.1, 0, 16), (c.2.2.1, 16, 16), (c.2.2.2, 32, 16), (c.1, 48, 3)] else 0
  bytesOfNat 64 (packFields [(bit01 e.bound, 0, 1), (bit01 (e.bound && !e.receives), 1, 1), (bit01 e.broken, 2, 1), (e.peerEnd, 8, 3),
    (e.words.length, 16, 4), (e.credits.length, 24, 4), (name, 64, 64)]) ++
  ((List.range 8).map fun i => laneBytes ((e.words.map (·.2)).getD i zeroLanes)).flatten

/-- The bytes of a partition. -/
def partBytes (g : Grove) (n : Nat) : List Byte := readBytes g.scratch 0 n

/-- The bytes of a table segment (Table 6.7). -/
def segmentBytes (x : Segment) : List Byte := (segmentCells 0 x).map (·.2)

/-- The parts of a grove image by offset. -/
def groveImage (g : Grove) (l : Launch) : List (Nat × List Byte) :=
  [(0, wordsBytes [packFields [(3, 0, 8), (l.boughsPer - 1, 8, 4), (bit01 (l.flagBlock == 32), 16, 1), (l.tileCount, 20, 3),
      (l.tableCount, 24, 3)], g.name, g.launch] ++ List.replicate 232 0),
   (0x100, flagWords g),
   (0x180, wordsBytes (g.bars.toList.map fun b => packFields [(b.a, 0, 5), (b.n, 8, 5), (b.g.toNat, 16, 8)])),
   (0x1A0, supplyWords g.held g.reqOut),
   (0x1B0, g.tables.toList.map fun t => BitVec.ofNat 8 t.length),
   (0x200, ((g.tables.toList.flatten).map segmentBytes).flatten),
   (0x700, flagStates g),
   (0x800, (g.chans.toList.map (endpointBytes l)).flatten),
   (0x8000, ((List.range (64 * l.tileCount)).map fun n => laneBytes (g.row n)).flatten),
   (l.imagePart, partBytes g l.scratchBytes)]

/-! ### Saving (R361) -/

/-- Whether a bough of a grove has stopped or halted. -/
def Bough.atRest (b : Bough) : Bool :=
  match b.status with
  | .halted | .stopped _ => true
  | _ => false

/-- Whether an engine operation of a grove's boughs has yet to complete. -/
def State.groveBusy (s : State) (key : Nat) (g : Grove) : Bool :=
  (s.ops.any fun e => groveOf e.2.bough == key) || (s.copies.any fun e => groveOf e.2.bough == key) ||
    (s.boughs.any fun e => e.2.grove == key && (match e.2.status with
      | .stopped n => e.2.results.any (Result.delivered n)
      | _ => false)) ||
    (((s.core g.core).mq ++ (s.core g.core).refused).any fun m => groveOf m.bough == key)

/-- The conditions of R361. -/
def State.saveReady (s : State) (key : Nat) (g : Grove) : Bool :=
  ((List.range 16).all fun i => ((s.bough? (boughKey key i)).map (·.atRest)).getD true) && !s.groveBusy key g &&
    g.flagWrites.isEmpty && g.pipe.isEmpty

/-- The bough cycle before which a bough stopped. -/
def Bough.stopBc (b : Bough) : Nat :=
  match b.status with
  | .stopped n => n
  | _ => 0

/-- Parts written from an address up; none at the first fault. -/
def State.writeParts' (s : State) (d asid at_ : Nat) (xs : List (Nat × List Byte)) : Option State :=
  xs.foldl (fun t x => t.bind fun t => (t.writeVa d asid (at_ + x.1) x.2).toOption) (some s)

/-- The clock vector of a bough's image: its die's, with what a resumed bough that has had no grant still waits for (R135). -/
def Bough.imageClock (b : Bough) (clock : List Nat) : List Nat :=
  (List.range 24).map fun i => max (clock.getD i 0) (b.needClock.getD i 0)

/-- Address of a bough image in a save area (R362). -/
def boughArea (at_ i : Nat) : Nat := at_ + 0x200000 + 0x10000 * i

/-- A grove and its stopped boughs written to the save area; none where a write faults. -/
def State.writeImages (s : State) (key : Nat) (g : Grove) (l : Launch) (at_ : Nat) : Option State :=
  let d := g.saveDie
  let t := s.writeParts' d l.asid at_ (groveImage g l)
  (List.range l.boughsPer).foldl (fun t i =>
    match s.bough? (boughKey key i) with
    | none => t
    | some b =>
      if b.status == .halted then t
      else t.bind fun t => t.writeParts' d l.asid (boughArea at_ i) (boughImage b g l b.stopBc (b.imageClock (s.die g.die).clock))) t

/-- The boughs of a grove that have not halted. -/
def State.liveBoughs (s : State) (key : Nat) (l : Launch) : List Nat :=
  (List.range l.boughsPer).filter fun i => ((s.bough? (boughKey key i)).map fun b => b.status != .halted).getD false

/-- The ranges of a saved grove's images: address and bytes. -/
def State.imageRanges (s : State) (key : Nat) (g : Grove) (l : Launch) : List (Nat × Nat) :=
  match g.saveAt with
  | none => []
  | some at_ => (at_.toNat, l.imagePart + l.scratchBytes) :: (s.liveBoughs key l).map fun i => (boughArea at_.toNat i, 0xE200)

/-- Whether a copy owns a line of a saved grove's images (R147). -/
def State.imagesOwned (s : State) (key : Nat) (g : Grove) (l : Launch) : Bool :=
  !s.copies.isEmpty && (s.imageRanges key g l).any fun x => s.rangeOwned g.saveDie l.asid x.1 x.2

/-- The die that reads the images keeps their translations (R127). -/
def State.touchImages (s : State) (key : Nat) (g : Grove) (l : Launch) : State :=
  (s.imageRanges key g l).foldl (fun t x => t.touchRange g.saveDie l.asid x.1 x.2) s

/-- GROVE_IMAGE_SAVE (R361): the image is written once nothing is under way, and the host is told; a write that faults leaves
the grove stopped in place. -/
def execGroveImageSave (grove : Nat) (s : State) : Host.Outcome State Fault Refusal :=
  match s.grove? grove with
  | none => .next s
  | some g =>
    match g.life, g.saveAt, s.launchOf g with
    | .stopping, some at_, some l =>
      if !s.saveReady grove g then .next s
      else
        let t := { s with boughs := s.boughs.map fun (e : Nat × Bough) =>
          match e.2.status with
          | .stopped n => if groveOf e.1 = grove then (e.1, e.2.settled l.fpen n) else e
          | _ => e }
        (match t.writeImages grove g l at_.toNat with
          | some u => .next ((u.onGrove grove fun g => { g with life := .saved }).postLaunch g.savedOn 5 0x72 g.launch g.name at_.toNat)
          | none => .next (((s.touchImages grove g l).onGrove grove fun g => { g with saveAt := none }).postLaunch g.savedOn 5 0x76 g.launch g.name at_.toNat))
    | _, _, _ => .next s

/-! ### Reading the images back (R365) -/

/-- Lanes from 256 bytes. -/
def lanesAt (bytes : List Byte) (off : Nat) : Lanes := Vector.ofFn fun l => BitVec.ofNat 32 (numAt bytes (off + 4 * l.val) 4)

/-- The signed DUE of an entry. -/
def entryDue (x : Nat) : Int := intVal 8 true (bitsOf x 16 8)

/-- Whether an entry lies within the limits of R363. -/
def entrySound (l : Launch) (x : Nat) : Bool :=
  decide (-1 ≤ entryDue x) && decide (entryDue x ≤ 19) && decide (bitsOf x 9 3 ≤ 3) && bitsOf x 14 2 == 0 && x / 2 ^ 24 == 0 &&
    (if x.testBit 13 then bitsOf x 3 6 == 0
     else
      match classOf (BitVec.ofNat 9 (bitsOf x 0 9)) with
      | .vreg n => decide (n < l.allot)
      | .row n => decide (n < 64 * l.tileCount)
      | .oreg _ | .chan _ | .scalar _ => true
      | _ => false)

/-- An entry as a result that counts from the bough cycle 1 until the first grant (R201); a channel's word that waited goes behind
those still due (R381, assumption 142). -/
def entryResult (bytes : List Byte) (pc : DWord) (seq : Nat) : Result :=
  let x := numAt bytes 0 8
  let dest := destOfCode (bitsOf x 0 9) (x.testBit 13)
  let early := match dest with
    | .pred _ => true
    | .chan _ => decide (0 ≤ entryDue x)
    | _ => false
  { seq := seq, pc := pc, path := pathOfCode (bitsOf x 9 3), latched := !(x.testBit 12 || early), dest := dest,
    act := BitVec.ofNat 64 (numAt bytes 8 8), vals := lanesAt bytes 16, sval := BitVec.ofNat 64 (numAt bytes 16 8),
    due := (entryDue x + 1).toNat, flags := 0, byFlag := false, cc := if 0 ≤ entryDue x then 0 else 1 }

/-- The entries of a bough image. -/
def imageEntries (bytes : List Byte) : List (List Byte) :=
  (List.range (bitsOf (numAt bytes 0 8) 32 7)).map fun i =>
    (bytes.drop (if i < 32 then 0x1300 + 272 * i else 0xC000 + 272 * (i - 32))).take 272

/-- Control register n of an image. -/
def imageCreg (bytes : List Byte) (n : Nat) : DWord := BitVec.ofNat 64 (numAt bytes (0x100 + 8 * n) 8)

/-- Whether a word has no bit outside the fields given, each by its lowest bit and width. -/
def onlyFields (x : Nat) (fs : List (Nat × Nat)) : Bool := x == fs.foldl (fun n f => n + bitsOf x f.1 f.2 * 2 ^ f.1) 0

/-- Whether words of an image are zero: `n` of them from an offset. -/
def zeroWords (bytes : List Byte) (off n : Nat) : Bool := (List.range n).all fun i => numAt bytes (off + 8 * i) 8 == 0

/-- The control registers that Table 5.5 assigns, with their fields. -/
def cregFields (n : Nat) : List (Nat × Nat) :=
  match n with
  | 0x000 | 0x001 => [(0, 6)]
  | 0x008 => [(0, 4)]
  | 0x009 => [(0, 32)]
  | 0x010 | 0x012 | 0x022 => [(5, 59)]
  | 0x011 => [(0, 8), (16, 16)]
  | 0x014 => [(0, 7)]
  | 0x015 => [(0, 3)]
  | 0x030 => [(0, 3)]
  | n =>
    if 0x035 ≤ n ∧ n ≤ 0x03C then [(5, 59)]
    else if n = 0x00A ∨ (0x013 ≤ n ∧ n ≤ 0x017) ∨ n = 0x020 ∨ n = 0x021 ∨ (0x031 ≤ n ∧ n ≤ 0x034) ∨ (0x044 ≤ n ∧ n ≤ 0x047) then [(0, 64)]
    else if 0x040 ≤ n ∧ n ≤ 0x043 then [(0, 5), (8, 3)]
    else []

/-- Whether a bough image lies within the limits of Table 11.5; its program counter and pending target are bundle addresses (R49,
assumption 140), and its trap enables the launch's. -/
def boughSound (bytes : List Byte) (g : Grove) (l : Launch) (i : Nat) : Bool :=
  let h := numAt bytes 0 8
  let cr (n : Nat) : Nat := (imageCreg bytes n).toNat
  bitsOf h 0 8 == 3 && bitsOf h 8 2 == l.allot / 32 - 1 && bitsOf h 16 4 == i && bitsOf h 24 3 == g.stage &&
    onlyFields h [(0, 8), (8, 2), (16, 4), (20, 2), (24, 3), (28, 3), (32, 7)] && zeroWords bytes 0x38 1 && zeroWords bytes 0xA0 12 &&
    decide (bitsOf h 28 3 ≤ 3) && decide (bitsOf h 32 7 ≤ 64) && decide (numAt bytes 0x18 8 ≤ 2) &&
    numAt bytes 8 8 % 32 == 0 && numAt bytes 0x10 8 % 32 == 0 &&
    decide (numAt bytes 0x20 8 < 2 ^ (64 / l.itemWidth g.stage)) && ((List.range 72).all fun n => onlyFields (cr n) (cregFields n)) &&
    ((List.range 4).all fun j => onlyFields (numAt bytes (0x680 + 8 * j) 8) [(0, 1), (8, 8)]) &&
    numAt bytes 0x30 8 == g.name && cr 0x001 == l.fpen.toNat && decide (cr 0x030 ≤ 4) && decide (bitsOf (cr 0x015) 1 2 ≤ 2) && ((List.range 4).all fun j => decide (bitsOf (cr (0x040 + j)) 8 3 ≤ 4)) &&
    numAt bytes 0x340 8 == 0 && numAt bytes 0x440 8 == 2 ^ 64 - 1 &&
    (imageEntries bytes).all fun e => entrySound l (numAt e 0 8)

/-- The control registers of an image, read-only ones included (Table 5.5). -/
def Bough.takeCregs (b : Bough) (cr : Nat → DWord) : Bough :=
  { b with
    fflags := (cr 0x000).setWidth 6, prio := bitsOf (cr 0x008).toNat 0 2, raised := bitsOf (cr 0x008).toNat 2 2,
    refc := (cr 0x009).setWidth 32, tvec := bundleAddr (cr 0x010), cause := (cr 0x011).setWidth 32 &&& 0xFFFF00FF#32,
    epc := bundleAddr (cr 0x012), tval := cr 0x013, frec := (cr 0x014).setWidth 7, tstatIn := (cr 0x015).getLsbD 0,
    tstatDsn := bitsOf (cr 0x015).toNat 1 2, tdst := cr 0x016, tvmask := cr 0x017, vserved := cr 0x020, vmask := cr 0x021,
    vsite := cr 0x022
    loops := ((List.range (cr 0x030).toNat).map fun d =>
      { count := cr (0x031 + d), start := cr (0x035 + d), last := cr (0x039 + d) }).reverse
    steps := Vector.ofFn fun j =>
      { reg := (cr (0x040 + j.val)).extractLsb' 0 5, depth := bitsOf (cr (0x040 + j.val)).toNat 8 3, stride := cr (0x044 + j.val) } }

/-- A bough as its image holds it, in its new place. -/
def Bough.ofImage (b : Bough) (bytes : List Byte) (l : Launch) (ctx cc : Nat) : Bough :=
  let b := b.takeCregs (imageCreg bytes)
  let es := imageEntries bytes
  let pc := BitVec.ofNat 64 (numAt bytes 8 8)
  { b with
    ctx := ctx, pc := pc, dsTarget := BitVec.ofNat 64 (numAt bytes 0x10 8), dsLeft := numAt bytes 0x18 8,
    active := BitVec.ofNat 64 (numAt bytes 0x20 8), eligSince := cc - numAt bytes 0x28 8,
    needClock := (List.range 24).map fun i => numAt bytes (0x40 + 4 * i) 4
    s := Vector.ofFn fun n => BitVec.ofNat 64 (numAt bytes (0x340 + 8 * n.val) 8)
    p := Vector.ofFn fun n => BitVec.ofNat 64 (numAt bytes (0x440 + 8 * n.val) 8)
    iid := Vector.ofFn fun n => BitVec.ofNat 32 (numAt bytes (0x480 + 8 * n.val) 4)
    iage := Vector.ofFn fun n => BitVec.ofNat 32 (numAt bytes (0x484 + 8 * n.val) 4)
    bars := Vector.ofFn fun n => let x := numAt bytes (0x680 + 8 * n.val) 8
      { armed := x.testBit 0, gen := BitVec.ofNat 8 (x / 256), coming := false }
    lv0 := lanesAt bytes 0x700, lv1 := lanesAt bytes 0x800, lm0 := lanesAt bytes 0x900, lf0 := lanesAt bytes 0xA00
    o := Vector.ofFn fun n => lanesAt bytes (0xB00 + 256 * n.val)
    v := Vector.ofFn fun n => if n.val < l.allot then lanesAt bytes (0x4000 + 256 * n.val) else zeroLanes
    held := bitsOf (numAt bytes 0 8) 28 3
    results := es.zipIdx.map fun e => entryResult e.1 pc e.2
    seq := es.length, status := .ready, phase := none, resumeFrom := some 1, earliest := 0, stretchEnd := none, presented := none,
    compatAt := none, holds := [], stopAsked := false, dbgSkip := false, dbgStep := false, dbgCause := 0 }

/-- Whether a grove image lies within the limits of Tables 11.6 and 12.3. -/
def groveSound (bytes : List Byte) (g : Grove) (l : Launch) : Bool :=
  let h := numAt bytes 0 8
  bitsOf h 0 8 == 3 && bitsOf h 8 4 == l.boughsPer - 1 && h.testBit 16 == (l.flagBlock == 32) && bitsOf h 20 3 == l.tileCount &&
    bitsOf h 24 3 == l.tableCount && numAt bytes 8 8 == g.name && numAt bytes 0x10 8 == g.launch &&
    onlyFields h [(0, 8), (8, 4), (16, 1), (20, 3), (24, 3)] && zeroWords bytes 0x18 29 &&
    ((List.range 32).all fun k =>
      let w := numAt bytes (0x100 + 4 * k) 4
      let st := numAt bytes (0x700 + 8 * k) 8
      (decide (k < l.flagBlock) || (w == 0 && st == 0)) && (w.testBit 24 || (w / 2 ^ 25 == 0 && st == 0))) &&
    ((List.range 4).all fun j =>
      let x := numAt bytes (0x180 + 8 * j) 8
      onlyFields x [(0, 5), (8, 5), (16, 8)] && decide (bitsOf x 0 5 ≤ 16) && decide (bitsOf x 8 5 ≤ 16)) &&
    decide (((List.range 4).map fun j => numAt bytes (0x1B0 + j) 1).sum ≤ 64) &&
    ((List.range 4).all fun j => decide (j < l.tableCount) || numAt bytes (0x1B0 + j) 1 == 0) &&
    ((List.range 8).all fun k =>
      let x := numAt bytes (imageEndpoint k) 8
      onlyFields x [(0, 3), (8, 3), (16, 4), (20, 4), (24, 4)] && zeroWords bytes (imageEndpoint k + 16) 6 &&
        decide (bitsOf x 16 4 ≤ 8) && decide (bitsOf x 20 4 ≤ 7) && decide (bitsOf x 24 4 ≤ 8)) &&
    (let n := numAt bytes 0x1A4 4 % 2 ^ 31
     let next := numAt bytes 0x1A0 4
     n == 0 || (decide (n ≤ 128 - next % 64) && numAt bytes 0x1A8 4 == next / 64))

/-- The segments of table j, from the counts of the tables before it. -/
def imageTable (bytes : List Byte) (j : Nat) : List Segment :=
  let at_ := ((List.range j).map fun i => numAt bytes (0x1B0 + i) 1).sum
  (List.range (numAt bytes (0x1B0 + j) 1)).map fun i =>
    let w (k : Nat) : Word := BitVec.ofNat 32 (numAt bytes (0x200 + 20 * (at_ + i) + 4 * k) 4)
    { bp := w 0, c0 := w 1, c1 := w 2, c2 := w 3, c3 := w 4 }

/-- Endpoint k of an image, bound again by R379: the words and credits are the image's. -/
def imageEnd (bytes : List Byte) (k : Nat) (e : Endpoint) (bc : Nat) : Endpoint :=
  let x := numAt bytes (imageEndpoint k) 8
  { e with broken := e.broken || x.testBit 2
           credits := List.replicate (bitsOf x 24 4) bc
           words := (List.range (bitsOf x 16 4)).map fun i =>
             (bc, lanesAt bytes (imageEndpoint k + 64 + 256 * ((bitsOf x 20 4 + i) % 8))) }

/-- A grove as its image holds it, in its new place. -/
def Grove.ofImage (g : Grove) (bytes : List Byte) (l : Launch) (r : Room) (tab : List ChanEntry) (bc : Nat) : Grove :=
  { g with
    core := r.core, slot := r.slot, flagBase := r.flagBase, tileMap := r.tiles, life := .placed, saveAt := none
    flags := flagsOfBytes ((bytes.drop 0x100).take 128) ((bytes.drop 0x700).take 256)
    bars := Vector.ofFn fun j => let x := numAt bytes (0x180 + 8 * j.val) 8
      { a := bitsOf x 0 5, n := bitsOf x 8 5, g := BitVec.ofNat 8 (x / 2 ^ 16) }
    held := supplyHeld ((bytes.drop 0x1A0).take 16), reqOut := (numAt bytes 0x1A4 4).testBit 31, told := false
    tables := Vector.ofFn fun j => imageTable bytes j.val
    chans := Vector.ofFn fun k =>
      imageEnd bytes k.val (boundEnd tab l g.launch g.ordinal g.stage g.gx g.gy g.gz k.val) bc
    tiles := (List.range (64 * l.tileCount)).map fun n => (n, lanesAt bytes (0x8000 + 256 * n))
    scratch := writeBytes [] 0 ((bytes.drop l.imagePart).take l.scratchBytes), scratchBad := [], flagWrites := [], pipe := [] }

/-! ### Resumption (R365) -/

/-- Whether a copy is still under way into a grove's partition (R361). -/
def State.copiesInto (s : State) (key : Nat) : Bool :=
  s.copies.any fun e => match s.opHome e.2.bough with
    | some (_, l) => (e.2.targets l).any fun p => match p with
      | .part k _ => k == key && e.2.moves && !e.2.refused
      | .global _ => false
    | none => false

/-- Where a saved grove could resume on a core of its launch's span, once nothing lands in it any more. -/
def State.resumeRoom (s : State) (key core : Nat) : Option (Grove × Launch × Room) :=
  match s.grove? key with
  | none => none
  | some g =>
    match s.launchOf g with
    | none => none
    | some l =>
      let m := moduleOf (dieOf core)
      if g.life != .saved || l.life == .killed || s.copiesInto key || s.imagesOwned key g l || !l.span.contains m || (s.module m).mstate != 1 || (s.module m).pstate != 0 ||
          24 ≤ dieOf core % 32 then none
      else
        let ends := (List.range 8).filter fun k => (chanEntry (s.chanTable m l) g.stage k).isSome
        (s.roomOn core l ends).map fun r => (g, l, r)

/-- The images of a saved grove, read by the module on which it stopped; none where they cannot be read or a field is
outside its limits. -/
def State.readImages (s : State) (key : Nat) (g : Grove) (l : Launch) : Option (List Byte × List (Nat × List Byte)) :=
  match g.saveAt with
  | none => none
  | some at_ =>
    match (s.readVa g.saveDie l.asid at_.toNat (l.imagePart + l.scratchBytes)).toOption with
    | none => none
    | some gb =>
      let bs := (s.liveBoughs key l).mapM fun i => ((s.readVa g.saveDie l.asid (boughArea at_.toNat i) 0xE200).toOption).map fun x => (i, x)
      (match bs with
        | none => none
        | some bs => if groveSound gb g l && (bs.all fun x => boughSound x.2 g l x.1) then some (gb, bs) else none)

/-- The writes that a bough resumed on another module is to find at their homes, those of the module it left that its image counts,
and in the view of its new die, those performed at homes of the new module (R135). -/
def State.needWritesOf (s : State) (clock : List Nat) (old d : Nat) : List Nat :=
  s.writes.filterMap fun w =>
    if w.2.home / 32 == old && w.2.order == 0 && w.2.origin != w.2.home && decide (clockOf w.2.clock w.2.origin < clockOf clock w.2.origin) then
      some w.1
    else if w.2.home / 32 == d / 32 && w.2.order != 0 && w.2.todo.contains d then some w.1
    else none

/-- The frame that the new die must have applied (R406), where it lies in the same group. -/
def State.needOf (s : State) (g : Grove) (core : Nat) (b : Bough) : Nat :=
  if s.sameGroup (moduleOf g.die) (moduleOf (dieOf core)) then b.needFrame else 0

/-- GROVE_RESUMPTION (R135, R201, R365, R379, R406): a saved grove takes its place on a core. An image with a field outside its
limits is refused, and the grove stays saved. -/
def execGroveResumption (grove core : Nat) (s : State) : Host.Outcome State Fault Refusal :=
  match s.resumeRoom grove core with
  | none => .next s
  | some (g, l, r) =>
    match s.readImages grove g l with
    | none => .next (s.touchImages grove g l)
    | some (gb, bs) =>
      let s := s.touchImages grove g l
      let m := moduleOf (dieOf core)
      let ctxs := s.freeContexts core l.boughsPer
      let near := m == moduleOf g.die
      let t := s.onGrove grove fun g => g.ofImage gb l r (s.chanTable m l) s.bc
      let t := bs.zipIdx.foldl (fun t x =>
        t.onBough (boughKey grove x.1.1) fun b =>
          let y := { b.ofImage x.1.2 l (ctxs.getD x.2 0) s.cc with needFrame := s.needOf g core b }
          if near then y
          else { y with needClock := [], needWrites := b.needWrites ++ s.needWritesOf y.needClock (moduleOf g.die) (dieOf core) }) t
      let t := if g.reqOut || !(numAt gb 0x1A4 4).testBit 31 then t else t.later (s.cc + 1) (.itemBlockGrant grove)
      .next ((t.onGrove grove fun x => { x with reqOut := x.reqOut || g.reqOut }).askBlock grove)

end Sys2Proof.Machine
end

