-- ==== Sys2Proof/Machine/Beacon.lean ====
section
/-!
DEFINITION. The beacon (13_beacon.md): groups (R392, R393, R399), the send queue and the lamp (R394, R395, R401), frames (R396,
R397), their application on the dies (R398, R402, R403), missing frames (R400), and the module that is its own group (R404).
-/
namespace Sys2Proof.Machine

/-! ### Registers (Tables 13.1 to 13.3) -/

/-- N. -/
def Module.bN (m : Module) : Nat := bitsOf m.bcfg.toNat 16 7
/-- MEMBER. -/
def Module.member (m : Module) : Nat := bitsOf m.bcfg.toNat 8 6
/-- W; 0 selects 32. -/
def Module.bW (m : Module) : Nat := if bitsOf m.bcfg.toNat 32 8 = 0 then 32 else bitsOf m.bcfg.toNat 32 8
/-- GROUP. -/
def Module.group (m : Module) : Nat := bitsOf m.bcfg.toNat 48 16
/-- GUARD in ps. -/
def Module.guard (m : Module) : Nat := bitsOf m.btim.toNat 0 16
/-- FLIGHT in ns. -/
def Module.flight (m : Module) : Nat := bitsOf m.btim.toNat 16 16
/-- LOST in ns. -/
def Module.lost (m : Module) : Nat := bitsOf m.btim.toNat 32 16

/-- Whether the beacon of a module runs: not when its clocks are stopped (R446) or in standby (R470). -/
def Module.beaconUp (m : Module) : Bool := m.clocked && m.pstate != 2

/-- BSTAT (Table 13.3); LASTSEQ is that of die 0. -/
def Module.bstat (m : Module) (lastSeq : Word) : DWord :=
  BitVec.ofNat 64 (packFields [(min m.sendQ.length Config.beaconQueue, 48, 16), (if m.gapHold then 1 else 0, 41, 1),
    (if m.recov then 1 else 0, 40, 1), (m.holder, 32, 6), (lastSeq.toNat, 0, 32)])

/-- Core cycles that hold a time in ps, at the module's clock step (R471): 2.5, 2.0, 1.5 or 1.25 GHz; rounded up to a whole one
(assumption 150). -/
def Module.ccOf (m : Module) (ps : Nat) : Nat := (ps * [10, 8, 6, 5].getD m.clkStep 10 + 3999) / 4000

/-! ### Serial numbers (R395) -/

/-- The later of two numbers. -/
def serialMax (a b : Word) : Word := if serialLt a b then b else a
/-- The frame count whose low 32 bits are a SEQ, nearest to a count (R397). -/
def extendSeq (base : Nat) (q : Word) : Nat :=
  let up := (q - BitVec.ofNat 32 base).toNat
  if up < 2 ^ 31 || base + up < 2 ^ 32 then base + up else base + up - 2 ^ 32

/-! ### Frames (Tables 13.4, 13.5) -/

/-- A field of a frame. -/
def frField (f : BitVec 512) (lo width : Nat) : Nat := bitsOf f.toNat lo width
/-- TYPE. -/
def frType (f : BitVec 512) : Nat := frField f 32 8
/-- SEQ. -/
def frSeq (f : BitVec 512) : Word := BitVec.ofNat 32 (frField f 0 32)
/-- SRC. -/
def frSrc (f : BitVec 512) : Nat := frField f 40 6
/-- SDIE. -/
def frDie (f : BitVec 512) : Nat := frField f 48 5
/-- EPOCH. -/
def frEpoch (f : BitVec 512) : Nat := frField f 64 16
/-- Whether a frame takes a sequence number (R395). -/
def frSequenced (f : BitVec 512) : Bool := frType f == 1 || frType f == 2 || frType f == 3

/-- The payload bits that Table 13.5 lists for a TYPE, as payload positions (frame bit 96 is 0). -/
def payloadBits (type : Nat) : List (Nat × Nat) :=
  match type with
  | 0 => [(0, 6), (6, 1), (32, 64)]
  | 1 => [(0, 12), (12, 3), (32, 64)]
  | 2 => [(0, 12), (32, 16)]
  | 3 => [(0, 16), (16, 6), (32, 64), (96, 32)]
  | _ => [(0, 32), (32, 13)]

/-- Whether every payload bit that is not listed is zero. -/
def payloadOk (type p : Nat) : Bool :=
  p == (payloadBits type).foldl (fun n b => n + bitsOf p b.1 b.2 * 2 ^ b.1) 0

/-- The IV of a frame (R397). -/
def frameIv (f : BitVec 512) (fc : Nat) : BitVec 96 :=
  BitVec.ofNat 96 (packFields [(fc, 0, 64), (frType f, 64, 8), (frSrc f, 72, 6), (0, 78, 2), (frEpoch f, 80, 16)])

/-- The TAG of bits 383:0: under a key of the domain, or the CRC (R397). -/
def frameTag (key : Option (BitVec 256)) (f : BitVec 512) (fc : Nat) : BitVec 128 :=
  let bytes := bytesOfNat 48 (f.toNat % 2 ^ 384)
  match key with
  | some k => Config.gcmTag k (frameIv f fc) bytes []
  | none => (crc32c bytes).setWidth 128

/-- FC of a frame, for a module whose die 0 has applied `base` frames; a RESEND's is the LAMPC of its sender's turn. -/
def frameCount (base lampc : Nat) (f : BitVec 512) : Nat :=
  if frSequenced f then extendSeq base (frSeq f)
  else if frType f = 0 then frField f 128 64
  else lampc

/-- The epoch under which a member sends that has not received a REKEY frame: the new one where frames under it tell that the REKEY has
been sent (R407, assumption 131). -/
def Module.unseenEpoch (m : Module) : Nat :=
  if m.seenEpoch != 0 && (tget m.keys m.seenEpoch).isSome then m.seenEpoch else m.epoch

/-- The epoch under which a member tags a frame of a type and SEQ: the new one for what follows the REKEY frame (R407), a LAMP
that carries its SEQ and a RESEND of one that has it among them (assumption 131). -/
def Module.frameEpoch (m : Module) (type : Nat) (q : Word) : Nat :=
  if m.domain = 0 then 0
  else
    match m.rekey with
    | some r =>
      if r.got then (if (if type = 4 then true else if type = 0 then serialLe r.seq q else serialLt r.seq q) then r.epoch else m.epoch)
      else m.unseenEpoch
    | none => m.unseenEpoch

/-- A frame of a member. -/
def Module.frame (m : Module) (base lampc type sdie : Nat) (q : Word) (payload : Nat) : BitVec 512 :=
  let e := m.frameEpoch type q
  let f : BitVec 512 := BitVec.ofNat 512 (packFields [(q.toNat, 0, 32), (type, 32, 8), (m.member, 40, 6), (sdie, 48, 5),
    (e, 64, 16), (m.group, 80, 16), (payload, 96, 288)])
  let key := if m.domain = 0 then none else some (tgetD m.keys e 0)
  f ||| ((frameTag key f (frameCount base lampc f)).setWidth 512 <<< 384)

/-- Whether a receiver takes a frame (R396): `turn` is the LAMPC of the last LAMP frame received. Past the REKEY frame it takes none under
the old epoch (R407); a RESEND from a member that has yet to apply it may come under either (assumption 131). -/
def Module.frameOk (m : Module) (base turn : Nat) (f : BitVec 512) : Bool :=
  let tag := f.extractLsb' 384 128
  let body : BitVec 512 := (f.setWidth 384).setWidth 512
  let fc := frameCount base turn f
  decide (frType f ≤ 4) && frField f 53 11 == 0 && frField f 46 2 == 0 &&
    (frType f == 1 || frType f == 2 || frDie f == 0) && payloadOk (frType f) (frField f 96 288) &&
    frField f 80 16 == m.group &&
    (if m.domain = 0 then frEpoch f == 0 && tag == frameTag none body fc
     else
      (match m.rekey with
        | some r =>
          !r.got || (if frType f = 4 then serialLt (frSeq f) r.seq || frEpoch f == r.epoch else frEpoch f == m.frameEpoch (frType f) (frSeq f))
        | none => true) &&
        (match tget m.keys (frEpoch f) with
          | some k => tag == frameTag (some k) body fc
          | none => false))

/-! ### Groups (R392, R393, R399, R404) -/

/-- The enabled modules of the group of a module; the group of a domain has no other members than the domain's (R413). -/
def State.groupMembers (s : State) (m : Nat) : List Nat :=
  (s.modules.filter fun e => e.2.bcfg.getLsbD 0 && e.2.group == (s.module m).group && e.2.domain == (s.module m).domain).map (·.1)

/-- Whether a member takes part: not when its group has formed without it (R392). -/
def State.takesPart (s : State) (m : Nat) : Bool :=
  let x := s.module m
  x.bcfg.getLsbD 0 && x.beaconUp && (x.formed || (s.groupMembers m).all fun p => !(s.module p).formed)

/-- The dies of a module. -/
def moduleDies (m : Nat) : List Nat := (List.range Config.diesPerModule).map fun d => 32 * m + d

/-- Every die of a module clears its tables (R399). -/
def State.clearTables (s : State) (m : Nat) : State :=
  (moduleDies m).foldl (fun s d => s.onDie d fun x => { x with flagTab := [], barTab := [], toApply := [], lastSeq := 0, wraps := 0 }) s

/-- Whether the bough of an operation stands on a module. -/
def State.opOn (s : State) (o : GOp) (m : Nat) : Bool := ((s.grove? (groveOf o.bough)).map fun g => moduleOf g.die == m).getD false

/-- The frame of an operation of the beacon. -/
def GOp.qframe (o : GOp) (id sdie : Nat) : Option QFrame :=
  match o.kind with
  | .bpub sub =>
    some { type := 1, sdie := sdie, payload := BitVec.ofNat 288 (packFields [(o.arg0, 0, 12), (sub, 12, 3), (o.arg1.toNat, 32, 64)]), op := id }
  | .bbar b n => some { type := 2, sdie := sdie, payload := BitVec.ofNat 288 (packFields [(b, 0, 12), (n, 32, 16)]), op := id }
  | _ => none

/-- Frames of a module's operations that its old group has not let end enter its queue again (assumption 41). -/
def State.requeue (s : State) (m : Nat) : State :=
  let mine := s.ops.filter fun e => s.opOn e.2 m && e.2.sent && e.2.ended.isNone && (e.2.qframe e.1 0).isSome
  let fs := mine.filterMap fun e => e.2.qframe e.1 (((s.grove? (groveOf e.2.bough)).map fun g => g.die % 32).getD 0)
  let t := mine.foldl (fun t e => t.onOp e.1 fun o => { o with applied := false, bad := false, numbered := none }) s
  t.onModule m fun x => { x with sendQ := fs }

/-! ### Forwarding and application (R398) -/

/-- The event of a sequenced frame's application on a die. -/
def applyEvent (type d : Nat) : Instr :=
  if type = 1 then .pubFrameApply d else if type = 2 then .barFrameApply d else .rekeyFrameApply d

/-- Whether one die of a module can send to another (R388). -/
def State.diesJoined (s : State) (a b : Nat) : Bool := (s.insideLinks (a / 32) (a % 32) (b % 32) 3 (a % 32)).isSome

/-- Die 0 forwards a frame to all dies of the module that it reaches, each of which applies it within 48 ns. -/
def State.forward (s : State) (m : Nat) (f : BitVec 512) : State :=
  ((moduleDies m).filter fun d => s.diesJoined (32 * m) d).foldl (fun s d =>
    (s.onDie d fun x => { x with toApply := x.toApply ++ [f] }).within s.cc ((s.module m).ccOf 48000) (applyEvent (frType f) d)) s

/-- An operation's frame has been sent under a SEQ. -/
def State.frameSent (s : State) (op : Nat) (q : Word) : State :=
  if op = 0 then s else s.onOp op fun o => { o with numbered := some q }

/-- A frame of a module that is its own group takes the next number of its own counter and is forwarded (R404). -/
def State.ownFrame (s : State) (m : Nat) (q : QFrame) : State :=
  let x := s.module m
  let n := x.held + 1
  let f := x.frame 0 0 q.type q.sdie n q.payload.toNat
  ((s.onModule m fun x => { x with held := n, seen := n }).frameSent q.op n).forward m f

/-- Queued frames of a module that is its own group. -/
def State.ownFrames (s : State) (m : Nat) : State :=
  (s.module m).sendQ.foldl (fun s q => s.ownFrame m q) (s.onModule m fun x => { x with sendQ := [] })

/-- The sessions between a module that is no member any more, or that resets, and others end (R412). -/
def State.closeSessions (s : State) (m : Nat) : State :=
  { s with modules := s.modules.map fun (e : Nat × Module) =>
      (e.1, { e.2 with sessions := if e.1 = m then [] else tdel e.2.sessions m }) }

/-- A member leaves its group: its tables and what it held of the group are cleared, and it is its own group from now on
(R392, R399, R404). -/
def State.leaveGroup (s : State) (m : Nat) : State :=
  let t := s.onModule m fun x =>
    { x with bcfg := x.bcfg &&& ~~~1#64, ring := [], held := 0, seen := 0, lamp := none, lampc := 0, gapHold := false,
             recov := false, regenerator := none, repeats := [], air := [], formed := false, seenEpoch := 0,
             left := if x.domain = 0 then x.left else
               some { at_ := s.cc, tdom := x.domain, epoch := x.epoch, key := tgetD x.keys x.epoch 0 },
             tstate := if x.domain = 0 then x.tstate else 0, tdomain := if x.domain = 0 then x.tdomain else 0, keys := if x.domain = 0 then x.keys else [],
             epoch := if x.domain = 0 then x.epoch else 0, rekey := if x.domain = 0 then x.rekey else none, joining := false }
  let t := if (s.module m).domain = 0 then t else t.closeSessions m
  ((t.clearTables m).requeue m).ownFrames m

/-- What a member of a group that begins starts with. -/
def Module.begins (m : Module) (cc : Nat) : Module :=
  { m with ring := [], held := 0, seen := 0, lamp := none, lampc := 0, holder := 0, gapHold := false, recov := false,
           regenerator := none, repeats := [], air := [], lastFrame := cc, lastSrc := m.bN - 1, seenEpoch := 0 }

/-- When a member's own time runs out (R401), and whether it has one: d ≥ 1. -/
def Module.regenAt (m : Module) : Option Nat :=
  let d := (m.member + m.bN - m.lastSrc % m.bN) % m.bN
  if d = 0 then none else some (m.lastFrame + d * m.ccOf (1000 * m.lost))

/-- The member's timer of R401 is set. -/
def State.watchLamp (s : State) (m : Nat) : State :=
  match (s.module m).regenAt with
  | none => s
  | some t => if s.agenda.any fun e => e.2 == .lampRegen m then s else s.atTime (max t s.cc) (.lampRegen m)

/-- A member takes the lamp (R395). -/
def State.takeLamp (s : State) (m : Nat) (q : Word) (lampc : DWord) (recov : Bool) : State :=
  (s.onModule m fun x => { x with lamp := some { seq := q, lampc := lampc, recov := recov, since := s.cc } }).atTime
    (s.cc + (s.module m).ccOf (s.module m).guard) (.lampTurn m)

/-- A member enters a group with nothing of another (R399). -/
def State.enterGroup (s : State) (m : Nat) : State :=
  (((s.onModule m fun x => x.begins s.cc).clearTables m).requeue m).watchLamp m

/-- A group begins on a member: the lamp comes into being at member 0 as its timer runs out, or at once in a group of one
(assumption 42). -/
def State.beginGroup (s : State) (m : Nat) : State :=
  if (s.module m).bN = 1 then (s.enterGroup m).takeLamp m 0 0 false else s.enterGroup m

/-- The group forms when every member number is enabled with the same GROUP and N and none has formed (R392). -/
def State.tryForm (s : State) (m : Nat) : State :=
  let ms := s.groupMembers m
  let n := (s.module m).bN
  let whole := (List.range n).all fun i => ms.any fun p => (s.module p).member == i && (s.module p).bN == n
  if whole && ms.all fun p => !(s.module p).formed && (s.module p).domain == 0 then
    ms.foldl (fun s p => (s.beginGroup p).onModule p fun x => { x with formed := true }) s
  else s

/-- Whether a value may be written to BCFG: no reserved bit, N from 1 to 64, MEMBER below N (R393; the ranges: assumption 43). -/
def bcfgOk (v : DWord) : Bool :=
  (v &&& 0x0000FF00FF80C0FE#64) == 0 &&
    (!v.getLsbD 0 || (decide (1 ≤ bitsOf v.toNat 16 7) && decide (bitsOf v.toNat 16 7 ≤ 64) &&
      decide (bitsOf v.toNat 8 6 < bitsOf v.toNat 16 7)))

/-- Whether a write changes GROUP, W, N or MEMBER while EN is 1 (R393). -/
def bcfgFixed (old v : DWord) : Bool := old.getLsbD 0 && ((old ^^^ v) &&& 0xFFFF00FF007F3F00#64) != 0

/-- A write to BCFG (R393): entering and leaving a group. -/
def State.writeBcfg (s : State) (m : Nat) (v : DWord) : State :=
  let old := (s.module m).bcfg
  if !(s.module m).answers false || !bcfgOk v || bcfgFixed old v then s
  else if !old.getLsbD 0 && v.getLsbD 0 then
    ((s.onModule m fun x => { x with bcfg := v, formed := false }).enterGroup m).tryForm m
  else if old.getLsbD 0 && !v.getLsbD 0 then s.leaveGroup m
  else s.onModule m fun x => { x with bcfg := v }

/-- BCFG_ENABLE (R392, R393, R399): a write of BCFG with EN set. -/
def execBcfgEnable (m : Nat) (value : DWord) (s : State) : Host.Outcome State Fault Refusal :=
  .next (if value.getLsbD 0 then s.writeBcfg m value else s)

/-- BCFG_DISABLE (R392, R393, R399, R404): a write of BCFG with EN clear. -/
def execBcfgDisable (m : Nat) (value : DWord) (s : State) : Host.Outcome State Fault Refusal :=
  .next (if value.getLsbD 0 then s else s.writeBcfg m value)

/-! ### What a die applies -/

/-- An entry after a PUB (Table 6.6). -/
def pubEntry (op : Nat) (e v : DWord) : DWord :=
  match op with
  | 0 => v
  | 1 => e + v
  | 2 => e ||| v
  | _ => if e.toNat < v.toNat then v else e

/-- apply_bar (R402): the entry afterwards, none where the frame is refused, and whether the phase completes. -/
def applyBar (x : BarEntry) (count : Nat) : Option (BarEntry × Bool) :=
  if x.a != 0 && count != x.nb then none
  else
    let y : BarEntry := { x with nb := count, a := x.a + 1 }
    if y.a = count then some ({ y with a := 0, g := y.g + 1 }, true) else some (y, false)

/-- An entry of a barrier table that no frame has touched. -/
def BarEntry.zero : BarEntry := { a := 0, nb := 0, g := 0 }

/-- Whether a die has applied what an operation of the beacon waits for (R398, R403). -/
def GOp.reached (o : GOp) (x : Die) : Bool :=
  let past := o.numbered.any fun q => serialLe q x.lastSeq
  match o.kind with
  | .bpub _ => o.sent && past
  | .bbar b _ => o.applied && (if o.bad then past else serialLt (o.arg1.setWidth 32) (tgetD x.barTab b BarEntry.zero).g)
  | _ => false

/-- Operations on a die that have what they wait for end; their completions come in the next bough cycle (R398, R403). -/
def State.noteEnded (s : State) (d type : Nat) : State :=
  let x := s.die d
  let due := s.ops.filter fun e =>
    e.2.ended.isNone && e.2.reached x && ((s.grove? (groveOf e.2.bough)).map fun g => g.die == d).getD false
  if due.isEmpty then s
  else (due.foldl (fun t e => t.onOp e.1 fun o => { o with ended := some s.bc }) s).atTime (4 * (s.bc + 1)) (applyEvent type d)

/-- A BMARK of the input is followed as a bpub or bbar completes (R434). -/
def State.followMark (s : State) (k op d seq : Nat) : State := (s.playMark k op d seq).getD s

/-- A beacon operation completes (R226, R403): a refused bbar with ILLEGAL_STATE; a bbar acquires at .bcn scope (R146). -/
def State.completeBeacon (s : State) (id : Nat) (o : GOp) (g : Grove) : State :=
  match o.kind with
  | .bpub _ =>
    let q := (o.numbered.getD 0).toNat
    ((s.followMark o.bough 3 g.die q).completeOp id o [] 0 none).markDone o.bough 3 q
  | .bbar _ _ =>
    let q := (s.die g.die).lastSeq.toNat
    (((s.followMark o.bough 2 g.die q).acquireL1 o g 4).completeOp id o [] 0
      (if o.bad then some (o.ownFault (xfault .illegalState) 0) else none)).markDone o.bough 2 q
  | _ => s

/-- The completions of a die whose bough cycle has come. -/
def State.completeEnded (s : State) (d : Nat) : State :=
  s.ops.foldl (fun t e =>
    match e.2.ended, t.opHome e.2.bough with
    | some n, some (g, _) => if n < s.bc && g.die == d then t.completeBeacon e.1 e.2 g else t
    | _, _ => t) s

/-- The input holds back a frame beyond the SEQ of a logged bld or bseq that has not completed (BMARK of R434). -/
def State.playFrame (s : State) (d : Nat) (q : Word) : Bool :=
  (s.die d).playOn && !(s.die d).diverged &&
    (s.nextPlay d fun r => recType r == 0x06 && decide (bitsOf r 160 2 ≤ 1) && serialLt (BitVec.ofNat 32 (bitsOf r 128 32)) q).isSome

/-- An operation that sent the BAR frame of a SEQ has joined a phase, or its frame is refused. -/
def GOp.joins (o : GOp) (here : Bool) (q joined : Word) (bad : Bool) : GOp :=
  match o.kind with
  | .bbar _ _ =>
    if o.sent && !o.applied && o.numbered == some q && here then
      { o with applied := true, bad := bad, arg1 := joined.setWidth 64 }
    else o
  | _ => o

/-- The operation that sent a BAR frame learns what came of it. -/
def State.noteJoined (s : State) (d : Nat) (q joined : Word) (bad : Bool) : State :=
  let here (o : GOp) : Bool := ((s.grove? (groveOf o.bough)).map fun g => s.sameGroup (moduleOf g.die) (moduleOf d)).getD false
  { s with ops := s.ops.map fun (e : Nat × GOp) => (e.1, e.2.joins (here e.2) q joined bad) }

/-- The dies of a module that still accept the old epoch. -/
def State.diesOpen (s : State) (m e : Nat) : List Nat := (moduleDies m).filter fun d => (s.die d).closed != e

/-- The counters and windows of an epoch end with it, so that one whose number comes again begins at 0 (R415, R416). -/
def State.dropEpoch (s : State) (m e : Nat) : State :=
  (moduleDies m).foldl (fun s d => s.onDie d fun x =>
    { x with tseq := x.tseq.filter fun k => k.1 / 4 != e, windows := x.windows.filter fun w => w.epoch != e, owed := tdel x.owed e }) s

/-- The phase of the re-key barrier completes on a die (R418): it accepts the old epoch no longer; when the last die of the
module has, the module erases the old key. The leader reports it from its die 0 (R422). -/
def State.rekeyPhase (s : State) (d : Nat) : State :=
  let m := moduleOf d
  match (s.module m).rekey with
  | none => s
  | some r =>
    let old := (s.module m).epoch
    let t := s.onDie d fun x => { x with closed := old }
    let t := if d % 32 = 0 && (s.module m).tcfg.getLsbD 1 then t.postBeacon m 3 0x53 (s.module m).leadSlot r.seq.toNat else t
    if (t.diesOpen m old).isEmpty then
      (moduleDies m).foldl (fun t d => t.onDie d fun x => { x with closed := 0 })
        ((t.dropEpoch m old).onModule m fun x => { x with keys := tdel x.keys old, epoch := r.epoch, rekey := none, tstate := 2, seenEpoch := 0 })
    else t

/-- The slot of a member number: the occupied slot of that rank (R413). -/
def slotOf (slots : BitVec 64) (member : Nat) : Nat := (((List.range 64).filter fun i => slots.getLsbD i).drop member).headD 0

/-- A member's BAR frame on 0xFFF has been applied on die 0 (R419). -/
def State.noteArrived (s : State) (d src : Nat) : State :=
  if d % 32 != 0 then s
  else s.onModule (moduleOf d) fun x =>
    { x with rekey := x.rekey.map fun r => { r with arrived := slotOf r.slots src :: r.arrived } }

/-- Core cycles of TCFG.DRAIN, in µs; 0 selects 1,000 (R419). -/
def Module.drainCc (m : Module) : Nat :=
  m.ccOf (1000000 * (if bitsOf m.tcfg.toNat 32 16 = 0 then 1000 else bitsOf m.tcfg.toNat 32 16))

/-- Die 0 of the leader has applied the REKEY frame: joiners receive the tables as they stand after it and the frame count
(R399, R414; assumption 45), and the drain limit begins (R419). -/
def State.admitted (s : State) (d : Nat) : State :=
  let m := moduleOf d
  let x := s.module m
  if !x.tcfg.getLsbD 1 || x.domain == 0 then s
  else
    let y := s.die d
    let js := (s.modules.filter fun e => e.2.joining && e.2.domain == x.domain).map (·.1)
    let t := js.foldl (fun t p =>
      ((moduleDies p).foldl (fun t e => t.onDie e fun z =>
        { z with flagTab := y.flagTab, barTab := y.barTab, lastSeq := y.lastSeq, wraps := y.wraps }) t).onModule p fun z =>
          { z with joining := false, rekey := z.rekey.map fun r => { r with appliedCc := some s.cc } }) s
    t.atTime (s.cc + x.drainCc) (.drainTimeout m)

/-- A frame is applied to the tables of a die (R398, R402, R407). -/
def State.applyTables (s : State) (d : Nat) (f : BitVec 512) : State :=
  if frType f = 1 then
    let v := BitVec.ofNat 64 (frField f 128 64)
    s.onDie d fun x => { x with flagTab := tupd x.flagTab (frField f 96 12) 0 (fun e => pubEntry (frField f 108 3) e v) }
  else if frType f = 2 then
    let id := frField f 96 12
    let x := tgetD (s.die d).barTab id BarEntry.zero
    match applyBar x (frField f 128 16) with
    | none => s.noteJoined d (frSeq f) 0 true
    | some (y, done) =>
      let t := (s.onDie d fun z => { z with barTab := tput z.barTab id y }).noteJoined d (frSeq f) x.g false
      let t := if id = 0xFFF then t.noteArrived d (frSrc f) else t
      if done && id == 0xFFF then t.rekeyPhase d else t
  else
    let t := s.onDie d fun z => { z with barTab := tupd z.barTab 0xFFF BarEntry.zero fun x => { a := 0, nb := 0, g := x.g + 1 } }
    if d % 32 = 0 then
      (t.onModule (moduleOf d) fun x => { x with rekey := x.rekey.map fun r => { r with appliedCc := some s.cc } }).admitted d
    else t

/-- The frame that a die may apply next, if it is of the type given: one at most in a core cycle. -/
def State.frameDue (s : State) (d type : Nat) : Option (BitVec 512) :=
  (s.die d).toApply.head?.filter fun f =>
    frType f == type && !(s.module (moduleOf d)).joining && (s.die d).appliedCc != s.cc + 1 && !s.playFrame d (frSeq f)

/-- A die applies its next frame. -/
def State.applyNext (s : State) (d : Nat) (f : BitVec 512) : State :=
  let t := s.onDie d fun x =>
    { x with toApply := x.toApply.drop 1, lastSeq := frSeq f, wraps := if frSeq f = 0 then x.wraps + 1 else x.wraps,
             appliedCc := s.cc + 1 }
  t.applyTables d f

/-- An event of application on a die: the completions that are due, then the next frame; one that has ended operations only
comes again for the frames that wait. -/
def State.applyFrame (s : State) (d type : Nat) : State :=
  let t := s.completeEnded d
  match t.frameDue d type with
  | some f => (t.applyNext d f).noteEnded d type
  | none =>
    let u := t.noteEnded d type
    if u = s || (u.die d).toApply.isEmpty then u else u.atTime (u.cc + 1) (applyEvent type d)

/-- PUB_FRAME_APPLY (R226, R398). -/
def execPubFrameApply (die : Nat) (s : State) : Host.Outcome State Fault Refusal := .next (s.applyFrame die 1)

/-- BAR_FRAME_APPLY (R402, R403, R418). -/
def execBarFrameApply (die : Nat) (s : State) : Host.Outcome State Fault Refusal := .next (s.applyFrame die 2)

/-- REKEY_FRAME_APPLY (R407, R418). -/
def execRekeyFrameApply (die : Nat) (s : State) : Host.Outcome State Fault Refusal := .next (s.applyFrame die 3)

/-! ### Entering the send queue (R394) -/

/-- A frame that is ready enters the send queue, behind those that became ready before; or it is numbered at once where the
module is its own group (R404). The frames of `sendQ` past the first 4,096 wait in their engines for the queue to have room. -/
def State.enqueueFrame (s : State) (m : Nat) (q : QFrame) : State :=
  if !(s.module m).bcfg.getLsbD 0 then s.ownFrame m q else s.onModule m fun x => { x with sendQ := x.sendQ ++ [q] }

/-- The frame of an operation enters the queue of its module. -/
def State.enqueueOp (s : State) (id : Nat) (o : GOp) (g : Grove) : State :=
  match o.qframe id (g.die % 32) with
  | none => s
  | some q => (s.onOp id fun x => { x with sent := true }).enqueueFrame (moduleOf g.die) q

/-- BPUB_ENQUEUE (R226, R394): once its release at .bcn scope has completed. -/
def execBpubEnqueue (op : Nat) (s : State) : Host.Outcome State Fault Refusal :=
  match tget s.ops op with
  | none => .next s
  | some o =>
    match o.kind, s.opHome o.bough with
    | .bpub _, some (g, _) =>
      if o.sent || !o.performed s.bc || s.heldByOp o.bough o.order || !s.released o 4 g.die then .next s
      else .next (s.enqueueOp op o g)
    | _, _ => .next s

/-- Whether an earlier operation holds a bbar: an earlier bbar only until its frame has entered the queue (R394, R403). -/
def State.heldBar (s : State) (o : GOp) : Bool :=
  s.ops.any fun e => e.2.bough == o.bough && decide (e.2.order < o.order) && e.2.holds &&
    (match e.2.kind with
      | .bbar _ _ => !e.2.sent
      | _ => true)

/-- BBAR_ENQUEUE (R200, R394): once the writes that the bough issued before have been acknowledged; being a release at .bcn
scope (R146), it waits for all that R140 names. -/
def execBbarEnqueue (op : Nat) (s : State) : Host.Outcome State Fault Refusal :=
  match tget s.ops op with
  | none => .next s
  | some o =>
    match o.kind, s.opHome o.bough with
    | .bbar _ _, some (g, _) =>
      if o.sent || !o.performed s.bc || s.heldBar o || !s.released o 4 g.die then .next s
      else .next (s.enqueueOp op o g)
    | _, _ => .next s

/-! ### Sending -/

/-- The event of a frame's arrival at a receiver, undamaged. -/
def receiveEvent (f : BitVec 512) (m : Nat) : Instr :=
  if frType f = 0 then .lampFrameReceive m (some 0) else if frType f = 4 then .resendFrameReceive m (some 0)
  else .beaconFrameReceive m (some 0)

/-- A member sends a frame, the `n`-th of its turn: every member receives it, within FLIGHT of its end (R392, R396). -/
def State.broadcast (s : State) (m n : Nat) (f : BitVec 512) : State :=
  let x := s.module m
  (s.groupMembers m).foldl (fun t p =>
    if t.takesPart p then
      (t.onModule p fun y => { y with air := y.air ++ [f] }).within (s.cc + x.ccOf (640 * n)) (x.ccOf (1000 * x.flight)) (receiveEvent f p)
    else t) s

/-- A frame kept in the ring of the last 4,096 (R400). -/
def Module.ringPut (m : Module) (f : BitVec 512) : Module :=
  let r := tput m.ring (frSeq f).toNat f
  let top := r.foldl (fun q e => serialMax q (BitVec.ofNat 32 e.1)) (frSeq f)
  { m with ring := r.filter fun e => decide ((top - BitVec.ofNat 32 e.1).toNat < 4096), seen := serialMax m.seen (frSeq f) }

/-- The highest SEQ that a member holds. -/
def Module.topHeld (m : Module) : Word := m.ring.foldl (fun q e => serialMax q (BitVec.ofNat 32 e.1)) m.held

/-- What has been sent in a turn so far: the state, the number of frames, the last SEQ assigned. -/
structure Turn where
  s : State
  n : Nat
  seq : Word

/-- One frame more of the turn. -/
def Turn.put (t : Turn) (m : Nat) (f : BitVec 512) : Turn := { t with s := t.s.broadcast m (t.n + 1) f, n := t.n + 1 }

/-- SEQs from one up, `n` of them. -/
def seqsFrom (q : Word) (n : Nat) : List Word := (List.range n).map fun i => q + BitVec.ofNat 32 i

/-- The frames that a member misses first: the SEQ after the last in order, up to the next that it holds. -/
def Module.missing (m : Module) : Nat :=
  let n := (m.seen - m.held).toNat
  (((List.range (min n 4096)).find? fun i => (tget m.ring (m.held + BitVec.ofNat 32 (i + 1)).toNat).isSome)).getD (min n 4096)

/-- Whether a frame is still held by a ring of the group, or on its way to a member. -/
def State.frameHeld (s : State) (m : Nat) (q : Word) : Bool :=
  (s.module m).air.any (fun f => frSequenced f && frSeq f == q) ||
    (s.groupMembers m).any fun p => (tget (s.module p).ring q.toNat).isSome

/-- Frames applied on die 0 of a module. -/
def State.applied0 (s : State) (m : Nat) : Nat := (s.die (32 * m)).wraps * 2 ^ 32 + (s.die (32 * m)).lastSeq.toNat

/-- The RESEND of a turn (R400). -/
def Turn.resend (t : Turn) (m : Nat) (lampc : DWord) : Turn :=
  let x := t.s.module m
  if !x.gapHold then t
  else t.put m (x.frame (t.s.applied0 m) lampc.toNat 4 0 (t.s.die (32 * m)).lastSeq
    (packFields [((x.held + 1).toNat, 0, 32), (x.missing, 32, 13)]))

/-- Frames repeated bit for bit, those that the ring holds. -/
def Turn.repeatAll (t : Turn) (m : Nat) (qs : List Word) : Turn :=
  qs.foldl (fun t q => match tget (t.s.module m).ring q.toNat with | some f => t.put m f | none => t) t

/-- The frame of the queue that a member sends next: the head; in replay the one whose logged SEQ is next, else the head if
the input does not name it (BMARK of R434). -/
def State.pickFrame (s : State) (m : Nat) (q : Word) : Option QFrame :=
  let logged (f : QFrame) : Option Nat :=
    if f.type != 1 then none
    else
      match tget s.ops f.op with
      | none => none
      | some o =>
        let d := 32 * m + f.sdie
        if s.plays d (launchOfKey o.bough) then
          (s.nextPlay d fun r => recType r == 0x06 && recOf r (s.boughIds o.bough) && bitsOf r 160 2 == 3).map fun x => bitsOf x.2 128 32
        else none
  match (s.module m).sendQ.find? fun f => logged f == some q.toNat with
  | some f => some f
  | none => (s.module m).sendQ.head?.filter fun f => (logged f).isNone

/-- N and MEMBER as SLOTS gives them (R413, R418). -/
def Module.renumber (m : Module) (slots : BitVec 64) : Module :=
  let slot := m.slot
  let n := ((List.range 64).filter fun i => slots.getLsbD i).length
  let r := ((List.range slot).filter fun i => slots.getLsbD i).length
  { m with slots := slots, bcfg := (m.bcfg &&& ~~~0x7F3F00#64) ||| BitVec.ofNat 64 (packFields [(n, 16, 7), (r, 8, 6)]) }

/-- The REKEY frame of a SEQ has been sent or received: the new numbering, and the new epoch beyond it (R407, R418). -/
def Module.noteRekey (m : Module) (q : Word) : Module :=
  match m.rekey with
  | none => m
  | some r => { m with rekey := some { r with seq := q, got := true } }.renumber r.slots

/-- An exchange that nothing has begun. -/
def Session.none : Session := { stage := 0, error := false, caps := [], certOk := false, measured := [], keyed := false, secured := false }

/-- Whether a session lets its module join (R412): it stands, the chain verifies, and every measurement is the expected one. -/
def Session.admits (x : Session) : Bool := x.secured && x.certOk && [1, 2, 3, 4].all x.measured.contains

/-- The session of a requester with a module. -/
def State.session (s : State) (peer m : Nat) : Session := tgetD (s.module peer).sessions m Session.none
/-- Modules that a re-key admits (R418): attested, holding the new key, in a slot of the new set. -/
def State.joiners (s : State) (m : Nat) (r : Rekey) : List Nat :=
  (s.modules.filter fun e =>
    e.2.tstate == 1 && e.2.tdom == (s.module m).domain && r.slots.getLsbD e.2.slot && (s.session m e.1).admits &&
      (tget e.2.keys r.epoch).isSome).map (·.1)

/-- The REKEY frame of a SEQ has left the leader: joiners take part from the frame after it (R418), and hold the frame count
that the leader's session has given them (R397, R414). -/
def State.letIn (s : State) (m : Nat) (q : Word) : State :=
  let x := s.module m
  match x.rekey with
  | none => s
  | some r =>
    (s.joiners m r).foldl (fun t p =>
      let t := t.onModule p fun y =>
        let z := Module.renumber { y.begins s.cc with tdomain := x.domain, tslot := y.slot, left := none, tstate := 3 } r.slots
        { z with bcfg := (z.bcfg &&& 0x0000FFFFFFFFFFFE#64) ||| BitVec.ofNat 64 (packFields [(1, 0, 1), (x.group, 48, 16)]),
                 formed := true, held := q, seen := q, lastSrc := x.member, epoch := x.epoch, joining := true,
                 leadSlot := x.slot,
                 rekey := some { r with seq := q, got := true, appliedCc := none, barSent := false, arrived := [] } }
      let t := (moduleDies p).foldl (fun t d => t.onDie d fun y => { y with lastSeq := q, wraps := extendSeq (s.applied0 m) q / 2 ^ 32 })
        (t.clearTables p)
      ((t.requeue p).watchLamp p).later (t.cc + 1) (.rekeyDrainDone p)) s

/-- New frames of a turn, at most W (R395). -/
def Turn.newFrames (m : Nat) : Nat → Turn → Turn
  | 0, t => t
  | fuel + 1, t =>
    match t.s.pickFrame m (t.seq + 1) with
    | none => t
    | some q =>
      let n := t.seq + 1
      let x := t.s.module m
      let f := x.frame (t.s.applied0 m) 0 q.type q.sdie n q.payload.toNat
      let s := t.s.onModule m fun x =>
        let y := Module.ringPut { x with sendQ := x.sendQ.erase q } f
        if q.type = 3 then y.noteRekey n else y
      let u := Turn.put { t with s := s.frameSent q.op n } m f
      Turn.newFrames m fuel { u with s := if q.type = 3 then u.s.letIn m n else u.s, seq := n }

/-- The LAMP frame of a member. -/
def State.lampFrame (s : State) (m : Nat) (q : Word) (lampc : DWord) (recov : Bool) : BitVec 512 :=
  let x := s.module m
  x.frame (s.applied0 m) 0 0 0 q (packFields [((x.member + 1) % x.bN, 0, 6), (if recov then 1 else 0, 6, 1), (lampc.toNat, 32, 64)])

/-- Whether a LAMP frame with a LAMPC from a member belongs to the recovery round that this member began with LAMPC `c`: the
lamp passes from member to member, and LAMPC counts the passes (R395, R401). -/
def Module.ofRound (m : Module) (c : DWord) (src : Nat) (lampc : DWord) : Bool :=
  (src + m.bN - m.member % m.bN) % m.bN == (lampc - c).toNat % m.bN

/-- A member that has begun a recovery round learns that it is over from a LAMP frame of another one, unless that one began
first (assumption 130). -/
def Module.roundSeen (m : Module) (src : Nat) (lampc : DWord) (recov : Bool) : Module :=
  match m.regenerator with
  | none => m
  | some c =>
    let older := lampc.toNat < c.toNat || (lampc == c && decide (m.member < src))
    if src == m.member || (recov && (older || m.ofRound c src lampc)) then m else { m with regenerator := none }

/-- The turn of a member that holds the lamp (R395, R400, R401). -/
def State.turn (s : State) (m : Nat) (l : Lamp) : State :=
  let x := s.module m
  let home := l.recov && x.regenerator.any fun c => x.ofRound c (x.member + x.bN - 1) l.lampc
  let t : Turn := { s := s, n := 0, seq := l.seq }
  let t := (t.resend m l.lampc).repeatAll m (x.repeats.map (BitVec.ofNat 32))
  let t := if l.recov && !home then t.repeatAll m ((seqsFrom (x.topHeld - 4095) 4096).filter fun q => serialLt l.seq q) else t
  let t : Turn := if l.recov then { t with seq := serialMax l.seq x.topHeld } else Turn.newFrames m x.bW t
  let recov := l.recov && !home
  let s := (t.put m (t.s.lampFrame m t.seq (l.lampc + 1) recov)).s
  let s := s.onModule m fun x =>
    { x with lamp := none, repeats := [], regenerator := if home then none else x.regenerator, recov := recov }
  if home then s.postBeacon m 2 0x43 x.member t.seq.toNat else s

/-- LAMP_TURN (R395): GUARD after its LAMP frame the holder acts; one that misses a frame that no ring holds any more leaves
the group (R400). -/
def execLampTurn (m : Nat) (s : State) : Host.Outcome State Fault Refusal :=
  let x := s.module m
  match x.lamp with
  | none => .next s
  | some l =>
    if s.cc < l.since + x.ccOf x.guard then .next (s.atTime (l.since + x.ccOf x.guard) (.lampTurn m))
    else if !s.takesPart m then .next (s.onModule m fun x => { x with lamp := none })
    else if x.gapHold && !s.frameHeld m (x.held + 1) then
      .next ((s.postBeacon m 2 0x41 x.member (x.held + 1).toNat).leaveGroup m)
    else .next (s.turn m l)

/-! ### Receiving -/

/-- Frames in order go to the dies: those held, none still on its way to the receiver. -/
def State.advanceHeld (m : Nat) : Nat → State → State
  | 0, s => s
  | fuel + 1, s =>
    let x := s.module m
    let n := x.held + 1
    match tget x.ring n.toNat with
    | none => s
    | some f =>
      if x.held = x.seen || x.air.any (fun g => frSequenced g && frSeq g == n) then s
      else State.advanceHeld m fuel ((s.onModule m fun x => { x with held := n }).forward m f)

/-- The held frames move on, and GAP says whether one is missing (R400). -/
def State.settleHeld (s : State) (m : Nat) : State :=
  (State.advanceHeld m Config.beaconQueue s).onModule m fun x =>
    { x with gapHold := serialLt x.held x.seen && !x.air.any fun g => frSequenced g && frSeq g == x.held + 1 }

/-- A frame that checks (R395, R400, R401). -/
def State.goodFrame (s : State) (m : Nat) (f : BitVec 512) : State :=
  let x := s.module m
  let s := s.onModule m fun x => { x with lastFrame := s.cc, lastSrc := frSrc f
                                          seenEpoch := if x.domain != 0 && frEpoch f != x.epoch then frEpoch f else x.seenEpoch }
  let s := s.watchLamp m
  match frType f with
  | 0 =>
    let s := (s.onModule m fun x =>
      { x.roundSeen (frSrc f) (BitVec.ofNat 64 (frField f 128 64)) (frField f 102 1 == 1) with
               holder := frSrc f, recov := frField f 102 1 == 1,
               seen := serialMax (if frField f 102 1 = 1 then x.topHeld else x.seen) (frSeq f),
               lampc := BitVec.ofNat 64 (frField f 128 64) }).settleHeld m
    if frField f 96 6 = x.member then s.takeLamp m (frSeq f) (BitVec.ofNat 64 (frField f 128 64)) (frField f 102 1 == 1) else s
  | 4 =>
    let qs := (seqsFrom (BitVec.ofNat 32 (frField f 96 32)) (frField f 128 13)).filter fun q => (tget x.ring q.toNat).isSome
    if frSrc f = x.member then s else s.onModule m fun x => { x with repeats := (x.repeats ++ qs.map (·.toNat)).eraseDups }
  | _ =>
    let s := s.onModule m fun x => { x with repeats := x.repeats.filter fun q => q != (frSeq f).toNat }
    if serialLe (frSeq f) x.held then s
    else
      let s := (s.onModule m fun x => x.ringPut f).settleHeld m
      if frType f = 3 then s.atTime s.cc (.rekeyReceive m) else s

/-- A receiver takes the next frame on its way to it, of the types that an event names; a lost one is gone, a damaged one
is checked as it stands. -/
def State.receiveFrame (s : State) (m : Nat) (kind : Nat → Bool) (damage : Option (BitVec 512)) : State :=
  match (s.module m).air with
  | [] => s
  | f :: rest =>
    if !kind (frType f) then s
    else
      let t := s.onModule m fun x => { x with air := rest }
      match damage with
      | none => if t.takesPart m then t.settleHeld m else t
      | some x =>
        let g := f ^^^ x
        if !t.takesPart m then t
        else if (t.module m).frameOk (t.applied0 m) (t.module m).lampc.toNat g then t.goodFrame m g
        else (t.postBeacon m 2 0x42 (frSrc g) (frSeq g).toNat).settleHeld m

/-- LAMP_FRAME_RECEIVE (R395, R396, R400, R401). -/
def execLampFrameReceive (m : Nat) (damage : Option (BitVec 512)) (s : State) : Host.Outcome State Fault Refusal :=
  .next (s.receiveFrame m (fun t => t == 0) damage)

/-- BEACON_FRAME_RECEIVE (R396, R400): PUB, BAR and REKEY. -/
def execBeaconFrameReceive (m : Nat) (damage : Option (BitVec 512)) (s : State) : Host.Outcome State Fault Refusal :=
  .next (s.receiveFrame m (fun t => t != 0 && t != 4) damage)

/-- RESEND_FRAME_RECEIVE (R400). -/
def execResendFrameReceive (m : Nat) (damage : Option (BitVec 512)) (s : State) : Host.Outcome State Fault Refusal :=
  .next (s.receiveFrame m (fun t => t == 4) damage)

/-- LAMP_REGEN (R401): no frame has come for d × LOST. -/
def execLampRegen (m : Nat) (s : State) : Host.Outcome State Fault Refusal :=
  let x := s.module m
  match x.regenAt with
  | none => .next s
  | some t =>
    if !s.takesPart m then .next s
    else if s.cc < t then .next (s.watchLamp m)
    else
      let s := s.postBeacon m 2 0x40 x.member x.topHeld.toNat
      let s := s.onModule m fun x =>
        { x with regenerator := some (x.lampc + 1), recov := true, lastFrame := s.cc, lastSrc := x.member }
      .next (s.broadcast m 1 (s.lampFrame m x.topHeld (x.lampc + 1) true))

end Sys2Proof.Machine
end

