-- ==== Sys2Proof/Machine/Fabric.lean ====
section
/-!
DEFINITION. The links at work: flits received, acknowledged and replayed (R372, R376), multicast (R377), loss of light (R384 to
R386), ports and die links going down (R387, R388), parking and waking (R389), and the port registers (R390).
-/
namespace Sys2Proof.Machine

/-! ### Registers (Tables 12.5 to 12.7) -/

/-- LCTL as read; CLRF reads zero. -/
def Link.lctl (x : Link) : DWord :=
  BitVec.ofNat 64 (packFields [(if x.en then 1 else 0, 0, 1), (x.park.toNat, 16, 4), (x.wthr.toNat, 24, 16)])
/-- LSTAT. -/
def Link.lstat (x : Link) : DWord :=
  BitVec.ofNat 64 (packFields [(groupWaves x.active, 0, 16), (x.light.toNat, 16, 16), (x.parked.toNat, 32, 4),
    (x.waking.toNat, 36, 4), (x.failed.toNat, 40, 4), (min x.queue.length 65535, 48, 16)])
/-- LCNT. -/
def Link.lcnt (x : Link) : DWord := BitVec.ofNat 64 (packFields [(x.replayed, 0, 32), (x.lols, 32, 16)])

/-! ### Sending -/

/-- Whether the fabric of a module runs: not in a freeze, after a trip, or in standby (R446, R470, R471). -/
def Module.fabricUp (m : Module) : Bool := m.clocked && m.pstate != 2

/-- Whether a link end may send now: an optical port needs an active group and no pause (R385, R390). -/
def State.maySend (s : State) (p : Nat) : Bool :=
  let x := s.link p
  !x.down && x.en && x.pauseTo.isNone && x.active != 0 && (s.module (linkModule p)).fabricUp

/-- The flit of the queue that goes next: the classes take turns, each in its own order (R373). -/
def Link.turn (x : Link) : Option Flit :=
  (List.range 4).findSome? fun i => x.queue.find? fun f => f.cls == x.lastCls + BitVec.ofNat 2 (i + 1)

/-- A control flit (R384, R385), of KIND 2. -/
def controlFlit (body : List Byte) : Flit := { Flit.idle with kind := 2, body := body }

/-- Whether a link end may take a flit of its queue: its replay buffer has room (R372), and the flit is not the first that is to be cut
under a set that is still to come into force (R384). -/
def Link.mayTake (x : Link) : Bool := decide (x.unacked.length < Config.replayBuffer) && x.pendingSet.all fun p => p.1 != x.nextSeq

/-- Flits that wait at a link end: control flits first, then those of a replay, then those of its queue while its replay buffer
has room (R372). -/
def Link.next (x : Link) : Option Flit :=
  match x.control with
  | c :: _ => some (controlFlit c)
  | [] =>
    if h : x.sent < x.unacked.length then some (x.unacked.get ⟨x.sent, h⟩)
    else if x.mayTake then x.turn.map fun f => { f with seq := x.nextSeq }
    else none

/-- The flit has been sent. -/
def Link.sendNext (x : Link) : Link :=
  if !x.control.isEmpty then { x with control := x.control.drop 1 }
  else if x.sent < x.unacked.length then { x with sent := x.sent + 1 }
  else if !x.mayTake then x
  else
    match x.turn with
    | none => x
    | some f =>
      { x with unacked := x.unacked ++ [{ f with seq := x.nextSeq }], sent := x.sent + 1, queue := x.queue.erase f, lastCls := f.cls,
               nextSeq := x.nextSeq + 1 }

/-- The next flit of a link end on the way to its peer: an idle one where nothing waits; it carries what the end has received. -/
def State.takeFlit (s : State) (p : Nat) : Flit × State :=
  let x := s.link p
  let f := x.next.getD Flit.idle
  ({ f with ack := x.rxSeq, nak := x.nakOwed }, s.onLink p fun x => { x.sendNext with nakOwed := false })

/-! ### Beats (R384) -/

/-- The wavelengths of a set of groups, in increasing order. -/
def wavesOf (g : BitVec 4) : List Nat := (List.range 16).filter fun i => (groupWaves g).testBit i

/-- A flit cut into beats of equal size, one for each active wavelength. -/
def cutBeats (n : Nat) (bs : List Byte) : List (List Byte) :=
  (List.range n).map fun i => (bs.drop (bs.length / n * i)).take (bs.length / n)

/-- The 336 bytes of a flit that arrive at a link end, joined from its beats under the set under which they were cut; none where
a beat's wavelength is dark. A die link carries a flit whole. -/
def State.joinBeats (s : State) (k : Nat) (f : Flit) : Option (BitVec 2688) :=
  if !isPort k then some f.image
  else
    let waves := wavesOf (s.link (peerEnd k)).active
    let beats := (waves.zip (cutBeats waves.length (bytesOfNat 336 f.image.toNat))).mapM fun b =>
      if (s.link k).light.getLsbD b.1 then some b.2 else none
    beats.map fun bs => BitVec.ofNat 2688 (natOfBytes bs.flatten)

/-! ### Acknowledgement and replay (R372) -/

/-- Whether a flit's number is not above an acknowledged one. -/
def ackCovers (ack q : BitVec 24) : Bool := decide ((ack - q).toNat < 2 ^ 23)

/-- Flits up to an acknowledged number leave the replay buffer; progress begins the count of attempts anew. -/
def Link.acked (x : Link) (ack : BitVec 24) : Link :=
  let n := (x.unacked.takeWhile fun f => ackCovers ack f.seq).length
  if n = 0 then x else { x with unacked := x.unacked.drop n, sent := x.sent - n, attempts := 0 }

/-- Every unacknowledged flit is to be sent again (R372, R390). -/
def Link.replay (x : Link) : Link :=
  if x.unacked.isEmpty then x
  else { x with sent := 0, replayed := (x.replayed + x.unacked.length) % 2 ^ 32, attempts := x.attempts + 1 }

/-- The event that brings a flit to each end of a link. -/
def State.askFlits (s : State) (p n : Nat) : State := s.laterAll (s.cc + 1) ((List.range n).map fun _ => .flitReceive (peerEnd p) 0)

/-- A replay of a flit that has reached 8 attempts takes its link down (R387). -/
def State.checkDown (s : State) (p : Nat) : State :=
  if 8 ≤ (s.link p).attempts then s.atTime s.cc (if isPort p then .portDown p else .dieLinkDown p) else s

/-- NAK_RECEIVE (R372): the sender replays from the first unacknowledged number. -/
def execNakReceive (link : Nat) (s : State) : Host.Outcome State Fault Refusal :=
  match (s.link link).naks with
  | [] => .next s
  | a :: rest =>
    let t := s.onLink link fun x => (Link.acked { x with naks := rest } a).replay
    .next ((t.askFlits link (t.link link).unacked.length).checkDown link)

/-! ### Receiving (R372, R373, R376) -/

/-- A flit in order goes on: it has arrived, or takes its next link; one that no way is left for is dropped (R387, R388). -/
def State.passOn (s : State) (k : Nat) (f : Flit) : State :=
  let d := linkDie k
  if f.cls = 2 then s.holdMcast d (some (peerEnd k)) f
  else if f.da = d then s.deliverFlit d f
  else
    match (s.wayOn f.sa d f.da).bind (·.head?) with
    | some n => s.sendFlit n { f with vc := hopVc f.sa (some (peerEnd k)) f.vc n }
    | none => s.takeAllEarly

/-- A control flit of the far end (R384): a new active set is agreed by its boundary. -/
def Link.takeControl (x : Link) (body : List Byte) : Link :=
  { x with pendingSet := x.pendingSet.map fun p => (p.1, p.2 || (body.take 1 == [2] && (body.drop 2).take 3 == bytesOfNat 3 p.1.toNat)) }

/-- A sound flit: what it acknowledges leaves the buffer of the end's own sender; data in order is passed on and answered,
a repeat is only answered; a control flit may agree a new active set. -/
def State.soundFlit (s : State) (k : Nat) (f : Flit) : State :=
  let t := if f.nak then (s.onLink k fun x => { x with naks := x.naks ++ [f.ack] }).atTime s.cc (.nakReceive k)
    else s.onLink k fun x => x.acked f.ack
  if f.kind = 2 then t.onLink k fun x => x.takeControl f.body
  else if f.kind != 1 then t
  else if f.seq = (t.link k).rxSeq + 1 then ((t.onLink k fun x => { x with rxSeq := f.seq }).askFlits k 1).passOn k f
  else if ackCovers (t.link k).rxSeq f.seq then t.askFlits k 1
  else t

/-- FLIT_RECEIVE (R372, R373, R376, R416): the next flit of the peer arrives at a link end, `damage` being what its bits have
suffered; one whose CRC fails is answered with NAK. -/
def execFlitReceive (link : Nat) (damage : BitVec 2688) (s : State) : Host.Outcome State Fault Refusal :=
  let p := peerEnd link
  if !s.maySend p || (s.link link).down || !(s.module (linkModule link)).fabricUp then .next s
  else
    let r := s.takeFlit p
    match (s.joinBeats link r.1).map fun x => x ^^^ damage with
    | some x =>
      if imageSound x then .next (r.2.soundFlit link (if damage = 0 then r.1 else r.1.ofImage x))
      else .next ((r.2.onLink link fun y => { y with nakOwed := true }).askFlits link 1)
    | none => .next ((r.2.onLink link fun y => { y with nakOwed := true }).askFlits link 1)

/-! ### Multicast (R377) -/

/-- Whether an older entry of a buffer is still owed on a link: entries leave in order (R376). -/
def Die.olderOwed (x : Die) (entry out : Nat) : Bool :=
  x.mcast.any fun e => decide (e.1 < entry) && (e.2.owed.lookup out).isSome

/-- MULTICAST_FORWARD (R377): a copy goes out on a link once the buffer beyond it has room; an entry that is owed on no link is
freed, and makes room for what the die's own engines send. -/
def execMulticastForward (die entry out : Nat) (s : State) : Host.Outcome State Fault Refusal :=
  match tget (s.die die).mcast entry with
  | none => .next s
  | some e =>
    match e.owed.lookup out with
    | none => .next s
    | some ms =>
      if (s.die die).olderOwed entry out || !s.mcastFits (linkDie (peerEnd out)) then .next s
      else
        let left := e.owed.filter fun x => x.1 != out
        let t := s.onDie die fun x =>
          { x with mcast := if left.isEmpty then tdel x.mcast entry else tput x.mcast entry { e with owed := left } }
        let t := t.sendFlit out { e.flit with members := ms, vc := hopVc e.flit.sa e.cameBy e.flit.vc out }
        .next (State.admitMcast die (t.die die).mcastWait.length t)

/-! ### Light (R385, R386) -/

/-- The wavelengths of a group. -/
def groupLight (g : Nat) : BitVec 16 := BitVec.ofNat 16 (groupWaves (BitVec.ofNat 4 (2 ^ g)))

/-- The body of a loss notice: what it says, the group, and the last sequence received in order (assumption 133). -/
def lossNotice (group : Nat) (q : BitVec 24) : List Byte := bytesOfNat 5 (packFields [(1, 0, 8), (group, 8, 8), (q.toNat, 16, 24)])

/-- The body of the control flit that agrees an active set from a sequence number on (assumption 133). -/
def setNotice (set : BitVec 4) (q : BitVec 24) : List Byte := bytesOfNat 5 (packFields [(2, 0, 8), (set.toNat, 8, 8), (q.toNat, 16, 24)])

/-- A change of the active set begins (R384): what is in the queue still goes under the old set, and the far end's control flit is to agree
the boundary behind it. -/
def State.proposeSet (s : State) (k : Nat) (set : BitVec 4) : State :=
  let q := (s.link k).nextSeq + BitVec.ofNat 24 (s.link k).queue.length
  ((s.onLink k fun x => { x with pendingSet := some (q, false) }).onLink (peerEnd k) fun x =>
    { x with control := x.control ++ [setNotice set q] }).askFlits (peerEnd k) 1

/-- Whether a change of the active set may take effect: agreed, and every flit before its boundary is acknowledged. -/
def Link.boundaryReached (x : Link) : Bool :=
  x.pendingSet.any fun p => p.2 && x.unacked.isEmpty && p.1 == x.nextSeq

/-- A new active set is in force from a sequence number on. -/
def State.enforceSet (s : State) (k : Nat) (set : BitVec 4) (q : BitVec 24) : State :=
  s.onLink k fun x => { x with active := set, boundary := q, pendingSet := none }

/-- LOSS_OF_LIGHT (R385): an optical receiver has seen no light on a wavelength of an active group for 20 ns. -/
def execLossOfLight (link group : Nat) (s : State) : Host.Outcome State Fault Refusal :=
  let p := peerEnd link
  if !isPort link || 4 ≤ group || !(s.module (linkModule link)).fabricUp then .next s
  else
    let t := s.onLink link fun x => { x with light := x.light &&& ~~~ groupLight group }
    if !(s.link p).active.getLsbD group then .next t
    else
      let q := (s.link link).rxSeq
      let t := t.onLink link fun x => { x with lols := min (x.lols + 1) 65535 }
      let a := (s.link p).active
      let t := t.postFabric link 1 a a q.toNat 0
      let t := (t.onLink link fun x => { x with control := x.control ++ [lossNotice group q] }).askFlits link 1
      .next ((t.onLink p fun x => { x with notices := x.notices ++ [(group, q)] }).later (t.cc + 1) (.lossNoticeReceive p))

/-- Parked groups begin to wake (R389); a wake completes within 300 ns. A change of the active set that is not yet agreed is agreed anew. -/
def State.startWake (s : State) (k : Nat) (groups : BitVec 4) : State :=
  if groups &&& ~~~(s.link k).waking = 0 then s
  else
    (s.onLink k fun x => { x with waking := x.waking ||| groups, wakeFrom := some s.cc, pendingSet := none }).within (s.cc + 1)
      ((s.module (linkModule k)).ccOf 300000 - 1) (.wakeComplete k)

/-- LOSS_NOTICE_RECEIVE (R385, R386): the sender stops, marks the group failed, wakes what is parked and restripes 8 ns later;
without an unfailed group the port goes down (R387). -/
def execLossNoticeReceive (link : Nat) (s : State) : Host.Outcome State Fault Refusal :=
  match (s.link link).notices with
  | [] => .next s
  | (g, q) :: rest =>
    let bit := BitVec.ofNat 4 (2 ^ g)
    let end_ := s.cc + (s.module (linkModule link)).ccOf 8000
    let t := s.onLink link fun x =>
      (Link.acked { x with notices := rest, failed := x.failed ||| bit, waking := x.waking &&& ~~~bit,
                           parked := x.parked &&& ~~~bit, pauseTo := some end_, pendingSet := none } q)
    if (t.link link).failed = 0xF then .next (t.atTime t.cc (.portDown link))
    else .next ((t.startWake link (t.link link).parked).atTime end_ (.restripeAfterLoss link))

/-- RESTRIPE_AFTER_LOSS (R385): the unfailed active groups carry on from the sequence that the loss notice named, which both ends know, and
what is not acknowledged is replayed. -/
def execRestripeAfterLoss (link : Nat) (s : State) : Host.Outcome State Fault Refusal :=
  let x := s.link link
  match x.pauseTo with
  | none => .next s
  | some t =>
    if s.cc < t then .next s
    else
      let new := x.active &&& ~~~x.failed
      let first := (x.unacked.head?.map (·.seq)).getD x.nextSeq
      let t := s.onLink link fun y => Link.replay { y with pauseTo := none }
      let t := t.onLink link fun y => { y with active := new, boundary := first }
      let t := t.postFabric link 2 x.active new first.toNat x.unacked.length
      .next ((t.askFlits link x.unacked.length).checkDown link)

/-- LIGHT_BACK (R386): a receiver sees light again; on a failed group it posts the event and does nothing more. -/
def execLightBack (link group : Nat) (s : State) : Host.Outcome State Fault Refusal :=
  if !isPort link || 4 ≤ group || !(s.module (linkModule link)).fabricUp ||
      ((s.link link).light &&& groupLight group) == groupLight group then .next s
  else
    let t := s.onLink link fun x => { x with light := x.light ||| groupLight group }
    let a := (s.link (peerEnd link)).active
    if (s.link (peerEnd link)).failed.getLsbD group then
      .next ({ t with free := t.free + 1 }.postFabric link 5 a a (Config.freeWord s.free).toNat 0)
    else .next t

/-! ### Going down (R387, R388) -/

/-- Channels that no way is left for are reported lost (R382). -/
def State.breakLost (s : State) : State :=
  s.groves.foldl (fun t e =>
    (List.range 8).foldl (fun t n =>
      match t.channelLost t.cc e.1 n with
      | some x => if x.broken then t else (t.breakEnd e.1 n).breakEnd x.peer x.peerEnd
      | none => t) t) s

/-- The flits of a link that is down move, in order, to the links that their destinations now take. Of the unacknowledged ones a multicast
flit that the far end had received does not go twice, and the others go through the multicast buffer again (R377, assumption 145). -/
def State.moveFlits (s : State) (k : Nat) : State :=
  let d := linkDie k
  let x := s.link k
  let rest := (x.unacked.filter fun f => f.cls != 2 || (s.notReceived k).contains f) ++ x.queue
  let t := s.onLink k fun y => { y with unacked := [], sent := 0, queue := [], attempts := 0, naks := [], notices := [], pendingSet := none }
  (rest.foldl (fun (t : State) (f : Flit) =>
    if f.cls = 2 then t.holdMcast d none f
    else
      match (t.wayOn f.sa d f.da).bind (·.head?) with
      | some n => t.sendFlit n { f with vc := hopVc f.sa none false n }
      | none => t) t).takeAllEarly

/-- Members that a buffer entry owes on a link go by the links that lead to them now (R388); a link already owed a copy takes them
with its own. -/
def State.reowe (s : State) (d : Nat) (e : McastEntry) (k : Nat) : McastEntry :=
  match e.owed.lookup k with
  | none => e
  | some ms =>
    let rest := e.owed.filter fun x => x.1 != k
    { e with owed := (s.branches e.flit.sa d ms).foldl (fun (o : List (Nat × List Nat)) b =>
        if o.any fun x => x.1 == b.1 then o.map fun x => if x.1 = b.1 then (x.1, x.2 ++ b.2) else x else o ++ [b]) rest }

/-- The entries of a die's multicast buffer that are owed on a link that is down. -/
def State.moveMcast (s : State) (k : Nat) : State :=
  let d := linkDie k
  (s.die d).mcast.foldl (fun t e =>
    if (e.2.owed.lookup k).isNone then t
    else
      let y := t.reowe d e.2 k
      let t := t.onDie d fun x => { x with mcast := if y.owed.isEmpty then tdel x.mcast e.1 else tput x.mcast e.1 y }
      t.laterAll (t.cc + 1) (y.owed.map fun b => .multicastForward d e.1 b.1)) s

/-- Whether every port of a face is down. -/
def State.faceDown (s : State) (m face : Nat) : Bool := (List.range 8).all fun j => (s.link (portKey m face j)).down

/-- A fabric event whose SEQ the manual does not state (assumption 24). -/
def State.postOpen (s : State) (k kind : Nat) (old new : BitVec 4) : State :=
  ({ s with free := s.free + 1 }).postFabric k kind old new (Config.freeWord s.free).toNat 0

/-- PORT_DOWN (R387). -/
def execPortDown (link : Nat) (s : State) : Host.Outcome State Fault Refusal :=
  let x := s.link link
  if !isPort link || x.down || !(x.failed == 0xF || decide (8 ≤ x.attempts)) then .next s
  else
    let t := (s.onLink link fun y => { y with down := true, active := 0, pauseTo := none }).postOpen link 6 x.active 0
    let t := (t.moveFlits link).moveMcast link
    if t.faceDown (linkModule link) (linkFace link) then .next (t.breakLost.postOpen link 7 0 0) else .next t

/-- Whether two dies of a module that could send to each other in one state no longer can in another. -/
def State.ringCut (s t : State) (m : Nat) : Bool :=
  (moduleDies m).any fun a => (moduleDies m).any fun b => s.diesJoined a b && !t.diesJoined a b

/-- DIE_LINK_DOWN (R387, R388): a die link whose replay has reached 8 attempts; the routers at both ends go round it. -/
def execDieLinkDown (link : Nat) (s : State) : Host.Outcome State Fault Refusal :=
  let x := s.link link
  if isPort link || x.down || x.attempts < 8 then .next s
  else
    let p := peerEnd link
    let m := linkModule link
    let t := (s.onLink link fun y => { y with down := true }).onLink p fun y => { y with down := true }
    let t := ((((t.postOpen link 6 x.active x.active).moveFlits link).moveFlits p).moveMcast link).moveMcast p
    if !s.ringCut t m then .next t
    else
      let t := t.breakLost.postOpen link 7 x.active x.active
      if (t.module m).bcfg.getLsbD 0 && (moduleDies m).any fun d => !t.diesJoined (32 * m) d then
        .next ((t.postBeacon m 2 0x41 (t.module m).member ((t.module m).held + 1).toNat).leaveGroup m)
      else .next t

/-! ### Parking and waking (R389, R390) -/

/-- Whether a value may be written to LCTL. -/
def lctlOk (v : DWord) : Bool := v &&& 0xFFFFFF0000F00FFE#64 == 0

/-- A write to LCTL: EN, WTHR, the failed marks that CLRF clears and whose groups then wake, and the groups to park or to
wake; a PARK that would leave no group active and unfailed is ignored. -/
def State.writeLctl (s : State) (k : Nat) (v : DWord) : State :=
  if !isPort k || !lctlOk v || !(s.module (linkModule k)).answers false then s
  else
    let clr := v.extractLsb' 12 4 &&& (s.link k).failed
    let t := s.onLink k fun x => { x with en := v.getLsbD 0, wthr := v.extractLsb' 24 16, failed := x.failed &&& ~~~clr }
    let t := t.startWake k clr
    let park := v.extractLsb' 16 4
    let x := t.link k
    if x.active &&& ~~~x.failed &&& ~~~park == 0 then t.askWake k
    else
      let t := t.onLink k fun x => { x with park := park, pendingSet := none }
      let t := (t.startWake k (x.parked &&& ~~~park)).askWake k
      if park &&& (~~~x.parked ||| (t.link k).waking) == 0 then t.onLink k fun x => { x with parkWanted := none }
      else (t.onLink k fun x => { x with parkWanted := some park }).later (t.cc + 1) (.parkDone k)

/-- LCTL_PARK (R389, R390): a write to LCTL. -/
def execLctlPark (link : Nat) (value : DWord) (s : State) : Host.Outcome State Fault Refusal := .next (s.writeLctl link value)

/-- LCTL_CLRF (R386, R390): a write to LCTL. -/
def execLctlClrf (link : Nat) (value : DWord) (s : State) : Host.Outcome State Fault Refusal := .next (s.writeLctl link value)

/-- PARK_DONE (R389): at the agreed flit boundary, and after a wake under way, the parked groups leave the active set. -/
def execParkDone (link : Nat) (s : State) : Host.Outcome State Fault Refusal :=
  let x := s.link link
  match x.parkWanted with
  | none => .next s
  | some p =>
    if x.wakeFrom.isSome || x.pauseTo.isSome then .next s
    else
      let new := x.active &&& ~~~p
      if new &&& ~~~x.failed == 0 then .next (s.onLink link fun y => { y with parkWanted := none, pendingSet := none })
      else if x.pendingSet.isNone then .next ((s.proposeSet link new).later (s.cc + 1) (.parkDone link))
      else if !x.boundaryReached then .next s
      else
        let t := (s.onLink link fun y => { y with parkWanted := none, parked := y.parked ||| (x.active &&& p) }).enforceSet link new x.nextSeq
        .next (((t.askWake link).postOpen link 4 x.active new).askFlits link (min x.queue.length 1))

/-- AUTO_WAKE (R389): the sending queue holds more than WTHR flits while a group is parked. -/
def execAutoWake (link : Nat) (s : State) : Host.Outcome State Fault Refusal :=
  let x := s.link link
  if x.wthr = 0 || x.queue.length ≤ x.wthr.toNat || x.parked = 0 then .next s
  else .next ((s.onLink link fun y => { y with park := 0, parkWanted := none, pendingSet := none }).startWake link (x.parked &&& ~~~x.waking))

/-- WAKE_COMPLETE (R389): at the first flit boundary that the ends agree after the wake, the port restripes with the groups that have woken. -/
def execWakeComplete (link : Nat) (s : State) : Host.Outcome State Fault Refusal :=
  let x := s.link link
  if x.wakeFrom.isNone then .next s
  else
    let new := x.active ||| (x.waking &&& ~~~x.failed)
    if x.pauseTo.isSome then .next s
    else if x.pendingSet.isNone then .next ((s.proposeSet link new).later (s.cc + 1) (.wakeComplete link))
    else if !x.boundaryReached then .next s
    else
    let t := (s.onLink link fun y => { y with parked := y.parked &&& ~~~y.waking, waking := 0, wakeFrom := none }).enforceSet link new x.nextSeq
    .next ((t.postOpen link 3 x.active new).askFlits link (min x.queue.length 1))

end Sys2Proof.Machine
end

