-- ==== Sys2Proof/Machine/Trust.lean ====
section
/-!
DEFINITION. The trust engine (14_trust.md): identity and measurements (R409, R410), the SPDM exchange (R411, R412), domains,
epochs and keys (R413, R414), re-keying (R418, R419), and its registers (R421, R422).
-/
namespace Sys2Proof.Machine

/-! ### Identity, measurements, registers -/

/-- SK.seed, SK.prf and PK.seed: successive 32-byte outputs of SHAKE256 of the device secret (R409). -/
def deviceSeeds (m : Nat) : List Byte × List Byte × List Byte :=
  let out := Config.shake256 (bytesOfNat 32 (Config.deviceSecret m).toNat) 96
  (out.take 32, (out.drop 32).take 32, out.drop 64)

/-- The module's public key (R409). -/
def devicePublicKey (m : Nat) : List Byte :=
  let s := deviceSeeds m
  Config.slhPublic s.1 s.2.1 s.2.2

/-- Whether the derived public key is the certificate's (R409). -/
def identityOk (m : Nat) : Bool := devicePublicKey m == Config.certificateKey m

/-- A SHAKE256 digest of 64 bytes (R410). -/
def digest64 (bs : List Byte) : List Byte := Config.shake256 bs 64

/-- The configuration registers of fabric, beacon and trust, as measurement 3 takes them (their order: assumption 46). -/
def State.configBytes (s : State) (m : Nat) (tcfg : DWord) : List Byte :=
  let x := s.module m
  let ports := (List.range 6).map fun f => (List.range 8).map fun j => (s.link (portKey m f j)).lctl.toNat
  (ports.flatten ++ [x.bcfg.toNat, x.btim.toNat, tcfg.toNat] ++ (x.egress.toList.map fun w => [w.1.toNat, w.2.toNat]).flatten).flatMap
    (bytesOfNat 8)

/-- A measurement of Table 14.1; before the firmware has been verified, and before the first join, it is that of what there is
then (assumption 134). -/
def State.measurement (s : State) (m i : Nat) : List Byte :=
  match i with
  | 1 => digest64 (Config.bootRom m)
  | 2 => if (s.module m).fwDigest.isEmpty then digest64 [] else (s.module m).fwDigest
  | 3 => if (s.module m).cfgDigest.isEmpty then digest64 (s.configBytes m (s.module m).tcfg) else (s.module m).cfgDigest
  | _ => digest64 (Config.certificate m)

/-- Key check: the first 32 bits of SHAKE256 of a key (R414). -/
def keyCheck (key : BitVec 256) : Nat := natOfBytes ((Config.shake256 (bytesOfNat 32 key.toNat) 4).take 4)

/-- TCFG.LEAD. -/
def Module.leads (m : Module) : Bool := m.tcfg.getLsbD 1

/-- TSTAT (Table 14.8). -/
def State.tstat (s : State) (m : Nat) : DWord :=
  let x := s.module m
  let e := if x.domain = 0 then 0 else s.sendEpoch (32 * m)
  let old := if x.domain = 0 then 0 else ((x.keys.map (·.1)).find? fun k => k != e).getD 0
  BitVec.ofNat 64 (packFields [(x.rejects, 0, 16), (if identityOk m then x.tstate else 4, 16, 8), (old, 32, 16), (e, 48, 16)])

/-- The leader of a domain. -/
def State.leaderOf (s : State) (tdom : Nat) : Option Nat :=
  (s.modules.find? fun e => e.2.leads && e.2.domain == tdom && tdom != 0).map (·.1)

/-! ### The SPDM exchange (R411, R412) -/

/-- A session changed. -/
def State.onSession (s : State) (peer m : Nat) (f : Session → Session) : State :=
  s.onModule peer fun x => { x with sessions := tupd x.sessions m Session.none f }

/-- Whether a requester is the leader with which a module is attesting. -/
def State.attesting (s : State) (m peer : Nat) : Bool :=
  (s.module m).tstate == 1 && s.leaderOf (s.module m).tdom == some peer

/-- The leader refuses a module, and no session stands with it (R412). -/
def State.refuse (s : State) (m peer : Nat) : State :=
  ((s.onModule m fun x => { x with tstate := 4 }).onSession peer m fun x => { x with keyed := false, secured := false }).postBeacon
    peer 3 0x50 (s.module m).slot 0

/-- Whether a trust engine answers: also in standby (R470), not after a failed boot (R466) or when its clocks are stopped. -/
def Module.trustUp (m : Module) : Bool := m.clocked && m.mstate != 2

/-- An SPDM message of a requester to a module, between the die-0 trust engines, in a class-0 flit of EPOCH 0 (R411). -/
def State.spdmFlit (s : State) (m peer : Nat) (body : List Byte) : State :=
  s.dispatch .plain (flitFor (32 * peer) (32 * m) 0
    { op := .spdm, tag := 0, length := body.length, status := .request, pa := none, answers := 0 } body [])

/-- A request that a module answers, in flits of EPOCH 0 between the two die-0 trust engines: an unsupported one with an ERROR, which ends an attestation; the leader goes on with its
next request. -/
def State.answerSpdm (s : State) (m peer : Nat) (supported : Bool) (f : Session → Session) (next : Option Instr) : State :=
  let s := s.spdmFlit m peer []
  if !(s.module m).trustUp then s
  else if !supported then
    let t := s.onSession peer m fun x => { x with error := true }
    if s.attesting m peer then t.refuse m peer else t
  else
    let t := s.onSession peer m fun x => f { x with error := false }
    match s.attesting m peer, next with
    | true, some i => t.later (s.cc + 1) i
    | _, _ => t

/-- A session that has come at least so far. -/
def Session.reach (x : Session) (n : Nat) : Session := { x with stage := max x.stage n }

/-- GET_VERSION (R411): version 1.4 only; `arg` is the version asked for, 0x14. -/
def execGetVersion (m peer arg : Nat) (s : State) : Host.Outcome State Fault Refusal :=
  .next (s.answerSpdm m peer (arg == 0x14) (fun x => x.reach 1) (some (.getCapabilities m peer 0)))

/-- The capabilities of Table 14.2: no PSK, HBEAT or KEY_UPD. -/
def spdmCaps : List SpdmCap := [.cert, .meas, .chal, .keyEx, .mutAuth, .encrypt, .mac, .chunk]

/-- GET_CAPABILITIES (R411): whatever capabilities the requester names, the module answers with its own. -/
def execGetCapabilities (m peer arg : Nat) (s : State) : Host.Outcome State Fault Refusal :=
  .next (s.answerSpdm m peer (decide (arg < 2 ^ 32)) (fun x => { x.reach 2 with caps := spdmCaps }) (some (.negotiateAlgorithms m peer 1)))

/-- NEGOTIATE_ALGORITHMS (R411): `arg` 1 offers the algorithms of Table 14.2, any other value another one. -/
def execNegotiateAlgorithms (m peer arg : Nat) (s : State) : Host.Outcome State Fault Refusal :=
  .next (s.answerSpdm m peer (arg == 1) (fun x => x.reach 3) (some (.getDigests m peer 0)))

/-- GET_DIGESTS (R411): certificate slot 0 only. -/
def execGetDigests (m peer arg : Nat) (s : State) : Host.Outcome State Fault Refusal :=
  .next (s.answerSpdm m peer (arg == 0) (fun x => x.reach 4) (some (.getCertificate m peer 0)))

/-- GET_CERTIFICATE (R411, R412): certificate slot 0 only; the requester verifies the chain. -/
def execGetCertificate (m peer arg : Nat) (s : State) : Host.Outcome State Fault Refusal :=
  .next (s.answerSpdm m peer (arg == 0)
    (fun x => { x.reach 5 with certOk := Config.slhVerify Config.vendorKey (Config.certificate m) })
    (some (.challenge m peer 0)))

/-- CHALLENGE (R411): as responder, with certificate slot 0. -/
def execChallenge (m peer arg : Nat) (s : State) : Host.Outcome State Fault Refusal :=
  .next (s.answerSpdm m peer (arg == 0) (fun x => x.reach 6) (some (.getMeasurements m peer 1)))

/-- Whether a signed measurement is the digest that the leader's host expects (R412). -/
def State.measures (s : State) (m peer i : Nat) : Bool :=
  Config.slhVerify (Config.certificateKey m) (s.measurement m i) &&
    (Config.expectedDigests peer m)[i - 1]? == some (s.measurement m i)

/-- GET_MEASUREMENTS (R410, R411, R412): `arg` is the index, 1 to 4. -/
def execGetMeasurements (m peer arg : Nat) (s : State) : Host.Outcome State Fault Refusal :=
  .next (s.answerSpdm m peer (decide (1 ≤ arg) && decide (arg ≤ 4))
    (fun x => { x.reach 7 with measured := if s.measures m peer arg then (arg :: x.measured).eraseDups else x.measured.erase arg })
    (some (if arg = 4 then .keyExchange m peer 0 else .getMeasurements m peer (arg + 1))))

/-- KEY_EXCHANGE (R411): with mutual authentication, once the algorithms are agreed; certificate slot 0, and one session per
peer. -/
def execKeyExchange (m peer arg : Nat) (s : State) : Host.Outcome State Fault Refusal :=
  .next (s.answerSpdm m peer (arg == 0 && decide (3 ≤ (s.session peer m).stage) && !(s.session peer m).keyed)
    (fun x => { x.reach 8 with keyed := true }) (some (.finish m peer 0)))

/-! ### Re-keying (R414, R418) -/

/-- The next epoch: 65,535 wraps to 1. -/
def nextEpoch (e : Nat) : Nat := if e = 65535 then 1 else e + 1

/-- A member that starts a re-key after one whose REKEY frame it has seen: the epoch of that one is its own, and its older key is
gone (R414, R419). -/
def Module.settle (m : Module) : Module :=
  match m.rekey with
  | some r => if r.got then { m with epoch := r.epoch, keys := m.keys.filter fun k => k.1 == r.epoch, rekey := none } else m
  | none => m

/-- The frames and flits that the REKEY frame carries (Table 14.5). -/
def rekeyPayload (epoch lead : Nat) (slots : BitVec 64) (key : BitVec 256) : BitVec 288 :=
  BitVec.ofNat 288 (packFields [(epoch, 0, 16), (lead, 16, 6), (slots.toNat, 32, 64), (keyCheck key, 96, 32)])

/-- Modules to which the leader delivers the key of a re-key: the members that stay and those that it admits (R418). -/
def State.rekeyTargets (s : State) (m : Nat) (slots : BitVec 64) : List Nat :=
  (s.modules.filter fun e => e.1 != m && slots.getLsbD e.2.slot && (e.2.domain == (s.module m).domain ||
    (e.2.tstate == 1 && e.2.tdom == (s.module m).domain && (s.session m e.1).admits))).map (·.1)

/-- The REKEY frame enters the leader's queue once every key has been delivered (R418). -/
def State.placeRekey (s : State) (m : Nat) : State :=
  let x := s.module m
  match x.rekey with
  | none => s
  | some r =>
    let told (p : Nat) : Bool := (tget (s.module p).keys r.epoch).isSome
    if r.got || x.sendQ.any (fun q => q.type == 3) || !(s.rekeyTargets m r.slots).all told then s
    else
      let q : QFrame := { type := 3, sdie := 0, payload := rekeyPayload r.epoch x.slot r.slots (tgetD x.keys r.epoch 0), op := 0 }
      s.enqueueFrame m q

/-- The leader starts a re-key to a set of slots: a new key from its entropy source, delivered in each member's session
(R414, R418). -/
def State.startRekey (s : State) (m : Nat) (slots : BitVec 64) : State :=
  let x := (s.module m).settle
  let e := nextEpoch x.epoch
  let key := BitVec.ofNat 256 (natOfBytes (Config.shake256 (Config.entropy s.free) 32))
  let r : Rekey := { epoch := e, slots := slots, seq := 0, got := false, appliedCc := none, barSent := false, arrived := [] }
  let t := (s.dropEpoch m e).onModule m fun _ => { x with keys := tput (x.keys.filter fun k => k.1 == x.epoch) e key, rekey := some r, tstate := 3 }
  let t := (moduleDies m).foldl (fun t d => t.onDie d fun z => { z with closed := 0 }) { t with free := s.free + 1 }
  (t.placeRekey m).laterAll (s.cc + 1) ((t.rekeyTargets m slots).map fun p => .vendorDefinedRequest p m)

/-- REKEY_START (R418): a key change or an eviction at the leader, to a set of the present members; none while another re-key is
in progress. -/
def execRekeyStart (m : Nat) (slots : BitVec 64) (s : State) : Host.Outcome State Fault Refusal :=
  let x := s.module m
  if !x.leads || x.domain = 0 || x.rekey.isSome || !slots.getLsbD x.slot || slots &&& ~~~x.slots != 0 then .next s
  else .next (s.startRekey m slots)

/-- What the leader's vendor-defined message carries: EPOCH, the key and KCHK (R414; their order: assumption 146). -/
def keyMessage (epoch : Nat) (key : BitVec 256) : List Byte := bytesOfNat 2 epoch ++ bytesOfNat 32 key.toNat ++ bytesOfNat 4 (keyCheck key)

/-- VENDOR_DEFINED_REQUEST (R414): the leader delivers the new epoch and key within its session with a member or a joiner, which holds
no other key beside the one that it sends under. -/
def execVendorDefinedRequest (m peer : Nat) (s : State) : Host.Outcome State Fault Refusal :=
  let l := s.module peer
  match l.rekey with
  | none => .next s
  | some r =>
    if r.got || !(s.rekeyTargets peer r.slots).contains m || !(s.module m).trustUp then .next s
    else
      let key := tgetD l.keys r.epoch 0
      let s := s.spdmFlit m peer (keyMessage r.epoch key)
      let t := (if (tget (s.module m).keys r.epoch).isNone then s.dropEpoch m r.epoch else s).onModule m fun x =>
        let y := x.settle
        { y with keys := tput (y.keys.filter fun k => k.1 == y.epoch && y.domain != 0) r.epoch key, tstate := if y.domain = 0 then y.tstate else 3 }
      .next (((moduleDies m).foldl (fun t d => t.onDie d fun z => { z with closed := 0 }) t).placeRekey peer)

/-- The last REKEY frame that a member holds. -/
def Module.rekeyFrame (m : Module) : Option (BitVec 512) :=
  (m.ring.filter fun e => frType e.2 == 3).foldl (fun a e =>
    match a with
    | none => some e.2
    | some f => if serialLt (frSeq f) (frSeq e.2) then some e.2 else some f) none

/-- REKEY_RECEIVE (R418, R422): a member that is no longer in SLOTS leaves; one whose key check differs leaves; the others take
the new numbering. -/
def execRekeyReceive (m : Nat) (s : State) : Host.Outcome State Fault Refusal :=
  let x := s.module m
  match x.rekeyFrame with
  | none => .next s
  | some f =>
    let e := frField f 96 16
    let slots : BitVec 64 := BitVec.ofNat 64 (frField f 128 64)
    let q := frSeq f
    if x.domain = 0 then .next s
    else if !slots.getLsbD x.slot then .next ((s.postBeacon m 3 0x54 x.slot q.toNat).leaveGroup m)
    else if (tget x.keys e).map keyCheck != some (frField f 192 32) then
      .next ((s.postBeacon m 3 0x51 x.slot q.toNat).leaveGroup m)
    else
      let r : Rekey := (x.rekey.filter fun r => r.epoch == e).getD
        { epoch := e, slots := slots, seq := q, got := true, appliedCc := none, barSent := false, arrived := [] }
      let y := Module.renumber { x with rekey := some { r with slots := slots, seq := q, got := true }, tstate := 3,
                                        leadSlot := frField f 112 6 } slots
      .next ((s.onModule m fun _ => y).later (s.cc + 1) (.rekeyDrainDone m))

/-- Whether a module's dies have all applied its REKEY frame, send under the old epoch no longer, and have had every flit that they sent
under it acknowledged: a request by its response, any other by a delivery acknowledgement (R418). -/
def State.drained (s : State) (m : Nat) (r : Rekey) : Bool :=
  let e := (s.module m).epoch
  (moduleDies m).all (fun d => serialLe r.seq (s.die d).lastSeq && s.sendEpoch d != e && tgetD (s.die d).owed e 0 == 0) &&
    !(s.module m).joining

/-- REKEY_DRAIN_DONE (R418): the engine sends its BAR frame on 0xFFF. -/
def execRekeyDrainDone (m : Nat) (s : State) : Host.Outcome State Fault Refusal :=
  match (s.module m).rekey with
  | none => .next s
  | some r =>
    if !r.got || r.barSent || !s.drained m r then .next s
    else
      let q : QFrame := { type := 2, sdie := 0, payload := BitVec.ofNat 288 (packFields [(0xFFF, 0, 12), ((s.module m).bN, 32, 16)]), op := 0 }
      .next ((s.enqueueFrame m q).onModule m fun x => { x with rekey := some { r with barSent := true } })

/-- DRAIN_TIMEOUT (R419): the leader evicts every member whose BAR frame has not been applied. -/
def execDrainTimeout (m : Nat) (s : State) : Host.Outcome State Fault Refusal :=
  let x := s.module m
  match x.rekey with
  | none => .next s
  | some r =>
    match r.appliedCc with
    | none => .next s
    | some t =>
      if !x.leads || s.cc < t + x.drainCc || (s.die (32 * m)).closed = x.epoch then .next s
      else
        let keep : BitVec 64 := BitVec.ofNat 64 (((List.range 64).filter fun i =>
          r.slots.getLsbD i && (i == x.slot || r.arrived.contains i)).foldl (fun n i => n + 2 ^ i) 0)
        .next ((s.postBeacon m 3 0x52 x.slot r.seq.toNat).startRekey m keep)

/-- Whether the requester's own certificate chain verifies, as its peer checks in mutual authentication (R411, R412). -/
def leaderKnown (peer : Nat) : Bool := Config.slhVerify Config.vendorKey (Config.certificate peer)

/-- FINISH (R411, R412): the peer has verified the requester too, and the session stands; the leader admits a module whose chain verifies and whose measurements are the
expected ones, and refuses any other. A re-key in progress ends first (R418). -/
def execFinish (m peer arg : Nat) (s : State) : Host.Outcome State Fault Refusal :=
  let x := s.session peer m
  if !s.attesting m peer || arg != 0 || !x.keyed || !leaderKnown peer then
    .next (s.answerSpdm m peer (arg == 0 && x.keyed && leaderKnown peer) (fun x => { x.reach 9 with secured := true }) none)
  else if (s.module peer).rekey.isSome then .next s
  else
    let t := s.answerSpdm m peer true (fun x => { x.reach 9 with secured := true }) none
    let slot := (s.module m).slot
    if { x with secured := true }.admits && leaderKnown peer && !(s.module peer).slots.getLsbD slot && (s.module m).trustUp then
      .next (t.startRekey peer ((s.module peer).slots ||| BitVec.ofNat 64 (2 ^ slot)))
    else .next (t.refuse m peer)

/-- END_SESSION (R411, R412): a member's session with its leader stays open while it is a member; for one whose host has had it
leave, the leader starts the re-key without it (R418). -/
def execEndSession (m peer : Nat) (s : State) : Host.Outcome State Fault Refusal :=
  let x := s.module m
  let told := s.spdmFlit m peer []
  if x.domain != 0 && s.leaderOf x.domain == some peer then
    if (x.tcfg.getLsbD 0 && x.tdom == x.domain) || (s.module peer).rekey.isSome then .next s
    else .next (told.startRekey peer ((s.module peer).slots &&& ~~~ BitVec.ofNat 64 (2 ^ x.slot)))
  else .next (told.onModule peer fun y => { y with sessions := tdel y.sessions m })

/-! ### TCFG (R412, R413, R421) -/

/-- Whether a value may be written to TCFG: no reserved bit, and no change of TDOM, SLOT or LEAD while EN is 1. -/
def tcfgOk (old v : DWord) : Bool :=
  v &&& 0x00000000FFFFC0FC#64 == 0 && !(old.getLsbD 0 && ((old ^^^ v) &&& 0xFFFF000000003F02#64) != 0)

/-- A leader forms its domain, of itself alone, in a beacon group of its own (assumption 47). -/
def State.foundDomain (s : State) (m : Nat) : State :=
  let x := s.module m
  let t := if x.bcfg.getLsbD 0 then s.leaveGroup m else s
  let slots : BitVec 64 := BitVec.ofNat 64 (2 ^ x.slot)
  let key := BitVec.ofNat 256 (natOfBytes (Config.shake256 (Config.entropy s.free) 32))
  let t := t.onModule m fun y =>
    let z := y.renumber slots
    { z with bcfg := z.bcfg ||| 1, formed := true, tstate := 2, tdomain := x.tdom, tslot := x.slot, left := none, epoch := 1, keys := [(1, key)], leadSlot := x.slot, rekey := none }
  let t := ({ t with free := s.free + 1 }.dropEpoch m 1).beginGroup m
  let waiting := s.modules.filter fun e => e.2.tstate == 1 && e.2.tdom == x.tdom && e.1 != m
  t.laterAll (s.cc + 1) (waiting.map fun e => .getVersion e.1 m 0x14)

/-- A write to TCFG: joining, forming, staying or leaving. -/
def State.writeTcfg (s : State) (m : Nat) (v : DWord) : State :=
  let x := s.module m
  if !x.answers true || !tcfgOk x.tcfg v then s
  else
    let t := s.onModule m fun y => { y with tcfg := v }
    if !x.tcfg.getLsbD 0 && v.getLsbD 0 then
      let join := if x.cfgDigest.isEmpty then t.onModule m fun y => { y with cfgDigest := digest64 (s.configBytes m v) } else t
      if !identityOk m then t.onModule m fun y => { y with tstate := 4 }
      else if v.toNat / 2 ^ 48 = 0 || x.domain != 0 then t
      else if v.getLsbD 1 then join.foundDomain m
      else
        let t := (join.closeSessions m).onModule m fun y => { y with tstate := 1, keys := [] }
        (match t.leaderOf (v.toNat / 2 ^ 48) with
          | some l => t.later (s.cc + 1) (.getVersion m l 0x14)
          | none => t)
    else if x.tcfg.getLsbD 0 && !v.getLsbD 0 then
      (if x.domain = 0 then (t.closeSessions m).onModule m fun y => { y with tstate := if y.tstate = 1 then 0 else y.tstate, keys := [] }
       else
        match s.leaderOf x.domain with
        | some l => if l = m then t.leaveGroup m else t.later (s.cc + 1) (.endSession m l)
        | none => t.leaveGroup m)
    else t

/-- TCFG_JOIN (R412, R413, R421): a write of TCFG with EN set. -/
def execTcfgJoin (m : Nat) (value : DWord) (s : State) : Host.Outcome State Fault Refusal :=
  .next (if value.getLsbD 0 then s.writeTcfg m value else s)

/-- TCFG_LEAVE (R418, R421): a write of TCFG with EN clear. -/
def execTcfgLeave (m : Nat) (value : DWord) (s : State) : Host.Outcome State Fault Refusal :=
  .next (if value.getLsbD 0 then s else s.writeTcfg m value)

/-- TSEQ_EXHAUSTION (R415): a counter has reached 2^53, and the leader starts a re-key, of its present members; one in progress ends first,
and with it the epoch of the counter (R418). -/
def execTseqExhaustion (die : Nat) (s : State) : Host.Outcome State Fault Refusal :=
  let m := moduleOf die
  let e := s.sendEpoch die
  let spent := (List.range 4).any fun c => decide (2 ^ 53 ≤ tgetD (s.die die).tseq (4 * e + c) 0)
  match s.leaderOf (s.module m).domain with
  | none => .next s
  | some l => if spent && (s.module l).rekey.isNone then .next (s.startRekey l (s.module l).slots) else .next s

end Sys2Proof.Machine
end

