-- ==== Sys2Proof/Machine/Cycle.lean ====
section
/-!
DEFINITION. What comes next on the clock: boughs that stop at a boundary (R29, R201, R442), results that land, events of
the agenda, the bough that issues in a core cycle (R23, R24), and the passing of a core cycle.
-/
namespace Sys2Proof.Machine

/-! ### Stops at a boundary -/

/-- The STOP record of the input that a bough comes to next. -/
def State.loggedStop (s : State) (k : Nat) (g : Grove) : Option (Nat × Nat) :=
  if !s.plays g.die g.launch then none else s.nextPlay g.die fun r => recType r == 0x07 && recOf r (s.boughIds k)

/-- Whether a bough stands where a logged STOP has it stop: at its PC after as many grants (R434). -/
def State.atStop (s : State) (k : Nat) (b : Bough) (g : Grove) (x : Nat × Nat) : Bool :=
  let grants := ((List.range x.1).filter fun j =>
    recType (s.playRecord g.die j) == 0x01 && recOf (s.playRecord g.die j) (s.boughIds k)).length
  bitsOf x.2 128 64 == b.pc.toNat && grants == b.grants

/-- Whether a bough is stopped for debug or by an unhandled trap. -/
def Bough.atDebug (b : Bough) : Bool := b.status == .debug || b.status == .unhandled

/-- Whether a bough is to stop for pre-emption here: it is asked to and the input, if it has a STOP for it, has it stop here; or the
input alone has it stop here (R434), where it stays until the command that saves its grove (assumption 137). -/
def State.preemptHere (s : State) (k : Nat) (b : Bough) (g : Grove) : Bool :=
  match s.loggedStop k g with
  | some x => (b.stoppable || (b.stopAsked && b.atDebug)) && s.atStop k b g x
  | none => b.stopAsked && (b.stoppable || b.atDebug)

/-- Whether a register-bank or pass stretch of the presented bundle is under way (R29). -/
def Bough.inFinite (b : Bough) (n : Nat) : Bool := b.phase.isSome && (b.stretchEnd.any fun e => decide (n ≤ e))

/-- Whether a bough is to stop now: pre-empted, or asked to stop by ALLSTOP or a single step. -/
def State.stopDue (s : State) (k : Nat) (b : Bough) (g : Grove) : Bool :=
  decide (b.earliest ≤ s.bc) && !b.inFinite s.bc &&
    (s.preemptHere k b g || (b.dbgCause != 0 && b.stoppable))

/-- A bough stops, its open-ended stretches at an end (R428): for pre-emption at the boundary before this bough cycle, with its STOP record (R359), a resumed one that has had no
grant before the cycle that its results count from; else for debug. -/
def State.stopBough (s : State) (k : Nat) (b : Bough) (g : Grove) : State :=
  let s := s.endHolds k
  if s.preemptHere k b g then
    let s := match s.loggedStop k g with
      | some x => s.followed g.die x.1
      | none => s
    let t := s.onBough k fun x =>
      let y := x.release (.stopped (b.resumeFrom.getD s.bc))
      { y with held := b.heldNow, aged := b.agedAt s.cc, stopAsked := false, needFrame := max b.needFrame (s.die g.die).framesApplied }
    ((t.logBough k 0x07 0 (packFields [(b.pc.toNat, 0, 64)]) .other).1).syncDbgStop g.core
  else if b.dbgCause == 1 then s.ownStop k g.core b.ctx b.pc ((s.launchOf g).any Launch.allStop)
  else s.debugStop k g.core b.pc false

/-! ### What is due -/

/-- The first bough with a property, of those whose core's clocks run. -/
def State.findBough (s : State) (p : Nat → Bough → Grove → Bool) : Option (Nat × Bough × Grove) :=
  s.boughs.findSome? fun e =>
    match s.grove? e.2.grove with
    | none => none
    | some g => if s.clocked g.core && p e.1 e.2 g then some (e.1, e.2, g) else none

/-- The module on which a grove stands. -/
def State.groveSite (s : State) (key : Nat) : List Nat := ((s.grove? key).map fun g => moduleOf g.die).toList

/-- The modules whose clocks an event of the agenda needs (R446): the one that does it; for an access performed at a home also the
home's; for what a link carries those of both its ends. -/
def State.sites (s : State) (i : Instr) : List Nat :=
  let ofOp (o : Nat) : List Nat := ((tget s.ops o).map fun x => s.groveSite (groveOf x.bough)).getD []
  match i with
  | .globalLoadCompletion o | .storeCompletion o | .atomgCompletion o | .redCompletion o | .settleCompletion o
  | .fenceCompletion o | .bldCompletion o | .bseqCompletion o | .prefCompletion o | .icinvCompletion o
  | .bpubEnqueue o | .bbarEnqueue o => ofOp o
  | .homeAccess o lane _ =>
    (match tget s.writes o, tget s.ops o with
      | some w, _ => [moduleOf w.home]
      | none, some x => ofOp o ++ s.stalledHome x lane
      | none, none => [])
  | .copyCompletion c | .copyStart c | .cpyxCompletion c | .tstampCompletion c =>
    ((tget s.copies c).map fun x => s.groveSite (groveOf x.bough)).getD []
  | .matrixFetchStart c | .matrixArrayStart c | .matrixCompletion c | .phaseGrant c _ => [moduleOf (dieOf c)]
  | .launchAcceptance x _ | .postrArrival x | .channelWordArrival x | .channelCreditReturn x =>
    (match tget s.msgs x with
      | some (.submit m _ _ _ _) => [m]
      | some (.postr l name _ _ _ _) =>
        (((tget s.launches l).bind fun y => y.named name).map fun n => s.groveSite (groveKey l n)).getD []
      | some (.word g _ _ _) | some (.credit g _ _) => s.groveSite g
      | none => [])
  | .replicaApply d _ | .pubFrameApply d | .barFrameApply d | .rekeyFrameApply d | .traceRecordWrite d
  | .multicastForward d _ _ | .logClockWrap d | .tseqExhaustion d => [moduleOf d]
  | .itemBlockGrant g | .groveImageSave g => s.groveSite g
  | .launchCompletion l | .killQuiesce l => ((tget s.launches l).map (·.module)).toList
  | .flitReceive k _ | .nakReceive k | .lossNoticeReceive k => [linkModule k, linkModule (peerEnd k)]
  | .lossOfLight k _ | .restripeAfterLoss k | .portDown k | .dieLinkDown k | .parkDone k | .autoWake k | .wakeComplete k => [linkModule k]
  | .launchPlacement m | .predecessorRecheck m _ | .grovePlacement m _ | .tinvDone m | .rekeyDrainDone m | .rekeyStart m _
  | .rekeyReceive m | .vendorDefinedRequest m _ | .finish m _ _ | .endSession m _ | .lampFrameReceive m _ | .beaconFrameReceive m _
  | .resendFrameReceive m _ | .lampTurn m | .lampRegen m | .powerStateChange m | .drainTimeout m | .firmwareVerify m
  | .preemptLaunch m _ | .preemptGrove m _ | .kill m _ | .lqdoorSubmit m _ | .getVersion m _ _ | .getCapabilities m _ _
  | .negotiateAlgorithms m _ _ | .getDigests m _ _ | .getCertificate m _ _ | .challenge m _ _ | .getMeasurements m _ _
  | .keyExchange m _ _ => [m]
  | _ => []

/-- Whether an event stays where it stands, since a clock that it needs is stopped (R446). -/
def State.frozen (s : State) (i : Instr) : Bool := (s.sites i).any fun m => !(s.module m).clocked

/-- The first entry of the agenda that has come due and is not held, and the agenda without it. -/
def takeDue (cc : Nat) (held : Instr → Bool) : List (Nat × Instr) → Option (Instr × List (Nat × Instr))
  | [] => none
  | e :: rest =>
    if e.1 ≤ cc && !held e.2 then some (e.2, rest)
    else (takeDue cc held rest).map fun r => (r.1, e :: r.2)

/-- Whether an event that has found nothing to do may still have something to do later. -/
def State.awaits (s : State) (i : Instr) : Bool :=
  match i with
  | .globalLoadCompletion o | .storeCompletion o | .atomgCompletion o | .redCompletion o | .settleCompletion o
  | .fenceCompletion o | .bldCompletion o | .bseqCompletion o | .prefCompletion o | .icinvCompletion o
  | .homeAccess o _ _ => (tget s.ops o).isSome || (tget s.writes o).isSome
  | .bpubEnqueue o | .bbarEnqueue o => (tget s.ops o).isSome
  | .copyCompletion c | .copyStart c | .cpyxCompletion c | .tstampCompletion c => (tget s.copies c).isSome
  | .matrixFetchStart c | .matrixArrayStart c => !(s.core c).mq.isEmpty
  | .matrixCompletion c => !(s.core c).mq.isEmpty || !(s.core c).refused.isEmpty
  | .launchAcceptance m _ | .postrArrival m | .channelWordArrival m | .channelCreditReturn m => (tget s.msgs m).isSome
  | .replicaApply d w => ((tget s.writes w).map fun x => x.todo.contains d).getD false
  | .itemBlockGrant g => ((s.grove? g).map (·.reqOut)).getD false
  | .launchPlacement m => (s.module m).queues.any fun q => !q.2.isEmpty
  | .predecessorRecheck m q => ((tgetD (s.module m).queues q []).head?.map fun l => !(s.module m).ready.contains l).getD false
  | .grovePlacement m l =>
    ((tget s.launches l).map fun x => ((tget x.shares m).map fun y => decide (y.next < y.last)).getD false).getD false
  | .launchCompletion l => ((tget s.launches l).map fun x => x.life == .placing || x.life == .draining).getD false
  | .killQuiesce l => ((tget s.launches l).map fun x => x.life == .killed).getD false
  | .groveImageSave g => ((s.grove? g).map fun x => x.life == .stopping && x.saveAt.isSome).getD false
  | .groveResumption g c => ((s.grove? g).map fun x => x.life == .saved).getD false && (s.resumeRoom g c).isNone
  | .tinvDone m => !(s.module m).invals.isEmpty
  | .pubFrameApply d | .barFrameApply d | .rekeyFrameApply d => !(s.die d).toApply.isEmpty
  | .traceRecordWrite d => !(s.die d).pending.isEmpty
  | .multicastForward d e _ => (tget (s.die d).mcast e).isSome
  | .rekeyDrainDone m => ((s.module m).rekey.map fun r => !r.barSent).getD false
  | .tseqExhaustion d => (s.leaderOf (s.module (moduleOf d)).domain).any fun l => (s.module l).rekey.isSome
  | .rekeyStart m _ => (s.module m).leads && (s.module m).rekey.isSome
  | .finish m p _ => s.attesting m p && (s.module p).rekey.isSome
  | .endSession m p => (s.module m).domain != 0 && !(s.module m).tcfg.getLsbD 0 && (s.module p).rekey.isSome
  | .flitReceive k _ => (s.link (peerEnd k)).next.isSome
  | .lampFrameReceive m _ | .beaconFrameReceive m _ | .resendFrameReceive m _ => !(s.module m).air.isEmpty
  | .nakReceive k => !(s.link k).naks.isEmpty
  | .lossNoticeReceive k => !(s.link k).notices.isEmpty
  | .restripeAfterLoss k => (s.link k).pauseTo.isSome
  | .parkDone k => (s.link k).parkWanted.isSome
  | .wakeComplete k => (s.link k).wakeFrom.isSome
  | .powerStateChange m => (s.module m).preq.toNat != (s.module m).pstate
  | _ => false

/-- The bough that issues in this core cycle on some core: it holds the cycle's phase, and its bundle is due (R23). -/
def State.issuer (s : State) : Option Nat :=
  (s.findBough fun _ b _ => b.phase == some (s.cc % 4) && decide (b.earliest ≤ s.bc)).map (·.1)

/-- Every module's clocks are stopped, and no event is to come: the run is at its end. -/
def State.allStopped (s : State) : Bool :=
  (s.agenda.all fun e => s.frozen e.2) && decide (s.moduleCount ≤ (s.modules.filter fun m => m.2.frozenAt.isSome || m.2.tripped).length)

/-! ### A core cycle passes -/

/-- A core whose next GRANT of the input names a bough that can be granted no phase any more, while another waits for it: the input
can be followed no longer (R435). -/
def State.checkGrants (s : State) (core : Nat) : State :=
  let d := dieOf core
  match (s.coreBoughs core).find? fun x => s.eligible x.2.1 x.2.2 && s.grantWaits x.1 x.2.2 with
  | none => s
  | some (k, b, g) =>
    match s.nextPlay d fun r => recType r == 0x01 && bitsOf r 106 6 == core % 64 with
    | some (_, r) => if s.recordLive d g.launch r then s else s.diverge d g.launch 0x01 b.pc.toNat (core % 64) (s.boughIds k)
    | none => s

/-- Grants asked for: one event, in this core cycle, for each free phase of a core with an eligible bough, so that a round of its
phases is within the bound Tg (R44, R358). A phase whose slot of the bough cycle is still to come is granted with the next one, so that
a bough cycle's requests to the compatibility unit are all there when it begins (R461; assumption 135). -/
def State.askGrants (s : State) : State :=
  ((s.groves.map fun g => g.2.core).eraseDups).foldl (fun s core =>
    let s := if (s.die (dieOf core)).playOn && s.clocked core then s.checkGrants core else s
    if s.clocked core && (s.nextGrant core).isSome then
      (List.range 4).foldl (fun s f =>
        let e := Instr.phaseGrant core f
        if (s.cc % 4 == 0 || decide (f < s.cc % 4)) && s.phaseFree core f && !s.agenda.any (fun x => x.2 == e) then s.atTime s.cc e else s) s
    else s) s

/-- The CLOCK record is due on every die whose log is on as the count of core cycles wraps (Table 15.8). -/
def State.askClocks (s : State) : State :=
  if s.cc % 2 ^ 40 != 0 then s
  else (s.dies.filter fun d => d.2.logOn).foldl (fun s d => s.atTime s.cc (.logClockWrap d.1)) s

/-- The core cycle passes; after four, the bough cycle ends. -/
def State.tick (s : State) : State :=
  let t := if s.cc % 4 = 3 then s.endCycle else s
  (State.askClocks { t with cc := s.cc + 1 }).askGrants

/-- An event of the agenda: one that changes nothing and still has something to wait for comes again. -/
def State.runEvent (s : State) (run : Run) (i : Instr) : Host.Outcome State Fault Refusal :=
  match run i s with
  | .next t => if t = s && s.awaits i then .next (s.atTime (s.cc + 1) i) else .next t
  | o => o

/-- One step of the system: a stop at a boundary, a writeback, an aging, an event that is due, an issue, or the passing
of a core cycle, whichever comes first in this order. -/
def State.advance (s : State) (run : Run) : Host.Outcome State Fault Refusal :=
  match s.findBough s.stopDue with
  | some (k, b, g) => .next (s.stopBough k b g)
  | none =>
    match s.findBough fun _ b _ => b.owesWriteback s.bc with
    | some (k, _, _) => run (.resultWriteback k) s
    | none =>
      match s.findBough fun _ b g => s.agingDue b g with
      | some (k, _, _) => run (.priorityAging k) s
      | none =>
        match takeDue s.cc s.frozen s.agenda with
        | some (i, rest) => State.runEvent { s with agenda := rest } run i
        | none =>
          match s.issuer with
          | some k => s.present run k
          | none => .next s.tick

end Sys2Proof.Machine
end

