-- ==== Sys2Proof/Machine/Debug.lean ====
section
/-!
DEFINITION. The record engine towards the host: the log ring's registers (R423 to R425, R433), the CLOCK record (R427), the
writing of trace records (R436 to R438), DBGRUN (R443), the freeze and the debug port (R446, R447).
-/
namespace Sys2Proof.Machine

/-! ### The log ring (R424, R425) -/

/-- A CLOCK record (Table 15.8): it names no bough; one that finds no room opens a gap (R432). -/
def State.logClock (s : State) (d : Nat) : State :=
  if 64 ≤ (s.die d).logFree then s.logPut d (logRecord 0x0A 0 0 (s.cc % 2 ^ 64) s.cc)
  else if (s.die d).gap then s
  else s.openGap d 0

/-- Whether a value may be written to LOGCTL: no reserved bit, SIZE from 16 to 32, and no change of SIZE while EN is 1. -/
def Die.logctlOk (x : Die) (v : DWord) : Bool :=
  v.toNat / 2 ^ 8 == 0 && !v.getLsbD 1 && decide (16 ≤ bitsOf v.toNat 3 5 ∧ bitsOf v.toNat 3 5 ≤ 32) &&
    (!x.logOn || bitsOf v.toNat 3 5 == bitsOf x.logCtl.toNat 3 5)

/-- A write to LOGCTL (R424): setting EN empties the ring and writes a CLOCK record; setting PLAY begins the input anew. -/
def State.writeLogctl (s : State) (d : Nat) (v : DWord) : State :=
  let x := s.die d
  if !(s.module (moduleOf d)).answers false || !x.logctlOk v then s
  else
    let t := s.onDie d fun y => { y with logCtl := v, played := if x.playOn then y.played else [], diverged := x.playOn && y.diverged }
    if x.logOn || !v.getLsbD 0 then t
    else
      (t.onDie d fun y => { y with logWr := 0, logRd := 0, lostCnt := 0, gapLost := 0, gap := false, diverged := false,
                                   reserve := [] }).logClock d

/-- LOGCTL_ENABLE (R424): a write of LOGCTL with EN set. -/
def execLogctlEnable (die : Nat) (value : DWord) (s : State) : Host.Outcome State Fault Refusal :=
  .next (if value.getLsbD 0 then s.writeLogctl die value else s)

/-- Whether an offset lies in the unconsumed part of the ring. -/
def Die.unconsumed (x : Die) (off : Nat) : Bool :=
  decide ((off + x.logSize - x.logRd) % x.logSize < (x.logWr + x.logSize - x.logRd) % x.logSize)

/-- LOGRD_WRITE (R425, R433): the host has consumed records; a gap may end. -/
def execLogrdWrite (die : Nat) (value : DWord) (s : State) : Host.Outcome State Fault Refusal :=
  if !(s.module (moduleOf die)).answers false then .next s else
  let t := s.onDie die fun x =>
    let y := { x with logRd := value.toNat / 32 * 32 % x.logSize }
    { y with reserve := y.reserve.filter y.unconsumed }
  .next (t.endGap die)

/-- LOG_CLOCK_WRAP (R427): TIME[39:0] has wrapped. -/
def execLogClockWrap (die : Nat) (s : State) : Host.Outcome State Fault Refusal :=
  if s.cc % 2 ^ 40 = 0 && (s.die die).logOn then .next (s.logClock die) else .next s

/-- LOGSTAT (Table 15.3). -/
def Die.logStat (x : Die) : DWord :=
  BitVec.ofNat 64 (packFields [(if x.logOn && decide (x.logFree ≤ 256 * 32) then 1 else 0, 0, 1), (if x.gap then 1 else 0, 1, 1),
    (if x.diverged then 1 else 0, 2, 1), (min x.reserve.length 256, 8, 9), (x.lostCnt, 32, 32)])

/-! ### Trace (R436 to R438) -/

/-- Bytes of the trace buffer. -/
def Die.trSize (x : Die) : Nat := 2 ^ bitsOf x.trCtl.toNat 22 5
/-- ASID of the trace buffer. -/
def Die.trAsid (x : Die) : Nat := bitsOf x.trCtl.toNat 32 16

/-- Whether a value may be written to TRCTL. -/
def trctlOk (v : DWord) : Bool :=
  v &&& 0x00000000F800FFF8#64 == 0 && decide (16 ≤ bitsOf v.toNat 22 5 ∧ bitsOf v.toNat 22 5 ≤ 32)

/-- A write to TRCTL (R436). -/
def State.writeTrctl (s : State) (d : Nat) (v : DWord) : State :=
  if trctlOk v && (s.module (moduleOf d)).answers false then s.onDie d fun x => { x with trCtl := v, trWr := 0, trLost := 0, pgLost := false, bufDrop := false, lossDue := false }
  else s

/-- TRCTL_WRITE (R436). -/
def execTrctlWrite (die : Nat) (value : DWord) (s : State) : Host.Outcome State Fault Refusal := .next (s.writeTrctl die value)

/-- TRSTAT (Table 15.6). -/
def Die.trStat (x : Die) : DWord :=
  BitVec.ofNat 64 (packFields [(if x.bufDrop then 1 else 0, 0, 1), (if x.pgLost then 1 else 0, 1, 1), (x.trLost, 32, 32)])

/-- One record at TRWR, which then advances; none where the write faults. -/
def State.tracePut (s : State) (d rec_ : Nat) : Option State :=
  let x := s.die d
  match s.writeVa d x.trAsid (x.trBase.toNat + x.trWr) (bytesOfNat 32 rec_) with
  | .ok t => some (t.onDie d fun y => { y with trWr := (x.trWr + 32) % x.trSize })
  | .error _ => none

/-- A record lost at a page that faults: counted; TRWR at the next 64 KiB boundary; under TRFAULT its bough traps PAGE_FAULT
before its next bundle, and the host hears of the first (R438, R445). -/
def State.traceFails (s : State) (d : Nat) (r : TraceRec) : State :=
  let x := s.die d
  let page := (x.trBase.toNat + x.trWr) / 2 ^ 16 * 2 ^ 16
  let t := s.onDie d fun y =>
    { y.traceLoss with pgLost := true, lossDue := true, lostVa := if x.lossDue then x.lostVa else page,
                       trWr := (page + 2 ^ 16 - x.trBase.toNat) % x.trSize }
  let t := if x.pgLost then t else t.postBeacon (d / 32) 4 0x61 0 (t.die d).trLost
  let on := (((s.grove? (groveOf r.bough)).bind s.launchOf).map (·.trFault)).getD false
  if on then t.onBough r.bough fun b =>
    let p : PendTrap := { rank := 2, cause := Cause.pageFault.code, tval := BitVec.ofNat 64 (bitsOf r.bits.toNat 128 64), frec := 0,
                          seq := b.seq, from_ := 0 }
    { b with pend := b.pend ++ [p] }
  else t

/-- TRACE_RECORD_WRITE (R437, R438): the oldest waiting record; after a loss a LOSS record goes first. -/
def execTraceRecordWrite (die : Nat) (s : State) : Host.Outcome State Fault Refusal :=
  match (s.die die).pending with
  | [] => .next s
  | r :: rest =>
    if !s.clocked (64 * die) then .next s
    else
      let x := s.die die
      let s := s.onDie die fun y => { y with pending := rest }
      let first := if x.lossDue then
          (s.tracePut die (logRecord 0x11 0 0 (packFields [(x.trLost, 0, 64), (x.lostVa, 64, 64)]) s.cc)).map fun t =>
            t.onDie die fun y => { y with lossDue := false }
        else some s
      match first.bind fun t => t.tracePut die r.bits.toNat with
      | some t => .next t
      | none => .next (((first.getD s).touch die x.trAsid (x.trBase.toNat + x.trWr)).traceFails die r)

/-! ### DBGRUN (R442, R443) -/

/-- A stopped bough is resumed. -/
def Bough.resumed (b : Bough) (step : Bool) (cc : Nat) : Bough :=
  { b with status := .ready, eligSince := cc, dbgCause := 0, dbgSkip := true, dbgStep := step }

/-- Boughs of a core resumed with the causes that they stopped for: those named, and those that stopped because of them. -/
def State.resumeBoughs (s : State) (core : Nat) (names : Bough → Bool) (step : Bool) : State :=
  let named := (s.coreBoughs core).filter fun x => x.2.1.status == .debug && names x.2.1
  let t := named.foldl (fun t x => t.onBough x.1 fun b => b.resumed step s.cc) s
  let t := (t.coreBoughs core).foldl (fun t x =>
    if named.any fun n => x.2.1.dbgCause == BitVec.ofNat 8 (16 + n.2.1.ctx) && n.2.1.dbgCause == 1 then
      t.onBough x.1 fun b => if b.status == .debug then b.resumed false s.cc else { b with dbgCause := 0 }
    else t) t
  t.syncDbgStop core

/-- Whether a value may be written to DBGRUN. -/
def dbgrunOk (v : DWord) : Bool := v &&& 0xFFFFFFFFFFFCF0C0#64 == 0

/-- A write to DBGRUN (Table 15.7). -/
def State.writeDbgrun (s : State) (die : Nat) (v : DWord) : State :=
  if !dbgrunOk v || !(s.module (moduleOf die)).answers false then s
  else s.resumeBoughs (64 * die + bitsOf v.toNat 0 6) (fun b => v.getLsbD 17 || b.ctx == bitsOf v.toNat 8 4) (v.getLsbD 16)

/-- DBGRUN_RESUME (R443): a write naming one bough. -/
def execDbgrunResume (die : Nat) (value : DWord) (s : State) : Host.Outcome State Fault Refusal := .next (s.writeDbgrun die value)

/-- DBGRUN_STEP (R443): a write with STEP. -/
def execDbgrunStep (die : Nat) (value : DWord) (s : State) : Host.Outcome State Fault Refusal := .next (s.writeDbgrun die value)

/-- DBGRUN_ALL (R443): a write with ALL. -/
def execDbgrunAll (die : Nat) (value : DWord) (s : State) : Host.Outcome State Fault Refusal := .next (s.writeDbgrun die value)

/-! ### Freeze (R446) -/

/-- The ports of a module go dark: each neighbour sees no light, and declares the loss after 20 ns (R385). -/
def State.goDark (s : State) (m : Nat) : State :=
  let ports := ((List.range 6).map fun f => (List.range 8).map fun j => peerEnd (portKey m f j)).flatten
  ports.foldl (fun t k =>
    (List.range 4).foldl (fun t g => t.atTime (s.cc + (s.module (linkModule k)).ccOf 20000) (.lossOfLight k g)) t) s

/-- Every clock of a module stops. -/
def State.freeze (s : State) (m : Nat) : State :=
  if !(s.module m).clocked then s
  else (s.onModule m fun x => { x with frozenAt := some s.cc, mstate := 3 }).goDark m

/-- FREEZE_PIN (R446). -/
def execFreezePin (m : Nat) (s : State) : Host.Outcome State Fault Refusal := .next (s.freeze m)

/-! ### The debug port (R447) -/

/-- The parts of an image at their offsets, which rise, as one string of bytes; what lies between them is reserved and zero. -/
def flattenParts (xs : List (Nat × List Byte)) : List Byte :=
  xs.foldl (fun bs p => bs ++ List.replicate (p.1 - bs.length) 0 ++ p.2) []

/-- The bough cycle from which the port counts a bough's results: the one that holds F; of a bough that is stopped, or has been resumed
and had no grant, the one from which its results count (R201; assumption 48). -/
def Bough.portBc (b : Bough) (f : Nat) : Nat :=
  match b.status with
  | .stopped n => n
  | _ => b.resumeFrom.getD (f / 4)

/-- A copy entry: tag, progress (the bytes read of each row, the rows made, the units written of each target), locus. -/
def CopyOp.entry (c : CopyOp) (id : Nat) : List Byte :=
  let p := c.progress
  let life := match c.life with
    | .waiting => 0
    | .running => 1
    | .empty => 2
    | .over => 3
  wordsBytes [id, c.bough, packFields [(c.tag, 0, 8), (life, 8, 2), (c.loc, 10, 2), (c.flag, 12, 5)], c.src.toNat, c.dst.toNat,
    p.got.length, p.rows.length, p.landed.length] ++ wordsBytes (p.got.map fun r => r.countP Option.isSome) ++
    wordsBytes (p.rows.map (·.row)) ++ wordsBytes (p.landed.map fun u => packFields [((BitVec.ofInt 58 u.2).toNat, 0, 58), (u.1, 58, 6)])

/-- An entry of the matrix queue. -/
def MatOp.entry (m : MatOp) : List Byte :=
  wordsBytes [m.bough, m.pc.toNat, packFields [(m.tag, 0, 8), (m.tile, 8, 2), (m.flag, 12, 5), (bit01 m.fetched.isSome, 20, 1),
    (bit01 m.ab.isSome, 21, 1)], m.da.toNat, m.db.toNat]

/-- A stamp entry. -/
def Stamp.entry (x : Stamp) (key : Nat) : List Byte :=
  wordsBytes [key, x.grove, x.t0, stampOffset x.t0 x.cin, stampOffset x.t0 x.opw, stampOffset x.t0 x.cmp, stampOffset x.t0 x.cout]

/-- What a core yields: its ASIDs and the lines of its L1 (R32), copies, matrix queue, stamps and waiting trace records. -/
def State.coreEntries (s : State) (core : Nat) : List Byte :=
  let asids := (((s.groves.filter fun g => g.2.core == core && g.2.life == .placed).filterMap fun g => s.launchOf g.2).map (·.asid)).eraseDups
  let mine := s.copies.filter fun c => ((s.grove? (groveOf c.2.bough)).map (·.core)) == some core
  wordsBytes (asids.length :: asids) ++ ((s.core core).l1.map fun x => wordsBytes [x.asid, 128 * x.line] ++ x.bytes).flatten ++
    (mine.map fun c => c.2.entry c.1).flatten ++ (((s.core core).mq ++ (s.core core).refused).map MatOp.entry).flatten ++
    ((s.core core).stamps.map fun e => e.2.entry e.1).flatten ++
    (((s.die (dieOf core)).pending.filter fun r => ((s.grove? (groveOf r.bough)).map (·.core)) == some core).map fun r =>
      bytesOfNat 32 r.bits.toNat).flatten

/-- The record-engine registers of a die. -/
def Die.recordRegs (x : Die) : List Nat :=
  [x.logBase.toNat, x.logCtl.toNat, x.logWr, x.logRd, x.logStat.toNat, x.playBase.toNat, x.playLen.toNat, x.trBase.toNat,
    x.trCtl.toNat, x.trWr, x.trStat.toNat, x.dbgStop.toNat]

/-- The beacon tables of a die: SEQ applied, flag entries, barrier entries. -/
def Die.tableBytes (x : Die) : List Byte :=
  wordsBytes ([x.framesApplied, x.flagTab.length] ++ (x.flagTab.map fun e => [e.1, e.2.toNat]).flatten ++
    (x.barTab.map fun e => [e.1, e.2.a, e.2.nb, e.2.g.toNat]).flatten)

/-- The log records of a die that are yet to be written: its reorders (R134). -/
def Die.pendingLog (x : Die) : List Nat :=
  (x.reorders.map fun r => [r.time, r.launch, packFields [(r.addr, 0, 40)], r.first, r.second]).flatten

/-- What the debug port yields for a selection: kind in bits 3:0 (0 a grove, 1 a bough, 2 a core, 3 a die, 4 a line of HBM, 5 a line
as the L2 of a die shows it, the die in the key's low 22 bits, 6 a die's beacon tables), its key above (the selection and the order
of parts: assumption 48). -/
def State.portBytes (s : State) (m sel f : Nat) : Option (List Byte) :=
  let key := sel / 16
  let here (g : Grove) : Bool := moduleOf g.die == m
  match sel % 16 with
  | 0 => ((s.grove? key).filter here).bind fun g => (s.launchOf g).map fun l => flattenParts (groveImage g l)
  | 1 => (s.bough? key).bind fun b => ((s.grove? b.grove).filter here).bind fun g => (s.launchOf g).map fun l =>
      let n := b.portBc f
      flattenParts (boughImage ({ b with held := b.heldNow, aged := b.agedAt f }.settled l.fpen n) g l n (b.imageClock (s.die g.die).clock)
        (if b.phase.isSome then f - b.grantCc else 0))
  | 2 => if moduleOf (dieOf key) = m then some (s.coreEntries key) else none
  | 3 => if moduleOf key = m then some (wordsBytes ((s.die key).recordRegs ++ (s.die key).pendingLog)) else none
  | 4 => if moduleOf (paHome (128 * key)) = m && s.paOk (128 * key) then some (readBytes s.mem (128 * key) 128) else none
  | 5 =>
    let d := key % 2 ^ 22
    let a := 128 * (key / 2 ^ 22)
    if moduleOf d = m && s.paOk a then some ((List.range 128).map fun i => s.viewByte d (a + i)) else none
  | 6 => if moduleOf key = m then some (s.die key).tableBytes else none
  | _ => none

/-- DEBUG_PORT_READ (R447): in the frozen state the port yields what is asked for; BAR 2 is the port then (R463). -/
def execDebugPortRead (m sel : Nat) (s : State) : Host.Outcome State Fault Refusal :=
  match (s.module m).frozenAt with
  | none => .next s
  | some f =>
    match s.portBytes m sel f with
    | none => .next s
    | some bs => .next (s.onModule m fun x => { x with hostData := bs, hostPoisoned := false })

end Sys2Proof.Machine
end

