-- ==== Sys2Proof/Machine/Host.lean ====
section
/-!
DEFINITION. The host link (17_host.md): the control block (R465), reset and firmware (R466), translation roots and
invalidations (R128, R467), the memory window (R473), the event ring (R468), power and temperature (R470, R471), and the map
of registers (R464).
-/
namespace Sys2Proof.Machine

/-- An event of the host link (source 6), whose WORD and VA the manual does not state (R469; assumption 24). -/
def State.postHost (s : State) (m kind : Nat) : State :=
  { s.postLaunch m 6 kind 0 (Config.freeWord s.free).toNat (Config.freeWord (s.free + 1)).toNat with free := s.free + 2 }

/-! ### Reset (R466) -/

/-- The module of a physical address. -/
def paModule (a : Nat) : Nat := a / 2 ^ 45

/-- The other end of a link of a module that resets begins anew: what it had not had acknowledged goes out again. -/
def Link.restart (x : Link) : Link :=
  { x with nextSeq := 1, unacked := [], sent := 0, queue := x.unacked ++ x.queue, attempts := 0, rxSeq := 0, nakOwed := false,
           naks := [], notices := [], pendingSet := none }

/-- Groves that stand on a module, or whose saved state its launch engine holds. -/
def State.grovesOn (s : State) (m : Nat) : List Nat :=
  (s.groves.filter fun e => if e.2.life == .saved then e.2.savedOn == m else moduleOf e.2.die == m).map (·.1)

/-- Whether a message hands a record to a module. -/
def MsgKind.submitsTo (k : MsgKind) (m : Nat) : Bool :=
  match k with
  | .submit p _ _ _ _ => p == m
  | _ => false

/-- The share of a launch that a module held: nothing more is placed of it; where the module's engine held the launch, its supplies
are gone too. -/
def Launch.shareLost (l : Launch) (m : Nat) : Launch :=
  { l with supply := if l.module = m then [] else l.supply
           shares := l.shares.map fun (y : Nat × Share) => if y.1 = m then (y.1, { y.2 with next := y.2.last, begun := false }) else y }

/-- What a module's dies had taken of an operation's accesses and not answered is lost with it: its requester finds it on no link. -/
def GOp.homeLost (o : GOp) (m : Nat) : GOp :=
  { o with lanes := o.lanes.map fun r =>
      match r.reach with
      | .taken home _ => if moduleOf home = m then { r with reach := .asked } else r
      | _ => r }

/-- A module discards all state, its memory reads zero, and it enters STATE 0. What it held of launches and groves is gone, and what
it was about to do; their peers find their channels broken (assumption 49). -/
def State.resetModule (s : State) (m : Nat) : State :=
  let x := s.module m
  let gone := s.grovesOn m
  let s := (s.closeSessions m)
  let s := gone.foldl (fun t k => (List.range 8).foldl (fun t n =>
    match (t.grove? k).bind fun g => g.endpoint n with
    | some e => if e.bound then t.breakEnd e.peer e.peerEnd else t
    | none => t) t) s
  let mine (bough : Nat) : Bool := gone.contains (groveOf bough)
  let lost := (s.launches.filter fun e => e.2.module == m && e.2.span == [m]).map (·.1)
  { s with
    modules := tput s.modules m { Module.initial with hostMem := x.hostMem }
    dies := s.dies.filter fun e => moduleOf e.1 != m
    cores := s.cores.filter fun e => moduleOf (dieOf e.1) != m
    links := (s.links.filter fun e => linkModule e.1 != m).map fun e => (e.1, if linkModule (peerEnd e.1) = m then e.2.restart else e.2)
    mem := s.mem.filter fun c => paModule c.1 != m
    poison := s.poison.filter fun n => paModule (128 * n) != m
    launches := (s.launches.filter fun e => !lost.contains e.1).map fun (e : Nat × Launch) => (e.1, e.2.shareLost m)
    agenda := s.agenda.filter fun e => (s.sites e.2).head? != some m
    groves := s.groves.filter fun e => !gone.contains e.1 && !lost.contains e.2.launch
    boughs := s.boughs.filter fun e => !mine e.1 && !lost.contains (launchOfKey e.1)
    ops := (s.ops.filter fun e => !mine e.2.bough).map fun (e : Nat × GOp) => (e.1, e.2.homeLost m)
    copies := s.copies.filter fun e => !mine e.2.bough
    writes := s.writes.filter fun e => e.2.home / 32 != m
    msgs := s.msgs.filter fun e => !e.2.submitsTo m }

/-- PCIE_FUNDAMENTAL_RESET (R466). -/
def execPcieFundamentalReset (m : Nat) (s : State) : Host.Outcome State Fault Refusal := .next (s.resetModule m)

/-! ### MCTL (R465) -/

/-- Whether a value may be written to MCTL. -/
def mctlOk (v : DWord) : Bool := v &&& 0x7F000000FFFFFEFC#64 == 0

/-- A write to MCTL: reset, which alone works while the clocks are stopped; freeze; the power state asked for; the compatibility
units disabled. -/
def State.writeMctl (s : State) (m : Nat) (v : DWord) : State :=
  if !mctlOk v then s
  else if v.getLsbD 63 then s.resetModule m
  else if !(s.module m).clocked then s
  else
    let t := s.onModule m fun x => { x with preq := v.extractLsb' 0 2, compDis := v.extractLsb' 32 24 }
    if v.getLsbD 8 then t.freeze m
    else if (t.module m).preq.toNat = (t.module m).pstate then t
    else t.later (t.cc + 1) (.powerStateChange m)

/-- MCTL_RESET (R465, R466): a write to MCTL. -/
def execMctlReset (m : Nat) (value : DWord) (s : State) : Host.Outcome State Fault Refusal := .next (s.writeMctl m value)

/-- MCTL_FREEZE (R446, R465): a write to MCTL. -/
def execMctlFreeze (m : Nat) (value : DWord) (s : State) : Host.Outcome State Fault Refusal := .next (s.writeMctl m value)

/-- MCTL_PREQ (R465, R470): a write to MCTL. -/
def execMctlPreq (m : Nat) (value : DWord) (s : State) : Host.Outcome State Fault Refusal := .next (s.writeMctl m value)

/-- Whether a launch is placed on a module. -/
def State.launchPlaced (s : State) (m : Nat) : Bool :=
  s.launches.any fun e => ((tget e.2.shares m).map (·.begun)).getD false && e.2.life != .queued

/-- POWER_STATE_CHANGE (R470): once no launch is placed. -/
def execPowerStateChange (m : Nat) (s : State) : Host.Outcome State Fault Refusal :=
  let x := s.module m
  if !x.clocked || s.launchPlaced m || x.preq = 3 then .next s
  else
    let t := s.onModule m fun y => { y with pstate := x.preq.toNat }
    .next (if x.preq = 0 then t.later (t.cc + 1) (.launchPlacement m) else t)

/-! ### Firmware (R466) -/

/-- A write of FWLEN: in STATE 0 the boot ROM goes on, once FWADDR has been written. -/
def State.writeFwlen (s : State) (m : Nat) (v : DWord) : State :=
  let t := s.onModule m fun x => { x with fwLen := v }
  if (s.module m).mstate = 0 ∧ (s.module m).fwGiven = true then t.later (t.cc + 1) (.firmwareVerify m) else t

/-- FWLEN_WRITE (R465, R466). -/
def execFwlenWrite (m : Nat) (value : DWord) (s : State) : Host.Outcome State Fault Refusal :=
  .next (if (s.module m).clocked then s.writeFwlen m value else s)

/-- FIRMWARE_VERIFY (R410, R466): the image read from the host's memory is measured and runs, or FWERR says why not: 2 a length of
nothing or above 64 MiB, 3 a read that fails or an address that is no multiple of 4 KiB (assumption 50), 1 a bad signature. -/
def execFirmwareVerify (m : Nat) (s : State) : Host.Outcome State Fault Refusal :=
  let x := s.module m
  let t := { s with free := s.free + 1 }
  let fails (e : Byte) : State := t.onModule m fun y => { y with mstate := 2, fwErr := e }
  if x.mstate != 0 || !x.clocked then .next s
  else if x.fwLen = 0 || 2 ^ 26 < x.fwLen.toNat then .next (fails 2)
  else if x.fwAddr.toNat % 4096 != 0 || Config.hostReadError s.free then .next (fails 3)
  else
    let image := readBytes x.hostMem x.fwAddr.toNat x.fwLen.toNat
    if Config.slhVerify Config.vendorKey image then
      .next (t.onModule m fun y => { y with mstate := 1, fwErr := 0, fwDigest := digest64 image })
    else .next (fails 1)

/-! ### Translation (R128, R467) -/

/-- TIGO (R467): an invalidation of the range is queued; a ninth is ignored. -/
def execTigo (m : Nat) (value : DWord) (s : State) : Host.Outcome State Fault Refusal :=
  let x := s.module m
  if !x.answers false || value.toNat / 2 ^ 16 != 0 || 8 ≤ x.invals.length then .next s
  else
    .next ((s.onModule m fun y => { y with invals := y.invals ++ [(value.toNat, x.tiBase.toNat, x.tiLen.toNat)] }).later (s.cc + 1)
      (.tinvDone m))

/-- Whether a range of an invalidation meets bytes from an address up; length 0 means every address. -/
def inRange (base len va n : Nat) : Bool := len == 0 || (decide (va < base + len) && decide (base < va + n))

/-- Whether an access of an address space, translated before, has yet to be performed, a copy's write of whichever line too (R128). -/
def State.translatedOut (s : State) (m asid base len : Nat) : Bool :=
  (s.ops.any fun e => e.2.asid == asid && s.opOn e.2 m && e.2.lanes.any fun r => (r.stage == 1 || (r.stage == 0 && r.reach != .here)) && inRange base len r.va.toNat r.bytes) ||
    s.copies.any fun e => e.2.asid == asid && ((s.grove? (groveOf e.2.bough)).any fun g => moduleOf g.die == m) &&
      e.2.progress.sent.any fun id => (tget s.writes id).any fun w => w.order == 0

/-- The translations of a range and the L1 lines of its ASID are dropped, and the ASID's root takes effect. -/
def State.invalidate (s : State) (m asid base len : Nat) : State :=
  let t := (moduleDies m).foldl (fun t d => t.onDie d fun x =>
    { x with tlb := x.tlb.filter fun e => !(e.asid == asid && inRange base len e.va e.size) }) s
  let drop (e : Nat × Core) : Nat × Core :=
    if moduleOf (dieOf e.1) = m then (e.1, { e.2 with l1 := e.2.l1.filter fun l => l.asid != asid }) else e
  let t := { t with cores := t.cores.map drop }
  t.onModule m fun x =>
    { x with rootsLive := tput x.rootsLive asid (tgetD x.roots asid 0) }

/-- TINV_DONE (R128, R467): the first of the invalidations completes once every access translated before has been performed. -/
def execTinvDone (m : Nat) (s : State) : Host.Outcome State Fault Refusal :=
  match (s.module m).invals with
  | [] => .next s
  | (asid, base, len) :: rest =>
    if !(s.module m).clocked || s.translatedOut m asid base len then .next s
    else .next (((s.invalidate m asid base len).onModule m fun x => { x with invals := rest }).postHost m 0x80)

/-! ### The memory window (R473) -/

/-- The physical address of an offset of the window. -/
def Module.windowPa (x : Module) (m offset : Nat) : Nat :=
  m * 2 ^ 45 + bitsOf x.hwin.toNat 40 5 * 2 ^ 40 + bitsOf x.hwin.toNat 26 14 * 2 ^ 26 + offset

/-- Whether an access of the window is accepted: 1 to 64 bytes within one line. -/
def windowOk (offset n : Nat) : Bool :=
  decide (1 ≤ n) && decide (n ≤ 64) && decide (offset % 128 + n ≤ 128) && decide (offset + n ≤ 2 ^ 26)

/-- Whether the window is onto memory: in STATE 1 (R473). -/
def Module.windowOn (x : Module) : Bool := x.mstate == 1

/-- Whether a copy owns the line of a physical address, so that the host's access waits (R147). -/
def State.windowHeld (s : State) (pa : Nat) : Bool := s.owned.contains (pa / 128)

/-- WINDOW_READ (R473): what the host reads, as an access that originates at the home die; a poisoned line's data is marked so.
While a copy owns the line the read waits (R147): nothing comes of the event, and the read is that of a later one. -/
def execWindowRead (m offset len : Nat) (s : State) : Host.Outcome State Fault Refusal :=
  let x := s.module m
  if !windowOk offset len || x.frozenAt.isSome then .next s
  else if !x.windowOn then .next (s.onModule m fun y => { y with hostData := List.replicate len 0, hostPoisoned := false })
  else
    let pa := x.windowPa m offset
    if s.windowHeld pa then .next s
    else .next (s.onModule m fun y => { y with hostData := readBytes s.mem pa len, hostPoisoned := s.poisoned pa })

/-- WINDOW_WRITE (R473): performed at the line's home, as an access that originates there, in the order of the host's writes;
after the copy that owns the line (R147). -/
def execWindowWrite (m offset : Nat) (bytes : List Byte) (s : State) : Host.Outcome State Fault Refusal :=
  let x := s.module m
  if !windowOk offset bytes.length || !x.windowOn then .next s
  else
    let pa := x.windowPa m offset
    let cells := bytes.zipIdx.map fun e => (pa + e.2, e.1)
    if s.windowHeld pa || s.writes.any fun w => w.2.bough == hostKey m && w.2.order == 0 then
      .next (s.sendLater (hostKey m) (paHome pa) 4 cells)
    else
      let w := s.originate (paHome pa) (hostKey m) 4 cells
      .next (w.2.spread w.1)

/-- Whether a value may be written to HWIN: no reserved bit, a die up to 23, local bits 39:37 clear. -/
def hwinOk (v : DWord) : Bool :=
  v &&& 0xFFFFE00003FFFFFF#64 == 0 && decide (bitsOf v.toNat 40 5 ≤ 23) && bitsOf v.toNat 37 3 == 0

/-! ### The event ring (R468) -/

/-- Events that wait are written while the ring has room. -/
def State.drain (s : State) (m : Nat) : State := s.onModule m (Module.drainEvents Config.eventsWaiting)

/-- EQRD_WRITE (R468): the host has consumed events. -/
def execEqrdWrite (m : Nat) (value : DWord) (s : State) : Host.Outcome State Fault Refusal :=
  .next (if (s.module m).clocked then (s.onModule m fun x => { x with eqRd := value.toNat }).drain m else s)

/-! ### Temperature and power (R470, R471) -/

/-- The readings of a die. -/
def State.reading (s : State) (d : Nat) (temp : BitVec 16) (power : BitVec 32) : State :=
  s.onDie d fun x => { x with temp := temp, power := power }

/-- Whether a die is at 105 degrees or above, or the module's power at 23 kW or above. -/
def State.tooHot (s : State) (m : Nat) : Bool :=
  (moduleDies m).any (fun d => decide (1680 ≤ (s.die d).temp.toNat)) ||
    decide (23000000 ≤ ((moduleDies m).map fun d => (s.die d).power.toNat).sum)

/-- A step of the clock of a module. -/
def State.clockStep (s : State) (m n : Nat) : State :=
  (s.onModule m fun x => { x with clkStep := n, throt := decide (0 < n) }).postHost m 0x81

/-- CLOCK_STEP_DOWN (R471): 2.5, 2.0, 1.5, 1.25 GHz. -/
def execClockStepDown (die : Nat) (temp : BitVec 16) (power : BitVec 32) (s : State) : Host.Outcome State Fault Refusal :=
  let m := moduleOf die
  let t := s.reading die temp power
  let n := (s.module m).clkStep
  .next (if t.tooHot m && decide (n < 3) && (s.module m).clocked then t.clockStep m (n + 1) else t)

/-- CLOCK_STEP_UP (R471): once the condition has cleared. -/
def execClockStepUp (die : Nat) (temp : BitVec 16) (power : BitVec 32) (s : State) : Host.Outcome State Fault Refusal :=
  let m := moduleOf die
  let t := s.reading die temp power
  let n := (s.module m).clkStep
  .next (if !t.tooHot m && decide (0 < n) && (s.module m).clocked then t.clockStep m (n - 1) else t)

/-- THERMAL_TRIP (R471): at 115 degrees the clocks stop as in a freeze, in STATE 4. -/
def execThermalTrip (die : Nat) (temp : BitVec 16) (power : BitVec 32) (s : State) : Host.Outcome State Fault Refusal :=
  let m := moduleOf die
  let t := s.reading die temp power
  if 1840 ≤ temp.toNat && (s.module m).clocked then
    .next ((t.onModule m fun x => { x with tripped := true, mstate := 4 }).goDark m)
  else .next t

/-! ### The map of registers (R464) -/

/-- A register as the map names it. -/
inductive RegName where
  /-- Control block, by offset. -/
  | control (off : Nat)
  | translation (off : Nat)
  /-- A port register of a link end. -/
  | port (link off : Nat)
  | beacon (off : Nat)
  | trust (off : Nat)
  /-- A record-engine register of a die of the module. -/
  | record (die off : Nat)
  | telemetry (die : Nat)
  | coolant
  | none
  deriving DecidableEq, Repr

/-- The register at an offset of BAR 0. -/
def regAt (m offset : Nat) : RegName :=
  if offset % 8 != 0 then .none
  else if offset < 0x1000 then .control offset
  else if offset < 0x2000 then .translation (offset - 0x1000)
  else if 0x10000 ≤ offset && offset < 0x10000 + 0x3000 then
    let b := (offset - 0x10000) / 0x100
    .port (portKey m (b / 8) (b % 8)) (offset % 0x100)
  else if 0x20000 ≤ offset && offset < 0x21000 then .beacon (offset - 0x20000)
  else if 0x21000 ≤ offset && offset < 0x22000 then .trust (offset - 0x21000)
  else if 0x30000 ≤ offset && offset < 0x30000 + 0x1800 then .record ((offset - 0x30000) / 0x100) (offset % 0x100)
  else if 0x40000 ≤ offset && offset < 0x40000 + 8 * 24 then .telemetry ((offset - 0x40000) / 8)
  else if offset = 0x40100 then .coolant
  else .none

/-- Whether EQCTL takes a value: no reserved bit, and a ring of 2^12 to 2^24 bytes when it is enabled (assumption 111). -/
def eqctlOk (v : DWord) : Bool :=
  v &&& 0xFFFFFFFFFFFFE0FE#64 == 0 && (!v.getLsbD 0 || decide (12 ≤ bitsOf v.toNat 8 5 ∧ bitsOf v.toNat 8 5 ≤ 24))

/-- A write to the control block (R465). -/
def State.writeControl (s : State) (m off : Nat) (v : DWord) : Host.Outcome State Fault Refusal :=
  let set (ok : Bool) (f : Module → Module) : Host.Outcome State Fault Refusal :=
    .next (if ok && (s.module m).clocked then s.onModule m f else s)
  match off with
  | 0x08 => .next (s.writeMctl m v)
  | 0x10 => set true fun x => { x with fwAddr := v, fwGiven := true }
  | 0x18 => execFwlenWrite m v s
  | 0x20 => set true fun x => { x with eqBase := v }
  | 0x28 =>
    if eqctlOk v && (s.module m).clocked then .next ((s.onModule m fun x => { x with eqCtl := v }).drain m)
    else .next s
  | 0x38 => execEqrdWrite m v s
  | 0x40 => set (v.toNat < 2 ^ 16) fun x => { x with lqAsid := v }
  | 0x48 => execLqdoorSubmit m v s
  | 0x50 => set (v.toNat < 2 ^ 51) fun x => { x with parg := v }
  | 0x58 => set true fun x => { x with psave := v }
  | 0x60 =>
    if v.toNat % 4 = 1 then execPreemptLaunch m v s
    else if v.toNat % 4 = 2 then execPreemptGrove m v s
    else if v.toNat % 4 = 3 then execKill m v s
    else .next s
  | 0x68 => set (hwinOk v) fun x => { x with hwin := v }
  | _ => .next s

/-- A write to the translation block (R467). -/
def State.writeTranslation (s : State) (m off : Nat) (v : DWord) : Host.Outcome State Fault Refusal :=
  let set (ok : Bool) (f : Module → Module) : Host.Outcome State Fault Refusal := .next (if ok then s.onModule m f else s)
  match off with
  | 0x00 => set (v.toNat < 2 ^ 16) fun x => { x with asel := v }
  | 0x08 => set (v.toNat % 4096 == 0) fun x => { x with roots := tput x.roots x.asel.toNat v.toNat }
  | 0x10 => set true fun x => { x with tiBase := v }
  | 0x18 => set true fun x => { x with tiLen := v }
  | 0x20 => execTigo m v s
  | _ => .next s

/-- A write to the trust block (R420, R421). -/
def State.writeTrust (s : State) (m off : Nat) (v : DWord) : State :=
  if off = 0 then s.writeTcfg m v
  else if 0x40 ≤ off && off < 0xC0 then
    let i := (off - 0x40) / 16
    if off % 16 = 0 then
      (if v &&& 0x7FFFFFFC00000000#64 == 0 then s.onModule m fun x => { x with egress := vmod x.egress i fun w => (v, w.2) } else s)
    else if v &&& 0x7FFF000000000000#64 == 0 then s.onModule m fun x => { x with egress := vmod x.egress i fun w => (w.1, v) }
    else s
  else s

/-- A write to a die's record-engine registers (R423, R424). -/
def State.writeRecord (s : State) (d off : Nat) (v : DWord) : Host.Outcome State Fault Refusal :=
  let set (ok : Bool) (f : Die → Die) : Host.Outcome State Fault Refusal := .next (if ok then s.onDie d f else s)
  match off with
  | 0x00 => set (!(s.die d).logOn) fun x => { x with logBase := v }
  | 0x08 => .next (s.writeLogctl d v)
  | 0x18 => execLogrdWrite d v s
  | 0x28 => set (v.toNat % 32 == 0) fun x => { x with playBase := v }
  | 0x30 => set (v.toNat % 32 == 0) fun x => { x with playLen := v }
  | 0x38 => set true fun x => { x with trBase := v }
  | 0x40 => .next (s.writeTrctl d v)
  | 0x60 => .next (s.writeDbgrun d v)
  | _ => .next s

/-- REGISTER_WRITE (R390, R393, R420, R421, R423, R464, R465, R467): a whole 64-bit word at an offset of the management region;
any other access, and a write to a read-only register, is ignored. -/
def execRegisterWrite (m offset : Nat) (value : DWord) (s : State) : Host.Outcome State Fault Refusal :=
  let x := s.module m
  match regAt m offset with
  | .control off => s.writeControl m off value
  | .translation off => if x.answers false then s.writeTranslation m off value else .next s
  | .port k off => .next (if off = 0 then s.writeLctl k value else s)
  | .beacon off =>
    .next (if off = 0 then s.writeBcfg m value
      else if off = 8 && value.toNat < 2 ^ 48 && x.answers false then s.onModule m fun y => { y with btim := value } else s)
  | .trust off => .next (if x.answers true then s.writeTrust m off value else s)
  | .record d off => if x.answers false then s.writeRecord (32 * m + d) off value else .next s
  | .telemetry _ | .coolant => .next s
  | .none => .next s

/-- MSTAT (R465). -/
def Module.mstat (x : Module) : DWord :=
  BitVec.ofNat 64 (packFields [(x.mstate, 0, 4), (x.pstate, 4, 2), (bit01 x.throt, 6, 1), (x.fwErr.toNat, 8, 8), (x.eqLost, 16, 32)])

/-- A register of the control block as read. -/
def Module.readControl (x : Module) (off : Nat) : DWord :=
  match off with
  | 0x00 => x.mstat
  | 0x08 => BitVec.ofNat 64 (packFields [(x.preq.toNat, 0, 2), (x.compDis.toNat, 32, 24)])
  | 0x10 => x.fwAddr
  | 0x18 => x.fwLen
  | 0x20 => x.eqBase
  | 0x28 => x.eqCtl
  | 0x30 => BitVec.ofNat 64 x.eqWr
  | 0x38 => BitVec.ofNat 64 x.eqRd
  | 0x40 => x.lqAsid
  | 0x50 => x.parg
  | 0x58 => x.psave
  | 0x68 => x.hwin
  | _ => 0

/-- Whether the block of a register answers: the control block always, the others as the module's state lets them (R466, R470). -/
def Module.blockUp (x : Module) (r : RegName) : Bool :=
  match r with
  | .control _ => true
  | .trust _ => x.answers true
  | _ => x.answers false

/-- A register as the host reads it; a write-only one, one of a block that does not answer, and any other offset, reads zero
(R464). -/
def State.readRegister (s : State) (m offset : Nat) : DWord :=
  let x := s.module m
  if !x.blockUp (regAt m offset) then 0
  else
  match regAt m offset with
  | .control off => x.readControl off
  | .translation off =>
    (match off with
      | 0x00 => x.asel
      | 0x08 => BitVec.ofNat 64 (tgetD x.roots x.asel.toNat 0)
      | 0x10 => x.tiBase
      | 0x18 => x.tiLen
      | 0x28 => BitVec.ofNat 64 (packFields [(bit01 (!x.invals.isEmpty), 0, 1), (x.invals.length, 4, 4)])
      | _ => 0)
  | .port k off => if off = 0 then (s.link k).lctl else if off = 8 then (s.link k).lstat else if off = 0x10 then (s.link k).lcnt else 0
  | .beacon off => if off = 0 then x.bcfg else if off = 8 then x.btim else if off = 0x10 then x.bstat (s.die (32 * m)).lastSeq else 0
  | .trust off =>
    if off = 0 then x.tcfg
    else if off = 8 then s.tstat m
    else if 0x40 ≤ off && off < 0xC0 then
      let w := x.egress.toList.getD ((off - 0x40) / 16) (0, 0)
      if off % 16 = 0 then w.1 else w.2
    else 0
  | .record d off =>
    let y := s.die (32 * m + d)
    (match off with
      | 0x00 => y.logBase
      | 0x08 => y.logCtl
      | 0x10 => BitVec.ofNat 64 y.logWr
      | 0x18 => BitVec.ofNat 64 y.logRd
      | 0x20 => y.logStat
      | 0x28 => y.playBase
      | 0x30 => y.playLen
      | 0x38 => y.trBase
      | 0x40 => y.trCtl
      | 0x48 => BitVec.ofNat 64 y.trWr
      | 0x50 => y.trStat
      | 0x58 => y.dbgStop
      | _ => 0)
  | .telemetry d =>
    let y := s.die (32 * m + d)
    BitVec.ofNat 64 (packFields [(y.temp.toNat, 0, 16), (y.power.toNat, 16, 32)])
  | .coolant => Config.coolant m s.cc
  | .none => 0

end Sys2Proof.Machine
end

