-- ==== Sys2Proof/Machine/Matrix.lean ====
section
/-!
DEFINITION. The matrix operations at issue (R318 to R323, R330) and what their fetch stage reads: operand rows, gathered
rows, compressed rows, side lists, and the stage lengths (R322 to R325, R329, R331).
-/
namespace Sys2Proof.Machine

/-! ### Issue -/

/-- An entry of the matrix queue with its descriptors and index lanes read (R321, R323). -/
def Ctx.matOp (c : Ctx) (kind : MatKind) (a : XSlot) : MatOp :=
  { bough := c.key, issued := c.t, pc := c.b.pc, asid := c.l.asid, bid := c.bid, iids := c.iids, kind := kind,
    tile := a.t.toNat, fsa := c.l.fslot a.fsa.toNat, fsb := c.l.fslot a.fsb.toNat, fsc := c.l.fslot a.fsc.toNat,
    da := c.b.sreg a.ba.toNat, db := c.b.sreg a.bb.toNat, idx := lowWords (c.read .u32 0 a.ix),
    act := c.actLanes (a.mod.extractLsb' 0 4), mod := a.mod, flag := a.kf.toNat, inc := incOf a.inc, tag := a.tag.toNat,
    seq := c.b.seq, fetched := none, fb := none, ab := none, shared := 0, seen := none, early := none, halt := none }

/-- Bough cycle in which an operation's array ends (R331): a killed one's, where it stops (R340). -/
def MatOp.arrayEnd (x : MatOp) : Option Nat :=
  match x.halt, x.ab, x.fetched with
  | some cc, _, _ => some ((cc + 3) / 4)
  | none, some ab, some y => some (ab + (y.arrayCc + (if x.kind == .mtrSp then x.shared else 0) + 3) / 4)
  | _, _, _ => none

/-- Whether an operation has an entry that one issued in the bough cycle `bc` cannot take: it does not finish by then (R330). -/
def MatOp.keepsEntry (x : MatOp) (bc : Nat) : Bool := !x.arrayEnd.any fun ae => decide (ae + 2 ≤ bc)

/-- An operation enters the queue, or is refused when eight entries are taken (R330). -/
def State.issueMat (s : State) (c : Ctx) (x : MatOp) : State :=
  let core := c.g.core
  if ((s.core core).mq.filter fun y => y.keepsEntry c.t).length < Config.matrixQueue then
    (s.onCore core fun y => { y with mq := y.mq ++ [x] }).atTime (4 * (c.t + 1)) (.matrixFetchStart core)
  else
    (s.onCore core fun y => { y with refused := y.refused ++ [x] }).atTime (4 * (c.t + 2)) (.matrixCompletion core)

/-- A matrix operation of a kind. -/
def matExec (i : Instr) (kind : MatKind) (a : XSlot) (s : State) : Host.Outcome State Fault Refusal :=
  s.guarded i fun c => s.issueMat c (c.matOp kind a)

/-- mma (R326, R327). -/
def execMma (a : XSlot) (s : State) : Host.Outcome State Fault Refusal := matExec (.mma a) .mma a s
/-- mmag (R323, R326, R327). -/
def execMmag (a : XSlot) (s : State) : Host.Outcome State Fault Refusal := matExec (.mmag a) .mmag a s
/-- mmas (R324, R326, R327). -/
def execMmas (a : XSlot) (s : State) : Host.Outcome State Fault Refusal := matExec (.mmas a) .mmas a s
/-- mmags (R323, R324, R326, R327). -/
def execMmags (a : XSlot) (s : State) : Host.Outcome State Fault Refusal := matExec (.mmags a) .mmags a s
/-- mmap (R327). -/
def execMmap (a : XSlot) (s : State) : Host.Outcome State Fault Refusal := matExec (.mmap a) .mmap a s
/-- mzero (R328). -/
def execMzero (a : XSlot) (s : State) : Host.Outcome State Fault Refusal := matExec (.mzero a) .mzero a s
/-- mtr (R328). -/
def execMtr (a : XSlot) (s : State) : Host.Outcome State Fault Refusal := matExec (.mtr a) .mtr a s
/-- mtr.sp (R328). -/
def execMtrSp (a : XSlot) (s : State) : Host.Outcome State Fault Refusal := matExec (.mtrSp a) .mtrSp a s
/-- mscl (R329). -/
def execMscl (a : XSlot) (s : State) : Host.Outcome State Fault Refusal := matExec (.mscl a) .mscl a s

/-! ### Sizes (R320, Table 10.3) -/

/-- K of an operand format (Table 10.3). -/
def kOf (s : FSlot) : Nat :=
  if s.fmt = 0x10 then 256
  else match s.elemBits with
    | 16 => 64
    | 8 => 128
    | _ => 256

/-- ceil(a / b). -/
def divUp (a b : Nat) : Nat := (a + b - 1) / b

namespace MatOp
/-- K, by the wider operand. -/
def k (x : MatOp) : Nat := min (kOf x.fsa) (kOf x.fsb)
/-- N, by the tile format. -/
def n (x : MatOp) : Nat := if x.fsc.fmt = 0x01 then 128 else 64
/-- Planes of A and of B that a product reads (R327). -/
def planesA (x : MatOp) : Nat := x.mod.toNat / 8 % 8 + 1
/-- Planes of B. -/
def planesB (x : MatOp) : Nat := x.mod.toNat % 8 + 1
/-- Whether A is gathered by index (R323). -/
def gathers (x : MatOp) : Bool := x.kind == .mmag || x.kind == .mmags
/-- Whether B is compressed (R324). -/
def sparse (x : MatOp) : Bool := x.kind == .mmas || x.kind == .mmags
/-- Whether an operation is a product. -/
def isProduct (x : MatOp) : Bool :=
  match x.kind with
  | .mma | .mmag | .mmas | .mmags | .mmap => true
  | _ => false
/-- Whether A holds integers (R327). -/
def integer (x : MatOp) : Bool := !matFloat x.fsa
end MatOp

/-- OFF, PITCH and SIDX of a descriptor (Table 10.4); `own` is the row's own length. -/
def descOff (d : DWord) : Nat := bitsOf d.toNat 0 20
/-- PITCH. -/
def descPitch (d : DWord) (own : Nat) : Nat := if bitsOf d.toNat 20 20 = 0 then own else bitsOf d.toNat 20 20
/-- SIDX. -/
def descSidx (d : DWord) : Nat := bitsOf d.toNat 40 24

/-! ### Reading (R322 to R325) -/

/-- A fault that no index lane has caused. -/
def matFault (c : Cause) (va : Nat) : MatFault := { cause := c.code, va := some (BitVec.ofNat 64 va), aux := 0, lanes := 0 }

/-- A fault of a descriptor, no byte of whose operand faults. -/
def descFault (c : Cause) : MatFault := { cause := c.code, va := none, aux := 0, lanes := 0 }

/-- A row of elements read: its values, its flags, and its faults. -/
structure MatRow where
  vals : List FVal
  flags : Flags
  faults : List MatFault
  deriving DecidableEq, Repr

/-- Bytes of an operand in the partition: outside it SCRATCH_BOUNDS, a soft error UNCORRECTABLE (Table 10.7). `lanes` are
those that have caused a row outside the partition. -/
def Grove.operandBytes (g : Grove) (l : Launch) (a n : Nat) (lanes : Mask) : Except MatFault (List Byte) :=
  if l.scratchBytes < a + n then
    .error { matFault .scratchBounds (max a l.scratchBytes) with lanes := lanes }
  else
    match (List.range n).find? fun i => g.badBytes (a + i) 1 with
    | some i => .error (matFault .uncorrectable (a + i))
    | none => .ok (readBytes g.scratch a n)

/-- Bytes of a stored row of `n` elements. -/
def storedBytes (s : FSlot) (n : Nat) : Nat := n * s.elemBits / 8

/-- Element codes of a stored row; a PNI row lies plane by plane (R106, R322). -/
def storedCodes (s : FSlot) (n : Nat) (bytes : List Byte) : List Nat :=
  (List.range n).map fun x =>
    if s.fmt = 0x10 then
      (List.range s.planes).foldl (fun c i =>
        c + (if (bytes.getD (i * (n / 8) + x / 8) 0).getLsbD (x % 8) then 2 ^ (s.planes - 1 - i) else 0)) 0
    else if s.elemBits = 4 then (bytes.getD (x / 2) 0).toNat / 16 ^ (x % 2) % 16
    else natOfBytes ((bytes.drop (s.elemBits / 8 * x)).take (s.elemBits / 8))

/-- Side information at an index of a slot's side list, read from global memory (R109, R333). -/
def State.matSide (s : State) (l : Launch) (d : Nat) (slot : FSlot) (i : Nat) : Except MatFault Side :=
  if slot.scale = 0 then .ok .none
  else
    let n := if slot.scale = 1 then 8 else 4
    let a := l.sideList slot + n * i
    if l.sideList slot % n != 0 then .error (matFault .misaligned a)
    else
      match s.readVa d l.asid a n with
      | .error f => .error { cause := f.1, va := some (BitVec.ofNat 64 a), aux := f.2, lanes := 0 }
      | .ok bytes =>
        let w := natOfBytes bytes
        if slot.scale = 1 then .ok (.block (BitVec.ofNat 32 w) (BitVec.ofNat 8 (w / 2 ^ 32)))
        else .ok (.factor (BitVec.ofNat 32 w))

/-- Index into the side list of element x of stored row y, rows having n elements (R109, R322). -/
def sideIndex (slot : FSlot) (n y x sidx : Nat) : Nat :=
  match slot.scale with
  | 1 => y * (n / 32) + x / 32 + sidx
  | 2 => y + sidx
  | _ => x + sidx

/-- Codes as elements by elem_value, `p` planes of a PNI code being read (R110, R322). -/
def State.matElems (s : State) (l : Launch) (d : Nat) (slot : FSlot) (p y sidx : Nat) (codes : List Nat) : MatRow :=
  let n := codes.length
  let esc (x : Nat) : Nat := ((List.range (x % 32)).filter fun i => codes.getD (x / 32 * 32 + i) 0 == 8).length
  let rs := codes.zipIdx.map fun e =>
    match s.matSide l d slot (sideIndex slot n y e.2 sidx) with
    | .error f => ((FVal.zero false, (0 : Flags)), [f])
    | .ok side => (elemValue slot p e.1 (esc e.2) side, ([] : List MatFault))
  { vals := rs.map (·.1.1), flags := orFlags (rs.map (·.1.2)), faults := (rs.map (·.2)).flatten }

/-- A stored row read: row y at an address. Every cause that it meets counts (R336). -/
def State.matRow (s : State) (g : Grove) (l : Launch) (slot : FSlot) (p n y sidx at_ : Nat) (lanes : Mask) : MatRow :=
  match g.operandBytes l at_ (storedBytes slot n) lanes with
  | .error f => { vals := [], flags := 0, faults := f :: (s.matElems l g.die slot p y sidx (List.replicate n 0)).faults }
  | .ok bytes => s.matElems l g.die slot p y sidx (storedCodes slot n bytes)

/-- A row of +0 (R323). -/
def MatRow.zero (n : Nat) : MatRow := { vals := List.replicate n (.zero false), flags := 0, faults := [] }

/-- A misaligned descriptor (R325), with the first byte of the first of the operand's stored rows `ys` that it puts off its
alignment (R337); `own` is the length of a stored row. -/
def descFaults (d : DWord) (own : Nat) (ys : List Nat) : List MatFault :=
  let pitch := descPitch d own
  if descOff d % 4 = 0 ∧ pitch % 4 = 0 then []
  else
    match ys.find? fun y => (descOff d + y * pitch) % 4 != 0 with
    | some y => [matFault .misaligned (descOff d + y * pitch)]
    | none => [descFault .misaligned]

/-- The stored rows that the acting index lanes name (R323). -/
def MatOp.indexRows (x : MatOp) : List Nat := (lanesOf x.act).map fun r => (x.idx.toArray.getD r 0).toNat

/-- A by rows (R322, R323). -/
def State.matA (s : State) (x : MatOp) (g : Grove) (l : Launch) : List MatRow :=
  let pitch := descPitch x.da (storedBytes x.fsa x.k)
  (List.range 64).map fun r =>
    if x.gathers && !x.act.getLsbD r then MatRow.zero x.k
    else
      let y := if x.gathers then (x.idx.toArray.getD r 0).toNat else r
      s.matRow g l x.fsa x.planesA x.k y (descSidx x.da) (descOff x.da + y * pitch)
        (if x.gathers then BitVec.ofNat 64 (2 ^ r) else 0)

/-- Rows turned into columns. -/
def columnsOf (n : Nat) (rows : List (List FVal)) : List (List FVal) :=
  (List.range n).map fun i => rows.map fun r => r.getD i (.zero false)

/-- B stored dense, as stored rows: N rows of K with MOD[6], else K rows of N (R322). -/
def State.matB (s : State) (x : MatOp) (g : Grove) (l : Launch) : List MatRow :=
  let tb := x.mod.getLsbD 6
  let len := if tb then x.k else x.n
  let pitch := descPitch x.db (storedBytes x.fsb len)
  (List.range (if tb then x.n else x.k)).map fun r =>
    s.matRow g l x.fsb x.planesB len r (descSidx x.db) (descOff x.db + r * pitch) 0

/-! ### Compressed B (R324) -/

/-- RPOFF, CIOFF and VOFF of a CSR descriptor (Table 10.5). -/
def csrRp (d : DWord) : Nat := bitsOf d.toNat 0 20
/-- CIOFF. -/
def csrCi (d : DWord) : Nat := bitsOf d.toNat 20 20
/-- VOFF. -/
def csrV (d : DWord) : Nat := bitsOf d.toNat 40 20

/-- A compressed operand read: row pointers, columns and codes of its entries, none where one could not be read; faults. -/
structure Csr where
  rp : List (Option Nat)
  ci : List (Option Nat)
  codes : List Nat
  faults : List MatFault
  deriving DecidableEq, Repr

/-- The fault of what could not be read. -/
def faultOf {α : Type} : Except MatFault α → List MatFault
  | .error f => [f]
  | .ok _ => []

/-- Row pointer i, 0 where it could not be read. -/
def Csr.rpAt (c : Csr) (i : Nat) : Nat := (c.rp.getD i none).getD 0

/-- The first row pointer that falls, of those read (R324). -/
def fallingRp (rp : List (Option Nat)) : Option Nat :=
  (List.range (rp.length - 1)).find? fun i =>
    match rp.getD i none, rp.getD (i + 1) none with
    | some a, some b => decide (b < a)
    | _, _ => false

/-- Bytes of an operand, each for itself where they cannot all be read; with the faults. -/
def Grove.operandEach (g : Grove) (l : Launch) (a n : Nat) : List (Option Nat) × List MatFault :=
  match g.operandBytes l a n 0 with
  | .ok bs => (bs.map fun b => some b.toNat, [])
  | .error _ =>
    let xs := (List.range n).map fun i => g.operandBytes l (a + i) 1 0
    (xs.map fun x => x.toOption.bind fun b => b.head?.map fun y => y.toNat, (xs.map faultOf).flatten)

/-- The row pointers, index bytes and values of a compressed operand, with all that breaks R324 and R325 (R336): what can be read is
examined beside what cannot. With no entry no index byte and no value is read. -/
def readCsr (x : MatOp) (g : Grove) (l : Launch) : Csr :=
  let d := x.db
  let off := ([csrRp d, csrCi d, csrV d].filter fun a => a % 4 != 0).map (matFault .misaligned)
  let bad (fs : List MatFault) (rp : List (Option Nat)) : Csr := { rp := rp, ci := [], codes := [], faults := off ++ fs }
  if d.toNat / 2 ^ 60 != 0 then bad [descFault .illegalState] []
  else if csrRp d % 4 != 0 then bad [] []
  else
    let words := (List.range (x.k + 1)).map fun i => g.operandBytes l (csrRp d + 4 * i) 4 0
    let rp := words.map fun w => w.toOption.map fun b => numAt b 0 4
    let fs := (words.map faultOf).flatten
    match fallingRp rp, rp.getD 0 none, rp.getD x.k none with
    | some i, _, _ => bad (fs ++ [matFault .illegalState (csrRp d + 4 * (i + 1))]) rp
    | none, some e0, some e1 =>
      if 16384 < e1 - e0 || decide (e1 < e0) then bad (fs ++ [matFault .illegalState (csrRp d + 4 * x.k)]) rp
      else if e1 = e0 then bad fs rp
      else
        let size := x.fsb.elemBits / 8
        let ci := g.operandEach l (csrCi d + e0) (e1 - e0)
        let vs := g.operandBytes l (csrV d + e0 * size) ((e1 - e0) * size) 0
        let wide := if csrCi d % 4 != 0 then [] else
          match ci.1.findIdx? fun n => n.any fun n => decide (x.n ≤ n) with
          | some i => [matFault .illegalState (csrCi d + e0 + i)]
          | none => []
        { rp := rp, ci := ci.1, codes := (vs.toOption.map (storedCodes x.fsb (e1 - e0))).getD [],
          faults := off ++ fs ++ ci.2 ++ faultOf vs ++ wide }
    | none, _, _ => bad fs rp

/-- Row k of B assembled: a later entry replaces an earlier one. Of an entry whose column could not be read only the side record of
its row is. -/
def State.csrRow (s : State) (x : MatOp) (g : Grove) (l : Launch) (c : Csr) (k : Nat) : MatRow :=
  match c.rp.getD 0 none, c.rp.getD k none, c.rp.getD (k + 1) none with
  | some e0, some first, some next =>
    (List.range (next - first)).foldl (fun (row : MatRow) i =>
      let e := first - e0 + i
      let col := c.ci.getD e none
      match if x.fsb.scale = 2 then some k else col with
      | none => row
      | some at_ =>
        match s.matSide l g.die x.fsb at_, col with
        | .error f, _ => { row with faults := row.faults ++ [f] }
        | .ok side, some col =>
          let y := elemValue x.fsb x.planesB (c.codes.getD e 0) 0 side
          { row with vals := row.vals.set col y.1, flags := row.flags ||| y.2 }
        | .ok _, none => row) (MatRow.zero x.n)
  | _, _, _ => MatRow.zero x.n

/-- The misaligned side list of a compressed operand whose entries cannot be walked (R109, R336). -/
def sideUnwalked (x : MatOp) (l : Launch) : List MatFault :=
  if x.fsb.scale != 0 && l.sideList x.fsb % (if x.fsb.scale = 1 then 8 else 4) != 0 then
    [matFault .misaligned (l.sideList x.fsb)]
  else []

/-- Chunks that hold an entry. -/
def Csr.live (c : Csr) (k : Nat) : List Bool :=
  (List.range (k / 16)).map fun j => decide (c.rpAt (16 * j) < c.rpAt (16 * j + 16))

/-! ### What the fetch stage reads -/

/-- Spill rows that leave the partition, and a misaligned spill descriptor (R325, R328). -/
def spillFaults (x : MatOp) (l : Launch) : List MatFault :=
  match descFaults x.da 256 x.indexRows with
  | [] =>
    (lanesOf x.act).filterMap fun r =>
      let a := descOff x.da + (x.idx.toArray.getD r 0).toNat * descPitch x.da 256
      if l.scratchBytes < a + 256 then
        some { matFault .scratchBounds (max a l.scratchBytes) with lanes := BitVec.ofNat 64 (2 ^ r) }
      else none
  | fs => fs

/-- An operation that reads no operand. -/
def bareFetch (arrayCc : Nat) (faults : List MatFault) : Fetched :=
  { a := [], b := [], live := [], fetchCc := 0, arrayCc := arrayCc, flags := 0, faults := faults }

/-- The scales of mscl, one for each row or column (R329). -/
def State.fetchScales (s : State) (x : MatOp) (g : Grove) (l : Launch) : Fetched :=
  let base := { bareFetch (64 * (x.n / 64)) [] with fetchCc := 16 }
  if x.da.toNat % 2 ^ 40 != 0 then { base with faults := [descFault .illegalState] }
  else
    let rs := (List.range (if x.fsa.scale = 2 then 64 else x.n)).map fun i =>
      match s.matSide l g.die x.fsa (i + descSidx x.da) with
      | .ok (.factor w) => (valOf .fp32 w.toNat, ([] : List MatFault))
      | .ok _ => (FVal.zero false, [])
      | .error f => (FVal.zero false, [f])
    { base with a := [rs.map (·.1)], faults := (rs.map (·.2)).flatten }

/-- Core cycles of the fetch stage before the row pointers' own term (Table 10.6). -/
def MatOp.fetchBase (x : MatOp) : Nat := if x.gathers then 32 else if x.isProduct || x.kind == .mscl then 16 else 0

/-- Whether an operation reads operands, side records or scales. -/
def MatOp.reads (x : MatOp) : Bool := x.isProduct || x.kind == .mscl

/-- Whether an operation reads side lists or scales from global memory, whose time is open (Table 10.6). -/
def MatOp.readsLists (x : MatOp) : Bool := x.reads && (x.fsa.scale != 0 || x.fsb.scale != 0)

/-- The operands of a product (R322 to R325) and its stage lengths (Tables 10.3, 10.6). -/
def State.fetchProduct (s : State) (x : MatOp) (g : Grove) (l : Launch) : Fetched :=
  let a := match descFaults x.da (storedBytes x.fsa x.k) (if x.gathers then x.indexRows else List.range 64) with
    | [] => s.matA x g l
    | fs => [{ MatRow.zero x.k with faults := fs }]
  let base := x.fetchBase
  if x.sparse then
    let c := readCsr x g l
    let walked := c.rp != [] && (c.rp ++ c.ci).all Option.isSome && c.ci.length + c.rpAt 0 == c.rpAt x.k
    let broken := c.faults.any fun f => f.cause == Cause.illegalState.code
    let rows := if broken then [] else (List.range x.k).map (s.csrRow x g l c)
    let live := c.live x.k
    { a := a.map (·.vals), b := columnsOf x.n (rows.map (·.vals)), live := live,
      fetchCc := base + divUp (c.rpAt x.k - c.rpAt 0) 16,
      arrayCc := divUp (64 * (x.n / 64) * (live.filter id).length) (x.k / 16),
      flags := orFlags (a.map (·.flags)) ||| orFlags (rows.map (·.flags)),
      faults := (a.map (·.faults)).flatten ++ c.faults ++ (if walked then [] else sideUnwalked x l) ++
        (rows.map (·.faults)).flatten }
  else
    let b := match descFaults x.db (storedBytes x.fsb (if x.mod.getLsbD 6 then x.k else x.n)) (List.range (if x.mod.getLsbD 6 then x.n else x.k)) with
      | [] => s.matB x g l
      | fs => [{ MatRow.zero x.k with faults := fs }]
    let vals := b.map (·.vals)
    { a := a.map (·.vals), b := if x.mod.getLsbD 6 then vals else columnsOf x.n vals,
      live := List.replicate (x.k / 16) true, fetchCc := base,
      arrayCc := if x.kind == .mmap then 16 * x.planesA * x.planesB else 64 * (x.n / 64),
      flags := orFlags (a.map (·.flags)) ||| orFlags (b.map (·.flags)),
      faults := (a.map (·.faults)).flatten ++ (b.map (·.faults)).flatten }

/-- The ranges of the side lists that an operation reads: address and bytes (R109, R322, R324, R329). -/
def MatOp.sideRanges (x : MatOp) (l : Launch) : List (Nat × Nat) :=
  let of (slot : FSlot) (first count : Nat) : List (Nat × Nat) :=
    if slot.scale = 0 then []
    else
      let size := if slot.scale = 1 then 8 else 4
      [(l.sideList slot + size * first, size * count)]
  let row (slot : FSlot) (n sidx y : Nat) : List (Nat × Nat) :=
    of slot (sideIndex slot n y 0 sidx) (match slot.scale with | 1 => n / 32 | 2 => 1 | _ => n)
  if x.kind == .mscl then of x.fsa (descSidx x.da) (if x.fsa.scale = 2 then 64 else x.n)
  else if !x.isProduct then []
  else
    ((if x.gathers then x.indexRows else List.range 64).map (row x.fsa x.k (descSidx x.da))).flatten ++
      if x.sparse then of x.fsb 0 (if x.fsb.scale = 2 then x.k else x.n)
      else
        let tb := x.mod.getLsbD 6
        ((List.range (if tb then x.n else x.k)).map (row x.fsb (if tb then x.k else x.n) (descSidx x.db))).flatten

/-- What an operation's fetch stage reads. -/
def State.matFetch (s : State) (x : MatOp) (g : Grove) (l : Launch) : Fetched :=
  match x.kind with
  | .mzero => bareFetch 16 []
  | .mtr => bareFetch (64 * (x.n / 64)) []
  | .mtrSp => bareFetch 64 (spillFaults x l)
  | .mscl => s.fetchScales x g l
  | _ => s.fetchProduct x g l

end Sys2Proof.Machine
end

