-- ==== Sys2Proof/Machine/MatrixRun.lean ====
section
/-!
DEFINITION. Matrix operations at work: what they compute (R326 to R329), their stages in the order of the queue (R330 to
R332), and their completion with flags, faults and stamps (R335 to R338).
-/
namespace Sys2Proof.Machine

/-! ### Tiles (R278, R320) -/

/-- The rows of an operation's tile. -/
def MatOp.tileRow (x : MatOp) (g : Grove) (r : Nat) : Lanes := g.row (64 * x.tile + r)

/-- The code of C(r, n). -/
def MatOp.elem (x : MatOp) (g : Grove) (r n : Nat) : Nat :=
  let w := (x.tileRow g r).toArray.getD (if x.n = 128 then n / 2 else n) 0
  if x.n = 128 then w.toNat / 2 ^ (16 * (n % 2)) % 2 ^ 16 else w.toNat

/-- A row from the codes of its elements. -/
def MatOp.rowOf (x : MatOp) (codes : List Nat) : Lanes :=
  Vector.ofFn fun l =>
    if x.n = 128 then BitVec.ofNat 32 (codes.getD (2 * l.val) 0 + 2 ^ 16 * codes.getD (2 * l.val + 1) 0)
    else BitVec.ofNat 32 (codes.getD l.val 0)

/-- A tile's rows written. -/
def Grove.setTile (g : Grove) (tile : Nat) (rows : List Lanes) : Grove :=
  { g with tiles := rows.zipIdx.foldl (fun t e => tput t (64 * tile + e.2) e.1) g.tiles }

/-! ### Results -/

/-- The draw of element (r, n) (R326, R329). -/
def MatOp.draw (x : MatOp) (l : Launch) (r n : Nat) : BitVec 64 :=
  drawOf l.seed (BitVec.ofNat 32 (64 * x.tile + r)) 66 x.pc n

/-- An element of a float product (R326). -/
def MatOp.floatElem (x : MatOp) (l : Launch) (g : Grove) (live : List Bool) (a b : List FVal) (r n : Nat) : Nat × Flags :=
  let old := x.elem g r n
  let c0 : Word := if x.mod.getLsbD 7 then 0 else BitVec.ofNat 32 (if x.n = 128 then old * 2 ^ 16 else old)
  let c := chunkMac x.fsc.sat live c0 (a.zip b)
  if x.n = 128 then
    let y := roundTo .bf16 (x.fsc.mode (x.draw l r n)) x.fsc.sat (valOf .fp32 c.1.toNat)
    (y.1, y.2 ||| c.2)
  else (c.1.toNat, c.2)

/-- The sum of one chunk of integer products: exact, or with scaled B an exact real converted by toint rne (R327). -/
def intChunk (scaled : Bool) (ab : List (FVal × FVal)) : Int × Flags :=
  if scaled then
    let s := nanOrSum false (ab.map (·.2)) (ab.map fun x => x.1.times x.2)
    let y := toInt (-(2 ^ 31)) (2 ^ 31 - 1) .rne s.1
    (y.1, y.2)
  else ((ab.map fun x => (x.1.real * x.2.real).floor).foldl (· + ·) 0, 0)

/-- An element of an integer product, chunk by chunk (R327). -/
def intMac (sat scaled : Bool) : List Bool → Int → List (FVal × FVal) → Int × Flags
  | [], c, _ => (c, 0)
  | false :: live, c, ab => intMac sat scaled live c (ab.drop 16)
  | true :: live, c, ab =>
    let s := intChunk scaled (ab.take 16)
    let c' := if sat then max (-(2 ^ 31)) (min (2 ^ 31 - 1) (c + s.1)) else intVal 32 true (intCode 32 (c + s.1))
    let r := intMac sat scaled live c' (ab.drop 16)
    (r.1, s.2 ||| r.2)

/-- An element of an integer product as a code. -/
def MatOp.intElem (x : MatOp) (g : Grove) (live : List Bool) (a b : List FVal) (r n : Nat) : Nat × Flags :=
  let c0 : Int := if x.mod.getLsbD 7 then 0 else intVal 32 true (x.elem g r n)
  let y := intMac x.fsc.sat (x.fsb.scale != 0) live c0 (a.zip b)
  (intCode 32 y.1, y.2)

/-- An element of mscl (R329). -/
def MatOp.scaledElem (x : MatOp) (l : Launch) (g : Grove) (scale : FVal) (r n : Nat) : Nat × Flags :=
  let f := if x.n = 128 then FFmt.bf16 else FFmt.fp32
  let m := if x.n = 128 then x.fsc.mode (x.draw l r n) else .rne
  let c := valOf f (x.elem g r n)
  match [c, scale].find? FVal.isNan with
  | some v =>
    let y := roundTo f m x.fsc.sat v
    (y.1, y.2 ||| sigFlags [c, scale])
  | none =>
    let p := c.times scale
    roundWith f m x.fsc.sat (p, if p.isNan then Flag.nv else 0)

/-- Every element computed: the rows of the tile and the flags. -/
def MatOp.byElem (x : MatOp) (f : Nat → Nat → Nat × Flags) : List Lanes × Flags :=
  let rows := (List.range 64).map fun r => (List.range x.n).map fun n => f r n
  (rows.map fun row => x.rowOf (row.map (·.1)), orFlags (rows.map fun row => orFlags (row.map (·.2))))

/-- The tile after an operation, and the flags (R326 to R329). -/
def MatOp.result (x : MatOp) (l : Launch) (g : Grove) (y : Fetched) : List Lanes × Flags :=
  let rowA (r : Nat) : List FVal := y.a.getD r []
  let colB (n : Nat) : List FVal := y.b.getD n []
  match x.kind with
  | .mzero => (List.replicate 64 zeroLanes, 0)
  | .mtr =>
    ((List.range 64).map fun r => Vector.ofFn fun n => (x.tileRow g n.val).toArray.getD r 0, 0)
  | .mtrSp => ((List.range 64).map fun r => x.tileRow g r, 0)
  | .mscl => x.byElem fun r n => x.scaledElem l g ((y.a.headD []).getD (if x.fsa.scale = 2 then r else n) (.zero false)) r n
  | _ =>
    if x.integer then x.byElem fun r n => x.intElem g y.live (rowA r) (colB n) r n
    else x.byElem fun r n => x.floatElem l g y.live (rowA r) (colB n) r n

/-- The rows that mtr.sp spills: where, and their words (R328). -/
def MatOp.spills (x : MatOp) (g : Grove) : List (Nat × Lanes) :=
  (lanesOf x.act).map fun r =>
    (descOff x.da + (x.idx.toArray.getD r 0).toNat * descPitch x.da 256,
      if x.mod.getLsbD 6 then Vector.ofFn fun n => (x.tileRow g n.val).toArray.getD r 0 else x.tileRow g r)

/-- The causes of Table 10.7 in its order. -/
def matCauses : List Cause :=
  [.illegalState, .misaligned, .scratchBounds, .pageFault, .protection, .uncorrectable]

/-- The fault that is reported: the first cause in the table's order, its first address, and every lane that caused it
(R336, R337). -/
def reportedFault (fs : List MatFault) : Option MatFault :=
  let of (c : Byte) : List MatFault := fs.filter fun f => f.cause == c
  let known := (matCauses.map (·.code)).find? fun c => !(of c).isEmpty
  let first := match known with
    | some c => (of c).head?
    | none => fs.head?
  first.map fun f => { f with lanes := (of f.cause).foldl (fun m e => m ||| e.lanes) 0 }

/-- A grove's tiles as an operation leaves them: a fault leaves its tile unchanged (R336). -/
def MatOp.leaves (x : MatOp) (l : Launch) (g : Grove) : Grove :=
  match x.kind, x.halt, x.fetched with
  | .mtrSp, _, _ | _, some _, _ | _, _, none => g
  | _, none, some y => if (reportedFault y.faults).isSome then g else g.setTile x.tile (x.result l g y).1

/-- A grove as the operations of a queue ahead of entry `i` leave it: the array takes their results directly (R331). -/
def groveAhead (q : List MatOp) (i : Nat) (l : Launch) (key : Nat) (g : Grove) : Grove :=
  (q.take i).foldl (fun g p => if groveOf p.bough = key then p.leaves l g else g) g

/-- Whether a spilled word has landed before the operation finishes: mtr.sp writes as a copy does (R149, R334, assumption 23). -/
def MatOp.landedEarly (x : MatOp) (a : Nat) : Bool := x.early.any fun n => Config.gathers n (a / 4)

/-- Cells of spilled rows. -/
def spillCells (xs : List (Nat × Lanes)) : List Host.Cell :=
  (xs.map fun e => (e.2.toList.zipIdx.map fun w => numCells (e.1 + 4 * w.2) 4 w.1.toNat).flatten).flatten

/-! ### Completion -/

/-- The fault record of a matrix operation (R337). -/
def MatOp.faultInfo (x : MatOp) (f : MatFault) : FaultInfo :=
  { cause := f.cause, pc := x.pc, lanes := f.lanes, va := f.va.getD 0, aux := f.aux, src := 2, bid := x.bid, iids := x.iids }

/-- A fault whose address the rules do not give takes a free one (assumption 24). -/
def State.withVa (s : State) (f : MatFault) : MatFault := { f with va := some (f.va.getD (Config.freeWord s.free)) }

/-- An operation completes: its tile or spill rows, its flags, and its increment, in one bough cycle (R331, R335). -/
def State.finishMat (s : State) (x : MatOp) (y : Fetched) : State :=
  match s.opHome x.bough with
  | none => s
  | some (g, l) =>
    match reportedFault y.faults with
    | some f =>
      { s with free := s.free + 1 }.reachFlag g.launch (groveOf x.bough) (.complete x.flag x.inc (some (x.faultInfo (s.withVa f))))
    | none =>
      let r := x.result l g y
      let flags := r.2 ||| y.flags
      let t := s.onGrove (groveOf x.bough) fun g =>
        match x.kind with
        | .mtrSp => g.scratchWrite ((spillCells (x.spills g)).filter fun e => !x.landedEarly e.1)
        | _ => g.setTile x.tile r.1
      let info := if enabledRaised l.fpen flags then some (x.faultInfo (s.withVa (descFault .fpException))) else none
      ({ t with free := s.free + 1 }.raiseFlags x.bough flags).reachFlag g.launch (groveOf x.bough)
        (.complete x.flag x.inc info)

/-- A refused operation completes with ILLEGAL_STATE (R330). -/
def State.finishRefused (s : State) (x : MatOp) : State :=
  { s with free := s.free + 1 }.reachFlag (launchOfKey x.bough) (groveOf x.bough)
    (.complete x.flag x.inc (some (x.faultInfo (s.withVa (descFault .illegalState)))))

/-! ### Stages (R331) -/

/-- An entry of a queue changed. -/
def Core.onMat (c : Core) (i : Nat) (f : MatOp → MatOp) : Core := { c with mq := c.mq.modify i f }

/-- Whether a fixed-latency result of a bundle issued before an operation is still to land in its tile (R331, R332): d. The
results of a pre-empted bough stay in flight until its grove resumes, which the operation's finish comes before (R339). -/
def State.tileDue (s : State) (x : MatOp) : Bool :=
  s.boughs.any fun e => e.2.grove == groveOf x.bough &&
    (match e.2.status with
      | .stopped _ => false
      | _ => true) &&
    e.2.results.any fun r =>
      match r.dest with
      | .row n => n / 64 == x.tile && !(e.1 == x.bough && decide (x.seq ≤ r.seq)) && (e.2.resumeFrom.isSome || decide (s.bc ≤ r.due))
      | _ => false

/-- The first operation that the fetch stage has yet to serve: to begin (`false`) or to read for (`true`). -/
def fetchTurn (q : List MatOp) : Option (Nat × MatOp × Bool) :=
  (q.zipIdx.find? fun e => e.1.fetched.isNone).map fun e => (e.2, e.1, e.1.fb.isSome)

/-- Whether the fetch stage is free for entry `i`: the operation ahead has begun its array. -/
def fetchFree (q : List MatOp) (i : Nat) : Bool :=
  i == 0 || ((q[i - 1]?).map fun x => x.ab.isSome).getD true

/-- Words of a partition, some as they stood before (R333). -/
def mixCells (old_ : Nat → Bool) : Nat → List Host.Cell → List Host.Cell → List Host.Cell
  | 0, _, _ => []
  | fuel + 1, a :: as, b :: bs =>
    if a.1 ≤ b.1 then
      let rest := mixCells old_ fuel as (if a.1 = b.1 ∧ old_ (a.1 / 4) = true then bs else b :: bs)
      if old_ (a.1 / 4) then a :: rest else rest
    else if old_ (b.1 / 4) then mixCells old_ fuel (a :: as) bs else b :: mixCells old_ fuel (a :: as) bs
  | fuel + 1, a :: as, [] => if old_ (a.1 / 4) then a :: mixCells old_ fuel as [] else mixCells old_ fuel as []
  | fuel + 1, [], b :: bs => if old_ (b.1 / 4) then mixCells old_ fuel [] bs else b :: mixCells old_ fuel [] bs
  | _ + 1, [], [] => []

/-- The partition as a fetch reads it: of a word written since the fetch could first read, one of the two values (R333). -/
def State.fetchView (s : State) (x : MatOp) (g : Grove) : Grove :=
  match x.seen with
  | none => g
  | some old =>
    if old = g.scratch then g
    else { g with scratch := mixCells (Config.gathers s.free) (old.length + g.scratch.length) old g.scratch }

/-- Whether a copy owns a line of the side lists that an operation reads (R147). -/
def State.sidesHeld (s : State) (x : MatOp) (g : Grove) (l : Launch) : Bool :=
  !s.copies.isEmpty && (x.sideRanges l).any fun r => s.rangeOwned g.die l.asid r.1 r.2

/-- The die keeps the translations of the side lists that an operation reads (R127). -/
def State.touchSideLists (s : State) (x : MatOp) (g : Grove) (l : Launch) : State :=
  (x.sideRanges l).foldl (fun t r => if r.2 = 0 then t else t.touchRange g.die l.asid r.1 r.2) s

/-- MATRIX_FETCH_START (R331): an operation's fetch begins; once every scratchpad write of its issue has landed it may see its
operands, and by the end of their term it has read them (R148, R333). -/
def execMatrixFetchStart (core : Nat) (s : State) : Host.Outcome State Fault Refusal :=
  let set (i : Nat) (f : MatOp → MatOp) : State := s.onCore core fun c => c.onMat i f
  match fetchTurn (s.core core).mq with
  | none => .next s
  | some (i, x, false) =>
    if s.bc < x.issued + 1 || !fetchFree (s.core core).mq i then .next s
    else
      .next ((set i fun x => { x with fb := some s.bc }).atTime
        (if x.reads then max s.cc (4 * (x.issued + 3)) else s.cc) (.matrixFetchStart core))
  | some (i, x, true) =>
    match s.opHome x.bough, x.fb with
    | some (g, l), some fb =>
      if x.reads && x.seen.isNone then
        if s.bc < x.issued + 3 then .next s
        else
          .next ((set i fun x => { x with seen := some g.scratch }).atTime (max s.cc (4 * fb + x.fetchBase)) (.matrixFetchStart core))
      else if s.cc < 4 * fb + x.fetchBase || s.sidesHeld x g l then .next s
      else
        let y := s.matFetch x (s.fetchView x g) l
        let y := { y with fetchCc := y.fetchCc + if x.readsLists then Config.delay s.free else 0 }
        let t := (s.touchSideLists x g l).onCore core fun c => c.onMat i fun x => { x with fetched := some y, seen := none }
        .next ({ t with free := s.free + 1 }.atTime (max s.cc (4 * (fb + divUp (y.fetchCc + x.shared) 4))) (.matrixArrayStart core))
    | _, _ => .next (s.onCore core fun c => { c with mq := c.mq.eraseIdx i })

/-- Bough cycle in which an operation's fetch ends (R331). -/
def MatOp.fetchEnd (x : MatOp) : Option Nat :=
  match x.fb, x.fetched with
  | some fb, some y => some (fb + divUp (y.fetchCc + if x.kind == .mtrSp then 0 else x.shared) 4)
  | _, _ => none

/-- The first operation whose array has yet to begin, and whether the array is free for it: the one ahead has ended its
own. -/
def arrayTurn (q : List MatOp) (bc : Nat) : Option (Nat × MatOp × Fetched) :=
  match q.zipIdx.find? fun e => e.1.ab.isNone with
  | none => none
  | some (x, i) =>
    match x.fetched, x.fetchEnd with
    | some y, some fe =>
      let free := i == 0 || ((q[i - 1]?).map fun p => (p.arrayEnd.map fun e => decide (e ≤ bc)).getD false).getD true
      if free && decide (fe ≤ bc) then some (i, x, y) else none
    | _, _ => none

/-- MATRIX_ARRAY_START (R331, R338): the array begins once fetch is done, the array is free and the tile has taken every
result due in it. -/
def execMatrixArrayStart (core : Nat) (s : State) : Host.Outcome State Fault Refusal :=
  match arrayTurn (s.core core).mq s.bc with
  | none => .next s
  | some (i, x, y) =>
    if s.tileDue x then .next s
    else
      let spills := x.kind == .mtrSp && y.faults.isEmpty
      let x' := { x with ab := some s.bc, early := if spills then some s.free else none }
      let t := (s.onCore core fun c => c.onMat i fun _ => x').stamp (groveOf x.bough) x.tag .matrixStart
      let t := match spills, s.opHome x.bough with
        | true, some (g, l) =>
          let cells := spillCells (x.spills (groveAhead (s.core core).mq i l (groveOf x.bough) g))
          { t.onGrove (groveOf x.bough) fun g => g.scratchWrite (cells.filter fun e => x'.landedEarly e.1) with free := s.free + 1 }
        | _, _ => t
      .next (t.atTime (4 * (s.bc + divUp y.arrayCc 4 + 2)) (.matrixCompletion core))

/-- MATRIX_COMPLETION (R330, R331, R335, R340): a refusal at issue + 2, a killed operation that stops, or the head of the queue
at f. -/
def execMatrixCompletion (core : Nat) (s : State) : Host.Outcome State Fault Refusal :=
  match (s.core core).refused.find? fun x => decide (x.issued + 2 ≤ s.bc) with
  | some x => .next ((s.onCore core fun c => { c with refused := c.refused.erase x }).finishRefused x)
  | none =>
    match (s.core core).mq.find? fun x => x.halt.any fun cc => decide (cc ≤ s.cc) with
    | some x => .next (s.onCore core fun c => { c with mq := c.mq.erase x })
    | none =>
    match (s.core core).mq with
    | [] => .next s
    | x :: rest =>
      match x.arrayEnd, x.fetched with
      | some ae, some y =>
        if s.bc < ae + 2 || x.halt.isSome then .next s
        else
          let t := s.onCore core fun c =>
            { c with mq := rest, finished := tput c.finished (4 * groveOf x.bough + x.tile) s.bc }
          .next ((t.stamp (groveOf x.bough) x.tag .matrixEnd).finishMat x y)
      | _, _ => .next s

end Sys2Proof.Machine
end

