-- ==== Sys2Proof/Machine/Vector.lean ====
section
/-!
DEFINITION. The meanings of the vector slot: 07_vector_engine.md, 08_function_unit.md and the retired operations of
16_loading.md. Every meaning takes the trap that R75 and R194 give it, else puts its results in flight.
-/
namespace Sys2Proof.Machine

/-- vnop (R52): nothing, and nothing on the latch path. -/
def execVnop (s : State) : Host.Outcome State Fault Refusal := s.nothing

/-- add (R241). -/
def execAdd (a : VSlot) (s : State) : Host.Outcome State Fault Refusal :=
  laneExec (.add a) (fun _ a => intFn a.ty a.sat fun x y _ => x + y) s

/-- sub (R241). -/
def execSub (a : VSlot) (s : State) : Host.Outcome State Fault Refusal :=
  laneExec (.sub a) (fun _ a => intFn a.ty a.sat fun x y _ => x - y) s

/-- addx (R242): the sum on the latch path, the carry out in its predicate (R259). -/
def execAddx (a : VSlot) (s : State) : Host.Outcome State Fault Refusal :=
  vecExec (.addx a) (fun c v a =>
    let xa := c.srcA (.addx a) v a
    let xb := c.srcB (.addx a) a
    let p := c.b.pred (a.sc.toNat % 8)
    let y : Vector Nat 64 := Vector.ofFn fun l =>
      (xa.get l).toNat % 2 ^ 32 + (xb.get l).toNat % 2 ^ 32 + (if p.getLsbD l.val then 1 else 0)
    c.laneResults (.addx a) v a (y.map fun n => BitVec.ofNat 64 (n % 2 ^ 32)) 0 ++
      [c.predResult (.addx a) v a (a.sc.toNat % 8) .none (maskOf fun l => decide (2 ^ 32 ≤ y.toArray.getD l 0)) 0]) s

/-- mul (R241). -/
def execMul (a : VSlot) (s : State) : Host.Outcome State Fault Refusal :=
  laneExec (.mul a) (fun _ a => intFn a.ty a.sat fun x y _ => x * y) s

/-- mad (R241). -/
def execMad (a : VSlot) (s : State) : Host.Outcome State Fault Refusal :=
  laneExec (.mad a) (fun _ a => intFn a.ty a.sat fun x y z => x * y + z) s

/-- min (R241). -/
def execMin (a : VSlot) (s : State) : Host.Outcome State Fault Refusal :=
  laneExec (.min a) (fun _ a => intFn a.ty false fun x y _ => Min.min x y) s

/-- max (R241). -/
def execMax (a : VSlot) (s : State) : Host.Outcome State Fault Refusal :=
  laneExec (.max a) (fun _ a => intFn a.ty false fun x y _ => Max.max x y) s

/-- abs (R241). -/
def execAbs (a : VSlot) (s : State) : Host.Outcome State Fault Refusal :=
  laneExec (.abs a) (fun _ a => intFn a.ty a.sat fun x _ _ => (x.natAbs : Int)) s

/-- neg (R241). -/
def execNeg (a : VSlot) (s : State) : Host.Outcome State Fault Refusal :=
  laneExec (.neg a) (fun _ a => intFn a.ty a.sat fun x _ _ => -x) s

/-- absd (R241), written as the unsigned type of the same width. -/
def execAbsd (a : VSlot) (s : State) : Host.Outcome State Fault Refusal :=
  laneExec (.absd a) (fun _ a => absdFn a.ty a.sat) s

/-- avg (R241). -/
def execAvg (a : VSlot) (s : State) : Host.Outcome State Fault Refusal :=
  laneExec (.avg a) (fun _ a => intFn a.ty false fun x y _ => (x + y + 1) / 2) s

/-- dot4 (R243). -/
def execDot4 (a : VSlot) (s : State) : Host.Outcome State Fault Refusal :=
  laneExec (.dot4 a) (fun _ a => dot4Fn a.ty a.sat) s

/-- and (R244). -/
def execAnd (a : VSlot) (s : State) : Host.Outcome State Fault Refusal :=
  laneExec (.and a) (fun _ a => bitFn a.ty fun x y => x &&& y) s

/-- or (R244). -/
def execOr (a : VSlot) (s : State) : Host.Outcome State Fault Refusal :=
  laneExec (.or a) (fun _ a => bitFn a.ty fun x y => x ||| y) s

/-- xor (R244). -/
def execXor (a : VSlot) (s : State) : Host.Outcome State Fault Refusal :=
  laneExec (.xor a) (fun _ a => bitFn a.ty fun x y => x ^^^ y) s

/-- andn: A and not B (R244). -/
def execAndn (a : VSlot) (s : State) : Host.Outcome State Fault Refusal :=
  laneExec (.andn a) (fun _ a => bitFn a.ty fun x y => x &&& ~~~y) s

/-- not (R244). -/
def execNot (a : VSlot) (s : State) : Host.Outcome State Fault Refusal :=
  laneExec (.not a) (fun _ a => bitFn a.ty fun x _ => ~~~x) s

/-- shl (R245). -/
def execShl (a : VSlot) (s : State) : Host.Outcome State Fault Refusal :=
  laneExec (.shl a) (fun _ a => shlFn a.ty a.sat) s

/-- shr (R245). -/
def execShr (a : VSlot) (s : State) : Host.Outcome State Fault Refusal :=
  laneExec (.shr a) (fun _ a => shrFn a.ty) s

/-- sar (R245). -/
def execSar (a : VSlot) (s : State) : Host.Outcome State Fault Refusal :=
  laneExec (.sar a) (fun _ a => sarFn a.ty) s

/-- rol (R245). -/
def execRol (a : VSlot) (s : State) : Host.Outcome State Fault Refusal :=
  laneExec (.rol a) (fun _ a => rolFn a.ty) s

/-- popc (R246). -/
def execPopc (a : VSlot) (s : State) : Host.Outcome State Fault Refusal :=
  laneExec (.popc a) (fun _ a => countFn a.ty popBits) s

/-- clz (R246). -/
def execClz (a : VSlot) (s : State) : Host.Outcome State Fault Refusal :=
  laneExec (.clz a) (fun _ a => countFn a.ty leadZeros) s

/-- brev (R246). -/
def execBrev (a : VSlot) (s : State) : Host.Outcome State Fault Refusal :=
  laneExec (.brev a) (fun _ a => countFn a.ty revBits) s

/-- bfe (R247). -/
def execBfe (a : VSlot) (s : State) : Host.Outcome State Fault Refusal :=
  laneExec (.bfe a) (fun _ a => bfeFn a.ty) s

/-- bfi (R247). -/
def execBfi (a : VSlot) (s : State) : Host.Outcome State Fault Refusal :=
  laneExec (.bfi a) (fun _ a => bfiFn a.ty) s

/-- li (R248): {VX, IMM9} beside `ximm`, else sext(IMM9, 32). -/
def execLi (a : VSlot) (s : State) : Host.Outcome State Fault Refusal :=
  laneExec (.li a) (fun c a => fun _ _ _ => (((if c.hasXimm then c.vx ++ a.imm9 else a.imm9.signExtend 32).setWidth 64 : DWord), 0)) s

/-- fadd (R249). -/
def execFadd (a : VSlot) (s : State) : Host.Outcome State Fault Refusal :=
  laneExec (.fadd a) (fun _ a => floatFn a.ty (rmMode a.rm) a.sat (faddVal (rmMode a.rm))) s

/-- fsub (R249). -/
def execFsub (a : VSlot) (s : State) : Host.Outcome State Fault Refusal :=
  laneExec (.fsub a) (fun _ a => floatFn a.ty (rmMode a.rm) a.sat (fsubVal (rmMode a.rm))) s

/-- fmul (R249). -/
def execFmul (a : VSlot) (s : State) : Host.Outcome State Fault Refusal :=
  laneExec (.fmul a) (fun _ a => floatFn a.ty (rmMode a.rm) a.sat (fmulVal (rmMode a.rm))) s

/-- fma (R249). -/
def execFma (a : VSlot) (s : State) : Host.Outcome State Fault Refusal :=
  laneExec (.fma a) (fun _ a => floatFn a.ty (rmMode a.rm) a.sat (fmaVal (rmMode a.rm))) s

/-- fms (R249). -/
def execFms (a : VSlot) (s : State) : Host.Outcome State Fault Refusal :=
  laneExec (.fms a) (fun _ a => floatFn a.ty (rmMode a.rm) a.sat (fmsVal (rmMode a.rm))) s

/-- fnma (R249). -/
def execFnma (a : VSlot) (s : State) : Host.Outcome State Fault Refusal :=
  laneExec (.fnma a) (fun _ a => floatFn a.ty (rmMode a.rm) a.sat (fnmaVal (rmMode a.rm))) s

/-- fmin (R250). -/
def execFmin (a : VSlot) (s : State) : Host.Outcome State Fault Refusal :=
  laneExec (.fmin a) (fun _ a => fminmaxFn a.ty false) s

/-- fmax (R250). -/
def execFmax (a : VSlot) (s : State) : Host.Outcome State Fault Refusal :=
  laneExec (.fmax a) (fun _ a => fminmaxFn a.ty true) s

/-- fabs (R251). -/
def execFabs (a : VSlot) (s : State) : Host.Outcome State Fault Refusal :=
  laneExec (.fabs a) (fun _ a => fabsFn a.ty) s

/-- fneg (R251). -/
def execFneg (a : VSlot) (s : State) : Host.Outcome State Fault Refusal :=
  laneExec (.fneg a) (fun _ a => fnegFn a.ty) s

/-- frnd (R252). -/
def execFrnd (a : VSlot) (s : State) : Host.Outcome State Fault Refusal :=
  laneExec (.frnd a) (fun _ a => frndFn a.ty (rmMode a.rm)) s

/-- fclass (R253). -/
def execFclass (a : VSlot) (s : State) : Host.Outcome State Fault Refusal :=
  laneExec (.fclass a) (fun _ a => fclassFn a.ty) s

/-- fscl (R254). -/
def execFscl (a : VSlot) (s : State) : Host.Outcome State Fault Refusal :=
  laneExec (.fscl a) (fun _ a => fsclFn a.ty (rmMode a.rm) a.sat) s

/-- fdot2 (R255). -/
def execFdot2 (a : VSlot) (s : State) : Host.Outcome State Fault Refusal :=
  laneExec (.fdot2 a) (fun _ a => fdot2Fn a.ty (rmMode a.rm) a.sat) s

/-- cmp (R256): a predicate, and 1 or 0 on the latch path (R259). -/
def execCmp (a : VSlot) (s : State) : Host.Outcome State Fault Refusal :=
  vecExec (.cmp a) (fun c v a =>
    let xa := c.srcA (.cmp a) v a
    let xb := c.srcB (.cmp a) a
    [c.predResult (.cmp a) v a (a.dst.toNat % 8) v.path
      (maskOf fun l => cmpCode a.ty (a.imm9.toNat % 8) (laneOf xa l).toNat (laneOf xb l).toNat) 0]) s

/-- fcmp (R256). -/
def execFcmp (a : VSlot) (s : State) : Host.Outcome State Fault Refusal :=
  vecExec (.fcmp a) (fun c v a =>
    let xa := c.srcA (.fcmp a) v a
    let xb := c.srcB (.fcmp a) a
    let r (l : Nat) := fcmpCode (a.imm9.toNat % 8) ((laneOf xa l).toNat % 2 ^ 32) ((laneOf xb l).toNat % 2 ^ 32)
    [c.predResult (.fcmp a) v a (a.dst.toNat % 8) v.path (maskOf fun l => (r l).1)
      (orFlags ((lanesOf (c.actLanes a.pr)).map fun l => (r l).2))]) s

/-- sel (R257). -/
def execSel (a : VSlot) (s : State) : Host.Outcome State Fault Refusal :=
  vecExec (.sel a) (fun c v a =>
    let xa := c.srcA (.sel a) v a
    let xb := c.srcB (.sel a) a
    let p := c.b.pred (a.sc.toNat % 8)
    c.laneResults (.sel a) v a (Vector.ofFn fun l => if p.getLsbD l.val then xa.get l else xb.get l) 0) s

/-- pand (R258). -/
def execPand (a : VSlot) (s : State) : Host.Outcome State Fault Refusal :=
  vecExec (.pand a) (fun c v a =>
    let x := c.b.pred (a.sa.toNat % 8)
    let y := c.b.pred (a.sb.toNat % 8)
    [c.predResult (.pand a) v a (a.dst.toNat % 8) v.path (x &&& y) 0]) s

/-- por (R258). -/
def execPor (a : VSlot) (s : State) : Host.Outcome State Fault Refusal :=
  vecExec (.por a) (fun c v a =>
    let x := c.b.pred (a.sa.toNat % 8)
    let y := c.b.pred (a.sb.toNat % 8)
    [c.predResult (.por a) v a (a.dst.toNat % 8) v.path (x ||| y) 0]) s

/-- pxor (R258). -/
def execPxor (a : VSlot) (s : State) : Host.Outcome State Fault Refusal :=
  vecExec (.pxor a) (fun c v a =>
    let x := c.b.pred (a.sa.toNat % 8)
    let y := c.b.pred (a.sb.toNat % 8)
    [c.predResult (.pxor a) v a (a.dst.toNat % 8) v.path (x ^^^ y) 0]) s

/-- pnot (R258). -/
def execPnot (a : VSlot) (s : State) : Host.Outcome State Fault Refusal :=
  vecExec (.pnot a) (fun c v a =>
    [c.predResult (.pnot a) v a (a.dst.toNat % 8) v.path (~~~c.b.pred (a.sa.toNat % 8)) 0]) s

/-- pmov (R258). -/
def execPmov (a : VSlot) (s : State) : Host.Outcome State Fault Refusal :=
  vecExec (.pmov a) (fun c v a =>
    [c.predResult (.pmov a) v a (a.dst.toNat % 8) v.path (c.b.pred (a.sa.toNat % 8)) 0]) s

/-- The lanes that ballot and pcnt read: those in which the operation acts and p(A) is true (R260, R277). -/
def Ctx.ballotMask (c : Ctx) (a : VSlot) : Mask := c.actLanes a.pr &&& c.b.pred (a.sa.toNat % 8)

/-- The mask as a lane receives it: whole, or its span's part (R260). -/
def Ctx.ballotLane (c : Ctx) (a : VSlot) (l : Nat) : DWord :=
  if a.imm9.getLsbD 8 then spanBits (c.ballotMask a) c.width l else c.ballotMask a

/-- ballot (R260). -/
def execBallot (a : VSlot) (s : State) : Host.Outcome State Fault Refusal :=
  vecExec (.ballot a) (fun c v a =>
    if a.u then c.uniResults (.ballot a) v a (c.ballotMask a) 0
    else c.laneResults (.ballot a) v a (Vector.ofFn fun l => c.ballotLane a l.val) 0) s

/-- pcnt (R261). -/
def execPcnt (a : VSlot) (s : State) : Host.Outcome State Fault Refusal :=
  vecExec (.pcnt a) (fun c v a =>
    if a.u then c.uniResults (.pcnt a) v a (BitVec.ofNat 64 (maskCount (c.ballotMask a))) 0
    else c.laneResults (.pcnt a) v a (Vector.ofFn fun l => BitVec.ofNat 64 (maskCount (c.ballotLane a l.val))) 0) s

/-- A permuting form (R262, R264). -/
def permExec (i : Instr) (p : Perm) (s : State) : Host.Outcome State Fault Refusal :=
  vecExec i (fun c v a =>
    c.laneResults i v a (permForm p (a.imm9.getLsbD 8) c.width (a.imm9.toNat % 64) (c.read a.ty a.imm9 a.sa)
      (c.srcB i a) (c.readFill a.ty a.imm9 a.sc)) 0) s

/-- xshf (R264). -/
def execXshf (a : VSlot) (s : State) : Host.Outcome State Fault Refusal :=
  permExec (.xshf a) .xshf s

/-- xswp (R264). -/
def execXswp (a : VSlot) (s : State) : Host.Outcome State Fault Refusal :=
  permExec (.xswp a) .xswp s

/-- xrot (R264). -/
def execXrot (a : VSlot) (s : State) : Host.Outcome State Fault Refusal :=
  permExec (.xrot a) .xrot s

/-- xbc (R264). -/
def execXbc (a : VSlot) (s : State) : Host.Outcome State Fault Refusal :=
  permExec (.xbc a) .xbc s

/-- xred (R265). -/
def execXred (a : VSlot) (s : State) : Host.Outcome State Fault Refusal :=
  vecExec (.xred a) (fun c v a =>
    let r := xredForm (.ofCode (a.imm9.toNat % 8)) a.ty (rmMode a.rm) a.sat (a.imm9.getLsbD 8) c.width (c.actLanes a.pr)
      (c.read a.ty a.imm9 a.sa)
    c.laneResults (.xred a) v a r.1 r.2) s

/-- xscan and xseg (R266, R268). -/
def scanExec (i : Instr) (excl seg : Bool) (s : State) : Host.Outcome State Fault Refusal :=
  vecExec i (fun c v a =>
    let op := RedOp.ofCode (a.imm9.toNat % 8)
    let r := scanForm (combine op a.ty (rmMode a.rm) a.sat) (identityOf op a.ty) excl seg (a.imm9.getLsbD 8) c.width
      (c.actLanes a.pr) (c.read a.ty a.imm9 a.sa) (c.srcB i a)
    c.laneResults i v a r.1 r.2) s

/-- xscan (R266). -/
def execXscan (a : VSlot) (s : State) : Host.Outcome State Fault Refusal :=
  scanExec (.xscan a) (a.imm9.getLsbD 3) false s

/-- xcmpk (R267). -/
def execXcmpk (a : VSlot) (s : State) : Host.Outcome State Fault Refusal :=
  vecExec (.xcmpk a) (fun c v a =>
    c.laneResults (.xcmpk a) v a (xcmpkForm (a.imm9.getLsbD 8) c.width (c.actLanes a.pr) (c.b.pred (a.sb.toNat % 8))
      (c.read a.ty a.imm9 a.sa) (c.readFill a.ty a.imm9 a.sc)) 0) s

/-- xseg (R268). -/
def execXseg (a : VSlot) (s : State) : Host.Outcome State Fault Refusal :=
  scanExec (.xseg a) false true s

/-- mov (R271). -/
def execMov (a : VSlot) (s : State) : Host.Outcome State Fault Refusal :=
  laneExec (.mov a) (fun _ _ => fun x _ _ => (x, 0)) s

/-- extr (R272). -/
def execExtr (a : VSlot) (s : State) : Host.Outcome State Fault Refusal :=
  laneExec (.extr a) (fun _ a => extrFn a.ty (a.imm9.toNat % 8)) s

/-- ins (R272). -/
def execIns (a : VSlot) (s : State) : Host.Outcome State Fault Refusal :=
  laneExec (.ins a) (fun _ a => insFn a.ty (a.imm9.toNat % 8)) s

/-- cvt (R273). -/
def execCvt (a : VSlot) (s : State) : Host.Outcome State Fault Refusal :=
  laneExec (.cvt a) (fun _ a => cvtFn a.ty (convSrc a) (a.imm9.toNat / 16 % 8) (rmMode a.rm) a.sat) s

/-- pack (R274). -/
def execPack (a : VSlot) (s : State) : Host.Outcome State Fault Refusal :=
  laneExec (.pack a) (fun _ a => packFn a.ty (convSrc a) (a.imm9.toNat / 16 % 4) (rmMode a.rm) a.sat) s

/-- unpk (R275). -/
def execUnpk (a : VSlot) (s : State) : Host.Outcome State Fault Refusal :=
  laneExec (.unpk a) (fun _ a => unpkFn a.ty (a.imm9.toNat % 2)) s

/-- kget (R276): the flag as it stands at issue; E set traps before issue (R41). -/
def execKget (a : VSlot) (s : State) : Host.Outcome State Fault Refusal :=
  s.guarded (.kget a) fun c =>
    match vinfo (.kget a) with
    | none => s
    | some (v, a) =>
      let x : DWord := (c.g.flag a.sa.toNat).word.setWidth 64
      let rs := if a.u then c.uniResults (.kget a) v a x 0 else c.laneResults (.kget a) v a (bcast x) 0
      (s.issueVec c (.kget a) rs).logAfter c.key 0x0C 0 (packFields [(x.toNat, 0, 64), (c.b.pc.toNat, 64, 64)])

/-- mulhi (R284). -/
def execMulhi (a : VSlot) (s : State) : Host.Outcome State Fault Refusal :=
  laneExec (.mulhi a) (fun _ a => mulhiFn a.ty) s

/-- mulw (R285). -/
def execMulw (a : VSlot) (s : State) : Host.Outcome State Fault Refusal :=
  laneExec (.mulw a) (fun _ a => mulwFn a.ty) s

/-- div (R286). -/
def execDiv (a : VSlot) (s : State) : Host.Outcome State Fault Refusal :=
  laneExec (.div a) (fun _ a => divFn a.ty a.sat false) s

/-- rem (R286). -/
def execRem (a : VSlot) (s : State) : Host.Outcome State Fault Refusal :=
  laneExec (.rem a) (fun _ a => divFn a.ty false true) s

/-- rcp (R287, R288). -/
def execRcp (a : VSlot) (s : State) : Host.Outcome State Fault Refusal :=
  laneExec (.rcp a) (fun _ a => fun1Fn .rcp a.ty (rmMode a.rm) a.sat) s

/-- rsq (R287, R288). -/
def execRsq (a : VSlot) (s : State) : Host.Outcome State Fault Refusal :=
  laneExec (.rsq a) (fun _ a => fun1Fn .rsq a.ty (rmMode a.rm) a.sat) s

/-- sqrt (R287, R288). -/
def execSqrt (a : VSlot) (s : State) : Host.Outcome State Fault Refusal :=
  laneExec (.sqrt a) (fun _ a => fun1Fn .sqrt a.ty (rmMode a.rm) a.sat) s

/-- exp2 (R287, R288). -/
def execExp2 (a : VSlot) (s : State) : Host.Outcome State Fault Refusal :=
  laneExec (.exp2 a) (fun _ a => fun1Fn .exp2 a.ty (rmMode a.rm) a.sat) s

/-- log2 (R287, R288). -/
def execLog2 (a : VSlot) (s : State) : Host.Outcome State Fault Refusal :=
  laneExec (.log2 a) (fun _ a => fun1Fn .log2 a.ty (rmMode a.rm) a.sat) s

/-- sin (R287, R288). -/
def execSin (a : VSlot) (s : State) : Host.Outcome State Fault Refusal :=
  laneExec (.sin a) (fun _ a => fun1Fn .sin a.ty (rmMode a.rm) a.sat) s

/-- cos (R287, R288). -/
def execCos (a : VSlot) (s : State) : Host.Outcome State Fault Refusal :=
  laneExec (.cos a) (fun _ a => fun1Fn .cos a.ty (rmMode a.rm) a.sat) s

/-- sincos (R289). -/
def execSincos (a : VSlot) (s : State) : Host.Outcome State Fault Refusal :=
  laneExec (.sincos a) (fun _ a => sincosFn (rmMode a.rm) a.sat) s

/-- ppev (R290): the table as it stands at issue (R231). -/
def execPpev (a : VSlot) (s : State) : Host.Outcome State Fault Refusal :=
  laneExec (.ppev a) (fun c a => ppevFn (c.g.tables.toArray.getD (a.imm9.toNat % 4) [])) s

/-- The draw of a lane (R116, R292): draw(iid, lid, pc, sub). -/
def Ctx.laneDraw (c : Ctx) (l sub : Nat) : BitVec 64 :=
  drawOf c.l.seed (c.b.iid.toArray.getD (l / c.width) 0) l c.b.pc sub

/-- qnt (R292 to R294). -/
def execQnt (a : VSlot) (s : State) : Host.Outcome State Fault Refusal :=
  vecExec (.qnt a) (fun c v a =>
    let r := qntForm (c.qslot a) (fun l => c.laneDraw l 0) (c.actLanes a.pr) (c.srcA (.qnt a) v a) (c.srcB (.qnt a) a)
    c.laneResults (.qnt a) v a r.1 r.2) s

/-- dqt (R295). -/
def execDqt (a : VSlot) (s : State) : Host.Outcome State Fault Refusal :=
  vecExec (.dqt a) (fun c v a =>
    let r := dqtForm (c.qslot a) (a.imm9.toNat / 8 % 8 + 1) (rmMode a.rm) a.sat (c.actLanes a.pr) (c.srcA (.dqt a) v a)
      (c.srcB (.dqt a) a)
    c.laneResults (.dqt a) v a r.1 r.2) s

/-- rng (R296): z[63:32] under .u32, z under .d; one draw of lane value 64 in the uniform form. -/
def execRng (a : VSlot) (s : State) : Host.Outcome State Fault Refusal :=
  vecExec (.rng a) (fun c v a =>
    if a.u then
      c.uniResults (.rng a) v a (drawOf c.l.seed 0 64 c.b.pc ((c.readUni a.ty a.imm9 a.sa).toNat % 2 ^ 24)) 0
    else
      let xa := c.srcA (.rng a) v a
      c.laneResults (.rng a) v a (Vector.ofFn fun l =>
        let z := c.laneDraw l.val ((xa.get l).toNat % 2 ^ 24)
        if a.ty = .d then z else z >>> 32) 0) s

/-- sad of S1 and S2 (Table 16.5), through the compatibility unit. -/
def execSad (a : VSlot) (s : State) : Host.Outcome State Fault Refusal :=
  laneExec (.sad a) (fun _ _ => sadFn) s

/-- mulq of S1 and S2 (Table 16.5). -/
def execMulq (a : VSlot) (s : State) : Host.Outcome State Fault Refusal :=
  laneExec (.mulq a) (fun _ _ => mulqFn) s

/-- fexp of S1 (Table 16.5). -/
def execFexp (a : VSlot) (s : State) : Host.Outcome State Fault Refusal :=
  laneExec (.fexp a) (fun _ a => fun1Fn .fexp a.ty (rmMode a.rm) a.sat) s

/-- crc of S2 (Table 16.5). -/
def execCrc (a : VSlot) (s : State) : Host.Outcome State Fault Refusal :=
  laneExec (.crc a) (fun _ _ => crcFn) s

end Sys2Proof.Machine
end

