-- ==== Sys2Proof/Machine/Dispatch.lean ====
section
/-! DEFINITION. The dispatch: every instruction to its meaning. -/
namespace Sys2Proof.Machine

def exec (i : Instr) (s : State) : Host.Outcome State Fault Refusal :=
  match i with
  | .vnop => Sys2Proof.Machine.execVnop s
  | .add a => Sys2Proof.Machine.execAdd a s
  | .sub a => Sys2Proof.Machine.execSub a s
  | .addx a => Sys2Proof.Machine.execAddx a s
  | .mul a => Sys2Proof.Machine.execMul a s
  | .mad a => Sys2Proof.Machine.execMad a s
  | .min a => Sys2Proof.Machine.execMin a s
  | .max a => Sys2Proof.Machine.execMax a s
  | .abs a => Sys2Proof.Machine.execAbs a s
  | .neg a => Sys2Proof.Machine.execNeg a s
  | .absd a => Sys2Proof.Machine.execAbsd a s
  | .avg a => Sys2Proof.Machine.execAvg a s
  | .dot4 a => Sys2Proof.Machine.execDot4 a s
  | .and a => Sys2Proof.Machine.execAnd a s
  | .or a => Sys2Proof.Machine.execOr a s
  | .xor a => Sys2Proof.Machine.execXor a s
  | .andn a => Sys2Proof.Machine.execAndn a s
  | .not a => Sys2Proof.Machine.execNot a s
  | .shl a => Sys2Proof.Machine.execShl a s
  | .shr a => Sys2Proof.Machine.execShr a s
  | .sar a => Sys2Proof.Machine.execSar a s
  | .rol a => Sys2Proof.Machine.execRol a s
  | .popc a => Sys2Proof.Machine.execPopc a s
  | .clz a => Sys2Proof.Machine.execClz a s
  | .brev a => Sys2Proof.Machine.execBrev a s
  | .bfe a => Sys2Proof.Machine.execBfe a s
  | .bfi a => Sys2Proof.Machine.execBfi a s
  | .li a => Sys2Proof.Machine.execLi a s
  | .fadd a => Sys2Proof.Machine.execFadd a s
  | .fsub a => Sys2Proof.Machine.execFsub a s
  | .fmul a => Sys2Proof.Machine.execFmul a s
  | .fma a => Sys2Proof.Machine.execFma a s
  | .fms a => Sys2Proof.Machine.execFms a s
  | .fnma a => Sys2Proof.Machine.execFnma a s
  | .fmin a => Sys2Proof.Machine.execFmin a s
  | .fmax a => Sys2Proof.Machine.execFmax a s
  | .fabs a => Sys2Proof.Machine.execFabs a s
  | .fneg a => Sys2Proof.Machine.execFneg a s
  | .frnd a => Sys2Proof.Machine.execFrnd a s
  | .fclass a => Sys2Proof.Machine.execFclass a s
  | .fscl a => Sys2Proof.Machine.execFscl a s
  | .fdot2 a => Sys2Proof.Machine.execFdot2 a s
  | .cmp a => Sys2Proof.Machine.execCmp a s
  | .fcmp a => Sys2Proof.Machine.execFcmp a s
  | .sel a => Sys2Proof.Machine.execSel a s
  | .pand a => Sys2Proof.Machine.execPand a s
  | .por a => Sys2Proof.Machine.execPor a s
  | .pxor a => Sys2Proof.Machine.execPxor a s
  | .pnot a => Sys2Proof.Machine.execPnot a s
  | .pmov a => Sys2Proof.Machine.execPmov a s
  | .ballot a => Sys2Proof.Machine.execBallot a s
  | .pcnt a => Sys2Proof.Machine.execPcnt a s
  | .xshf a => Sys2Proof.Machine.execXshf a s
  | .xswp a => Sys2Proof.Machine.execXswp a s
  | .xrot a => Sys2Proof.Machine.execXrot a s
  | .xbc a => Sys2Proof.Machine.execXbc a s
  | .xred a => Sys2Proof.Machine.execXred a s
  | .xscan a => Sys2Proof.Machine.execXscan a s
  | .xcmpk a => Sys2Proof.Machine.execXcmpk a s
  | .xseg a => Sys2Proof.Machine.execXseg a s
  | .mov a => Sys2Proof.Machine.execMov a s
  | .extr a => Sys2Proof.Machine.execExtr a s
  | .ins a => Sys2Proof.Machine.execIns a s
  | .cvt a => Sys2Proof.Machine.execCvt a s
  | .pack a => Sys2Proof.Machine.execPack a s
  | .unpk a => Sys2Proof.Machine.execUnpk a s
  | .kget a => Sys2Proof.Machine.execKget a s
  | .mulhi a => Sys2Proof.Machine.execMulhi a s
  | .mulw a => Sys2Proof.Machine.execMulw a s
  | .div a => Sys2Proof.Machine.execDiv a s
  | .rem a => Sys2Proof.Machine.execRem a s
  | .rcp a => Sys2Proof.Machine.execRcp a s
  | .rsq a => Sys2Proof.Machine.execRsq a s
  | .sqrt a => Sys2Proof.Machine.execSqrt a s
  | .exp2 a => Sys2Proof.Machine.execExp2 a s
  | .log2 a => Sys2Proof.Machine.execLog2 a s
  | .sin a => Sys2Proof.Machine.execSin a s
  | .cos a => Sys2Proof.Machine.execCos a s
  | .sincos a => Sys2Proof.Machine.execSincos a s
  | .ppev a => Sys2Proof.Machine.execPpev a s
  | .qnt a => Sys2Proof.Machine.execQnt a s
  | .dqt a => Sys2Proof.Machine.execDqt a s
  | .rng a => Sys2Proof.Machine.execRng a s
  | .sad a => Sys2Proof.Machine.execSad a s
  | .mulq a => Sys2Proof.Machine.execMulq a s
  | .fexp a => Sys2Proof.Machine.execFexp a s
  | .crc a => Sys2Proof.Machine.execCrc a s
  | .mnop => Sys2Proof.Machine.execMnop s
  | .lds a => Sys2Proof.Machine.execLds a s
  | .sts a => Sys2Proof.Machine.execSts a s
  | .ldsu a => Sys2Proof.Machine.execLdsu a s
  | .ldr a => Sys2Proof.Machine.execLdr a s
  | .ldg a => Sys2Proof.Machine.execLdg a s
  | .stg a => Sys2Proof.Machine.execStg a s
  | .ldgu a => Sys2Proof.Machine.execLdgu a s
  | .lda a => Sys2Proof.Machine.execLda a s
  | .sta a => Sys2Proof.Machine.execSta a s
  | .atoms a => Sys2Proof.Machine.execAtoms a s
  | .atomg a => Sys2Proof.Machine.execAtomg a s
  | .red a => Sys2Proof.Machine.execRed a s
  | .settle a => Sys2Proof.Machine.execSettle a s
  | .fenceAcq a => Sys2Proof.Machine.execFenceAcq a s
  | .fenceRel a => Sys2Proof.Machine.execFenceRel a s
  | .fenceFull a => Sys2Proof.Machine.execFenceFull a s
  | .bpub a => Sys2Proof.Machine.execBpub a s
  | .bld a => Sys2Proof.Machine.execBld a s
  | .bseq a => Sys2Proof.Machine.execBseq a s
  | .pref a => Sys2Proof.Machine.execPref a s
  | .l1inv a => Sys2Proof.Machine.execL1inv a s
  | .ppld a => Sys2Proof.Machine.execPpld a s
  | .ppsv a => Sys2Proof.Machine.execPpsv a s
  | .enop => Sys2Proof.Machine.execEnop s
  | .cpy a => Sys2Proof.Machine.execCpy a s
  | .cpyr a => Sys2Proof.Machine.execCpyr a s
  | .cpym a => Sys2Proof.Machine.execCpym a s
  | .cpyg a => Sys2Proof.Machine.execCpyg a s
  | .cpys a => Sys2Proof.Machine.execCpys a s
  | .cpyf a => Sys2Proof.Machine.execCpyf a s
  | .cpyc a => Sys2Proof.Machine.execCpyc a s
  | .cpyx a => Sys2Proof.Machine.execCpyx a s
  | .tstamp a => Sys2Proof.Machine.execTstamp a s
  | .mma a => Sys2Proof.Machine.execMma a s
  | .mmag a => Sys2Proof.Machine.execMmag a s
  | .mmas a => Sys2Proof.Machine.execMmas a s
  | .mmags a => Sys2Proof.Machine.execMmags a s
  | .mmap a => Sys2Proof.Machine.execMmap a s
  | .mzero a => Sys2Proof.Machine.execMzero a s
  | .mtr a => Sys2Proof.Machine.execMtr a s
  | .mtrSp a => Sys2Proof.Machine.execMtrSp a s
  | .mscl a => Sys2Proof.Machine.execMscl a s
  | .nop => Sys2Proof.Machine.execNop s
  | .br a => Sys2Proof.Machine.execBr a s
  | .brc a => Sys2Proof.Machine.execBrc a s
  | .bri a => Sys2Proof.Machine.execBri a s
  | .call a => Sys2Proof.Machine.execCall a s
  | .calli a => Sys2Proof.Machine.execCalli a s
  | .callv a => Sys2Proof.Machine.execCallv a s
  | .ret a => Sys2Proof.Machine.execRet a s
  | .loop a => Sys2Proof.Machine.execLoop a s
  | .astep a => Sys2Proof.Machine.execAstep a s
  | .brk a => Sys2Proof.Machine.execBrk a s
  | .wait a => Sys2Proof.Machine.execWait a s
  | .waitany a => Sys2Proof.Machine.execWaitany a s
  | .post a => Sys2Proof.Machine.execPost a s
  | .postr a => Sys2Proof.Machine.execPostr a s
  | .kset a => Sys2Proof.Machine.execKset a s
  | .bar a => Sys2Proof.Machine.execBar a s
  | .arrive a => Sys2Proof.Machine.execArrive a s
  | .await a => Sys2Proof.Machine.execAwait a s
  | .yield a => Sys2Proof.Machine.execYield a s
  | .refill a => Sys2Proof.Machine.execRefill a s
  | .defer a => Sys2Proof.Machine.execDefer a s
  | .exit a => Sys2Proof.Machine.execExit a s
  | .halt a => Sys2Proof.Machine.execHalt a s
  | .trap a => Sys2Proof.Machine.execTrap a s
  | .rett a => Sys2Proof.Machine.execRett a s
  | .ximm a => Sys2Proof.Machine.execXimm a s
  | .csrr a => Sys2Proof.Machine.execCsrr a s
  | .csrw a => Sys2Proof.Machine.execCsrw a s
  | .icinv a => Sys2Proof.Machine.execIcinv a s
  | .launch a => Sys2Proof.Machine.execLaunch a s
  | .bbar a => Sys2Proof.Machine.execBbar a s
  | .prio a => Sys2Proof.Machine.execPrio a s
  | .resultWriteback b => Sys2Proof.Machine.execResultWriteback b s
  | .phaseGrant core phase => Sys2Proof.Machine.execPhaseGrant core phase s
  | .priorityAging b => Sys2Proof.Machine.execPriorityAging b s
  | .watchdog b => Sys2Proof.Machine.execWatchdog b s
  | .compatAccept die => Sys2Proof.Machine.execCompatAccept die s
  | .tstampCompletion c => Sys2Proof.Machine.execTstampCompletion c s
  | .drainTimeout m => Sys2Proof.Machine.execDrainTimeout m s
  | .logClockWrap die => Sys2Proof.Machine.execLogClockWrap die s
  | .traceRecordWrite die => Sys2Proof.Machine.execTraceRecordWrite die s
  | .firmwareVerify m => Sys2Proof.Machine.execFirmwareVerify m s
  | .powerStateChange m => Sys2Proof.Machine.execPowerStateChange m s
  | .tinvDone m => Sys2Proof.Machine.execTinvDone m s
  | .globalLoadCompletion op => Sys2Proof.Machine.execGlobalLoadCompletion op s
  | .storeCompletion op => Sys2Proof.Machine.execStoreCompletion op s
  | .atomgCompletion op => Sys2Proof.Machine.execAtomgCompletion op s
  | .redCompletion op => Sys2Proof.Machine.execRedCompletion op s
  | .settleCompletion op => Sys2Proof.Machine.execSettleCompletion op s
  | .fenceCompletion op => Sys2Proof.Machine.execFenceCompletion op s
  | .bldCompletion op => Sys2Proof.Machine.execBldCompletion op s
  | .bseqCompletion op => Sys2Proof.Machine.execBseqCompletion op s
  | .prefCompletion op => Sys2Proof.Machine.execPrefCompletion op s
  | .copyCompletion c => Sys2Proof.Machine.execCopyCompletion c s
  | .copyStart c => Sys2Proof.Machine.execCopyStart c s
  | .cpyxCompletion c => Sys2Proof.Machine.execCpyxCompletion c s
  | .matrixFetchStart core => Sys2Proof.Machine.execMatrixFetchStart core s
  | .matrixArrayStart core => Sys2Proof.Machine.execMatrixArrayStart core s
  | .matrixCompletion core => Sys2Proof.Machine.execMatrixCompletion core s
  | .icinvCompletion op => Sys2Proof.Machine.execIcinvCompletion op s
  | .launchAcceptance msg lid => Sys2Proof.Machine.execLaunchAcceptance msg lid s
  | .postrArrival msg => Sys2Proof.Machine.execPostrArrival msg s
  | .homeAccess op lane err => Sys2Proof.Machine.execHomeAccess op lane err s
  | .replicaApply die w => Sys2Proof.Machine.execReplicaApply die w s
  | .channelWordArrival msg => Sys2Proof.Machine.execChannelWordArrival msg s
  | .channelCreditReturn msg => Sys2Proof.Machine.execChannelCreditReturn msg s
  | .itemBlockGrant grove => Sys2Proof.Machine.execItemBlockGrant grove s
  | .lqdoorSubmit m value => Sys2Proof.Machine.execLqdoorSubmit m value s
  | .predecessorRecheck m queue => Sys2Proof.Machine.execPredecessorRecheck m queue s
  | .launchPlacement m => Sys2Proof.Machine.execLaunchPlacement m s
  | .grovePlacement m launch => Sys2Proof.Machine.execGrovePlacement m launch s
  | .launchCompletion launch => Sys2Proof.Machine.execLaunchCompletion launch s
  | .preemptLaunch m value => Sys2Proof.Machine.execPreemptLaunch m value s
  | .preemptGrove m value => Sys2Proof.Machine.execPreemptGrove m value s
  | .groveImageSave grove => Sys2Proof.Machine.execGroveImageSave grove s
  | .kill m value => Sys2Proof.Machine.execKill m value s
  | .killQuiesce launch => Sys2Proof.Machine.execKillQuiesce launch s
  | .flitReceive link damage => Sys2Proof.Machine.execFlitReceive link damage s
  | .nakReceive link => Sys2Proof.Machine.execNakReceive link s
  | .multicastForward die entry out => Sys2Proof.Machine.execMulticastForward die entry out s
  | .lossNoticeReceive link => Sys2Proof.Machine.execLossNoticeReceive link s
  | .restripeAfterLoss link => Sys2Proof.Machine.execRestripeAfterLoss link s
  | .portDown link => Sys2Proof.Machine.execPortDown link s
  | .dieLinkDown link => Sys2Proof.Machine.execDieLinkDown link s
  | .parkDone link => Sys2Proof.Machine.execParkDone link s
  | .autoWake link => Sys2Proof.Machine.execAutoWake link s
  | .wakeComplete link => Sys2Proof.Machine.execWakeComplete link s
  | .bpubEnqueue op => Sys2Proof.Machine.execBpubEnqueue op s
  | .bbarEnqueue op => Sys2Proof.Machine.execBbarEnqueue op s
  | .lampFrameReceive m damage => Sys2Proof.Machine.execLampFrameReceive m damage s
  | .lampTurn m => Sys2Proof.Machine.execLampTurn m s
  | .beaconFrameReceive m damage => Sys2Proof.Machine.execBeaconFrameReceive m damage s
  | .resendFrameReceive m damage => Sys2Proof.Machine.execResendFrameReceive m damage s
  | .pubFrameApply die => Sys2Proof.Machine.execPubFrameApply die s
  | .barFrameApply die => Sys2Proof.Machine.execBarFrameApply die s
  | .rekeyFrameApply die => Sys2Proof.Machine.execRekeyFrameApply die s
  | .lampRegen m => Sys2Proof.Machine.execLampRegen m s
  | .rekeyStart m slots => Sys2Proof.Machine.execRekeyStart m slots s
  | .tseqExhaustion die => Sys2Proof.Machine.execTseqExhaustion die s
  | .rekeyReceive m => Sys2Proof.Machine.execRekeyReceive m s
  | .rekeyDrainDone m => Sys2Proof.Machine.execRekeyDrainDone m s
  | .getVersion m peer arg => Sys2Proof.Machine.execGetVersion m peer arg s
  | .getCapabilities m peer arg => Sys2Proof.Machine.execGetCapabilities m peer arg s
  | .negotiateAlgorithms m peer arg => Sys2Proof.Machine.execNegotiateAlgorithms m peer arg s
  | .getDigests m peer arg => Sys2Proof.Machine.execGetDigests m peer arg s
  | .getCertificate m peer arg => Sys2Proof.Machine.execGetCertificate m peer arg s
  | .challenge m peer arg => Sys2Proof.Machine.execChallenge m peer arg s
  | .getMeasurements m peer arg => Sys2Proof.Machine.execGetMeasurements m peer arg s
  | .keyExchange m peer arg => Sys2Proof.Machine.execKeyExchange m peer arg s
  | .finish m peer arg => Sys2Proof.Machine.execFinish m peer arg s
  | .vendorDefinedRequest m peer => Sys2Proof.Machine.execVendorDefinedRequest m peer s
  | .endSession m peer => Sys2Proof.Machine.execEndSession m peer s
  | .lossOfLight link group => Sys2Proof.Machine.execLossOfLight link group s
  | .bcfgEnable m value => Sys2Proof.Machine.execBcfgEnable m value s
  | .bcfgDisable m value => Sys2Proof.Machine.execBcfgDisable m value s
  | .tcfgJoin m value => Sys2Proof.Machine.execTcfgJoin m value s
  | .tcfgLeave m value => Sys2Proof.Machine.execTcfgLeave m value s
  | .logctlEnable die value => Sys2Proof.Machine.execLogctlEnable die value s
  | .logrdWrite die value => Sys2Proof.Machine.execLogrdWrite die value s
  | .trctlWrite die value => Sys2Proof.Machine.execTrctlWrite die value s
  | .dbgrunResume die value => Sys2Proof.Machine.execDbgrunResume die value s
  | .dbgrunStep die value => Sys2Proof.Machine.execDbgrunStep die value s
  | .dbgrunAll die value => Sys2Proof.Machine.execDbgrunAll die value s
  | .mctlFreeze m value => Sys2Proof.Machine.execMctlFreeze m value s
  | .freezePin m => Sys2Proof.Machine.execFreezePin m s
  | .debugPortRead m sel => Sys2Proof.Machine.execDebugPortRead m sel s
  | .mctlReset m value => Sys2Proof.Machine.execMctlReset m value s
  | .pcieFundamentalReset m => Sys2Proof.Machine.execPcieFundamentalReset m s
  | .fwlenWrite m value => Sys2Proof.Machine.execFwlenWrite m value s
  | .mctlPreq m value => Sys2Proof.Machine.execMctlPreq m value s
  | .tigo m value => Sys2Proof.Machine.execTigo m value s
  | .windowRead m offset len => Sys2Proof.Machine.execWindowRead m offset len s
  | .windowWrite m offset bytes => Sys2Proof.Machine.execWindowWrite m offset bytes s
  | .eqrdWrite m value => Sys2Proof.Machine.execEqrdWrite m value s
  | .clockStepDown die temp power => Sys2Proof.Machine.execClockStepDown die temp power s
  | .clockStepUp die temp power => Sys2Proof.Machine.execClockStepUp die temp power s
  | .thermalTrip die temp power => Sys2Proof.Machine.execThermalTrip die temp power s
  | .registerWrite m offset value => Sys2Proof.Machine.execRegisterWrite m offset value s
  | .groveResumption grove core => Sys2Proof.Machine.execGroveResumption grove core s
  | .lctlPark link value => Sys2Proof.Machine.execLctlPark link value s
  | .lctlClrf link value => Sys2Proof.Machine.execLctlClrf link value s
  | .lightBack link group => Sys2Proof.Machine.execLightBack link group s

end Sys2Proof.Machine
end

