-- ==== Sys2Proof/Machine/Load.lean ====
section
/-!
DEFINITION. A bundle placed where the machine fetches its next one: a running module, an address space, a launch with one
grove, and a bough that holds the phase of this core cycle (assumption 3). It stands for the loading of firmware, page
table, kernel and launch record by the host.
-/
namespace Sys2Proof.Machine

/-- The address of the placed bundle, virtual and physical. -/
def loadPc : Nat := 0x10000

/-- Three tables of an address space whose first GiB is die 0's own memory (Table 4.2): root, next, and a 1 GiB leaf that
may be written and fetched. -/
def loadTables (m : Memory) : Memory :=
  writeBytes (writeBytes (writeBytes m 0x1000 (bytesOfNat 8 0x2001)) 0x2000 (bytesOfNat 8 0x3001)) 0x3000 (bytesOfNat 8 0xF)

/-- The kernel header of the placed launch: S3, 128 registers, one bough, 32 flags, four tiles and tables, the whole
scratchpad, item width 1, and four deferral queues (Table 11.1). -/
def loadHeader : BitVec 2048 :=
  let queue (q : Nat) : List (Nat × Nat × Nat) := [(0x100, 8 * (88 + 8 * q), 32), (1, 8 * (92 + 8 * q), 8), (8, 8 * (94 + 8 * q), 16)]
  BitVec.ofNat 2048 (packFields ([(0x4B47, 0, 16), (3, 16, 8), (4, 24, 8), (1, 32, 8), (32, 40, 8), (4, 48, 8), (4, 56, 8),
    (2 ^ 20, 64, 32), (1, 96, 8), (loadPc, 128, 32), (0x20000, 160, 32), (loadPc, 192, 32), (1, 224, 8)] ++
    queue 0 ++ queue 1 ++ queue 2 ++ queue 3))

/-- The placed launch's record (Table 11.2): one grove, 64 items, BF16 in every format slot. -/
def loadRecord : BitVec 2048 :=
  BitVec.ofNat 2048 (packFields ([(0x40000, 256, 64), (0xFF, 832 + 34, 8), (64, 1408, 32), (1, 1440, 16), (1, 1456, 16), (1, 1472, 16)] ++
    (List.range 8).map fun (n : Nat) => (1, 896 + 64 * n, 64)))

/-- The placed launch; its blocks are not granted yet. -/
def loadLaunch : Launch :=
  { Launch.initial 0 48 1 0x30000 loadRecord loadHeader [] with life := .placing, placedGroves := 1, shares := [(0, { next := 1, last := 1, begun := true })] }

/-- The system with a bundle's bytes in memory, about to present it in this core cycle. -/
def State.load (s : State) (bytes : List Byte) : State :=
  let key := groveKey 1 0
  let g := { Grove.initial 1 0 0 0 0 0 0 0 0 [0, 1, 2, 3] with held := List.range 64 }
  let b := { Bough.initial key 0 0 (BitVec.ofNat 64 loadPc) 0x20000 3 0 with
              phase := some (s.cc % 4), grantCc := s.cc, active := 0xFF, iid := Vector.ofFn fun j => BitVec.ofNat 32 j.val }
  { (s.onModule 0 fun m => { m with mstate := 1, roots := tput m.roots 1 0x1000, rootsLive := tput m.rootsLive 1 0x1000 }) with
    mem := writeBytes (loadTables s.mem) loadPc bytes, agenda := [],
    launches := tput s.launches 1 loadLaunch, groves := [(key, g)], boughs := [(boughKey key 0, b)] }

end Sys2Proof.Machine
end

