-- ==== Sys2Proof/Machine/Step.lean ====
section
/-!
DEFINITION. The step of the system, and the placing of an instruction where the step fetches its next one.
-/
namespace Sys2Proof.Machine

/-- One step: the run ends where every clock is stopped (R446, R471) and nothing is to come; else what is due next. -/
def step (s : State) : Host.Outcome State Fault Refusal :=
  if s.allStopped then .fault .allClocksStopped else s.advance exec

/-- The system with an instruction's bits placed at the bundle that the next step presents (`State.load`). The bits are
numbered as the bundle numbers them: bit 0 is the lowest of byte 0. -/
def State.withFetchWord (s : State) (nbits w : Nat) : State := s.load (bytesOfNat 32 (w % 2 ^ nbits))

end Sys2Proof.Machine
end

