-- ==== Sys2Proof/Safety.lean ====
section
/-!
DEFINITION. What a sound state is and when things happen, in the terms that the statements use: memory in its canonical
form, a bundle that issues, a result in flight, and what a state keeps of another.
-/
namespace Sys2Proof.Machine

/-- The canonical form of memory: addresses strictly rise and no byte is listed that an unlisted address reads as. -/
def Memory.wf (m : Memory) : Bool :=
  m.all (fun c => c.2 != 0) && decide (m.Pairwise fun a b => a.1 < b.1)

/-- A state whose physical memory is in its canonical form. -/
def State.memoryWf (s : State) : Bool := Memory.wf s.mem

/-- An operation of the bundle under way issues: the bundle's bough, grove and launch are there, and neither R75 nor steps
4 to 10 of R194 find a trap for it. -/
def State.Issues (s : State) (c : Ctx) (i : Instr) : Prop := s.ctx? = some c ∧ c.issueTrap i = none

/-- The same as a test. -/
def State.issuesTest (s : State) (i : Instr) : Bool :=
  match s.ctx? with
  | some c => (c.issueTrap i).isNone
  | none => false

/-- A result is in flight for a bough. -/
def State.InFlight (s : State) (k : Nat) (r : Result) : Prop := ∃ b, s.bough? k = some b ∧ r ∈ b.results

/-- Nothing but boughs and groves differs. -/
def State.SameElsewhere (s t : State) : Prop := t = { s with boughs := t.boughs, groves := t.groves }

/-- An event stands in the agenda for no earlier than a core cycle. -/
def State.Expects (t : State) (cc : Nat) (e : Instr) : Prop := ∃ n, cc ≤ n ∧ (n, e) ∈ t.agenda

/-- The registers of a bough that programs name (Table 1.4) but its pc and control registers. -/
def Bough.SameRegisters (b x : Bough) : Prop := x.v = b.v ∧ x.o = b.o ∧ x.p = b.p ∧ x.s = b.s ∧ x.lv0 = b.lv0 ∧ x.lv1 = b.lv1 ∧
  x.lm0 = b.lm0 ∧ x.lf0 = b.lf0 ∧ x.results = b.results ∧ x.active = b.active ∧ x.iid = b.iid ∧ x.iage = b.iage

/-- The real number that a value is, none for an infinity or a NaN. -/
def FVal.number (x : FVal) : Option Rat :=
  match x with
  | .fin q => some q
  | .zero _ => some 0
  | _ => none

/-- What the first source of a vector operation reads in a lane, through its lane modifier (R237, R269). -/
def Ctx.val1 (c : Ctx) (i : Instr) (l : Fin 64) : DWord :=
  match vinfo i with
  | some (v, a) => (c.srcA i v a).get l
  | none => 0
/-- What its second source reads. -/
def Ctx.val2 (c : Ctx) (i : Instr) (l : Fin 64) : DWord :=
  match vinfo i with
  | some (_, a) => (c.srcB i a).get l
  | none => 0
/-- What its third source reads. -/
def Ctx.val3 (c : Ctx) (i : Instr) (l : Fin 64) : DWord :=
  match vinfo i with
  | some (_, a) => (c.srcC i a).get l
  | none => 0
/-- The low words of the three. -/
def Ctx.word1 (c : Ctx) (i : Instr) (l : Fin 64) : Word := (c.val1 i l).setWidth 32
/-- The low word of the second source. -/
def Ctx.word2 (c : Ctx) (i : Instr) (l : Fin 64) : Word := (c.val2 i l).setWidth 32
/-- The low word of the third source. -/
def Ctx.word3 (c : Ctx) (i : Instr) (l : Fin 64) : Word := (c.val3 i l).setWidth 32

/-- An operation answers a next state in which a result of one register is in flight: in every lane in which the operation
acts it holds the word `f` names, and it raises the flags `fl`. -/
def State.LaneResult (s : State) (c : Ctx) (i : Instr) (a : VSlot) (fl : Flags) (f : Fin 64 → Word) : Prop :=
  ∃ t r, exec i s = .next t ∧ t.InFlight c.key r ∧ r.dest = destOf a.dst ∧ r.act = c.actLanes a.pr ∧ r.flags = fl ∧
    ∀ l : Fin 64, (c.actLanes a.pr).getLsbD l.val = true → r.vals.get l = f l

/-- The same for a register pair: the low word in the first, the high word in the second (R282). -/
def State.PairResult (s : State) (c : Ctx) (i : Instr) (a : VSlot) (f : Fin 64 → DWord) : Prop :=
  ∃ t r q, exec i s = .next t ∧ t.InFlight c.key r ∧ t.InFlight c.key q ∧ r.dest = destOf a.dst ∧
    q.dest = nextDest (destOf a.dst) ∧ r.act = c.actLanes a.pr ∧ q.act = c.actLanes a.pr ∧ r.flags = 0 ∧ q.flags = 0 ∧
    ∀ l : Fin 64, (c.actLanes a.pr).getLsbD l.val = true →
      r.vals.get l = (f l).setWidth 32 ∧ q.vals.get l = (f l).extractLsb' 32 32

/-- The same for a predicate. -/
def State.PredResult (s : State) (c : Ctx) (i : Instr) (a : VSlot) (n : Nat) (f : Fin 64 → Bool) : Prop :=
  ∃ t r, exec i s = .next t ∧ t.InFlight c.key r ∧ r.dest = .pred n ∧ r.act = c.actLanes a.pr ∧
    ∀ l : Fin 64, (c.actLanes a.pr).getLsbD l.val = true → (r.vals.get l).getLsbD 0 = f l

/-- A uniform form (R277) answers a next state in which the scalar that its DST names has a result in flight, without flags. -/
def State.UniResult (s : State) (c : Ctx) (i : Instr) (n : Nat) (x : DWord) : Prop :=
  ∃ t r, exec i s = .next t ∧ t.InFlight c.key r ∧ r.dest = .scalar n ∧ r.sval = x ∧ r.flags = 0
/-- A uniform operation on the scalars, constants and literals that its sources name: all 64 bits under .d; under .i32 and .u32 the low 32
bits of the result, extended with and without sign (R277). -/
def Ctx.uniOf (c : Ctx) (a : VSlot) (f : DWord → DWord → DWord) : DWord :=
  let x := f (c.readUni a.ty a.imm9 a.sa) (c.readUni a.ty a.imm9 a.sb)
  match a.ty with
  | .d => x
  | .i32 => (x.setWidth 32).signExtend 64
  | _ => (x.setWidth 32).setWidth 64

/-- A form over words: a lane form gives in each acting lane of its destination what `f` gives for the words of its three sources, and a
uniform form without a lane modifier gives its scalar, where it acts, what `f` gives for the low words of its scalars, extended with
sign under .i32 and with zeros under .u32 (R277). Neither raises a flag. -/
def State.WordResult (s : State) (c : Ctx) (i : Instr) (a : VSlot) (f : Word → Word → Word → Word) : Prop :=
  (a.u = false → s.LaneResult c i a 0 fun l => f (c.word1 i l) (c.word2 i l) (c.word3 i l)) ∧
    ∀ n, a.u = true → a.xlm = .none → uniformActs a.pr = true → classOf a.dst = .scalar n →
      let x := fun code => (c.readUni a.ty a.imm9 code).setWidth 32
      let y := f (x a.sa) (x a.sb) (x a.sc)
      s.UniResult c i n (if a.ty = .i32 then y.signExtend 64 else y.setWidth 64)

/-- The integer that a word is under .i32, or under .u32. -/
def intOfWord (ty : Ty) (w : Word) : Int := if ty = .i32 then w.toInt else w.toNat

/-- An integer written under .i32 or .u32: its low 32 bits, or with SAT the nearest value of the type (R239). -/
def wordOfInt (ty : Ty) (sat : Bool) (y : Int) : Word :=
  BitVec.ofInt 32 (if sat = false then y else if ty = .i32 then max (-(2 ^ 31)) (min (2 ^ 31 - 1) y) else max 0 (min (2 ^ 32 - 1) y))

/-- Code k of those of `n` bits that a word holds, the lowest first (R104). -/
def subAt (n : Nat) (w : Word) (k : Nat) : Nat := w.toNat / 2 ^ (n * k) % 2 ^ n

/-- The word that holds `count` codes of `n` bits, the lowest first (R104). -/
def wordOfSubs (n count : Nat) (f : Nat → Nat) : Word := BitVec.ofNat 32 ((List.range count).map fun k => 2 ^ (n * k) * f k).sum

/-- The lanes of lane l's group that contribute (R263): the acting ones of all 64, or of l's span where bit 8 of IMM9 is set. -/
def Ctx.contributors (c : Ctx) (a : VSlot) (l : Nat) : List Nat :=
  (List.range 64).filter fun k => (c.actLanes a.pr).getLsbD k && (!a.imm9.getLsbD 8 || k / c.width == l / c.width)

/-- The combination of words that an op code of R265 names under .i32 or .u32, from its identity on. -/
def foldWords (op : Nat) (ty : Ty) (xs : List Word) : Word :=
  let less := fun x y : Word => if ty = .i32 then x.slt y else x.ult y
  match op with
  | 0 => xs.foldl (fun x y => x + y) 0
  | 1 => xs.foldl (fun x y => if less y x then y else x) (if ty = .i32 then 0x7FFFFFFF else 0xFFFFFFFF)
  | 2 => xs.foldl (fun x y => if less x y then y else x) (if ty = .i32 then 0x80000000 else 0)
  | 3 => xs.foldl (fun x y => x &&& y) 0xFFFFFFFF
  | 4 => xs.foldl (fun x y => x ||| y) 0
  | _ => xs.foldl (fun x y => x ^^^ y) 0

/-- Whether an FP32 word is a NaN. -/
def nanWord (w : Word) : Bool := decide (0x7F800000 < (w &&& 0x7FFFFFFF).toNat)

/-- Where an FP32 word that is no NaN stands in the order of values, −0 before +0. -/
def floatRank (w : Word) : Int := if w.msb then -1 - (w &&& 0x7FFFFFFF).toNat else w.toNat

/-- An operation of the bundle under way answers a next state in which its grove has one act more to come, `after` bough cycles
from issue (R71, R129); nothing else differs. -/
def State.Schedules (s : State) (c : Ctx) (i : Instr) (after : Nat) (act : ScratchAct) : Prop :=
  ∃ t, exec i s = .next t ∧ t = { s with groves := t.groves } ∧ (∀ k, k ≠ c.b.grove → t.grove? k = s.grove? k) ∧
    t.grove? c.b.grove = some { c.g with pipe := c.g.pipe ++
      [{ bc := c.t + after, cc := c.cc, bnum := c.b.bnum, seq := c.b.seq, pc := c.b.pc, act := act }] }

/-- An operation of the bundle under way is accepted by the memory engine (R204): it answers a next state in which it is outstanding
under the next number, with what `p` says of it and of the state after; the state differs in it, in events to come, in free values, and in its bough's OPSEQ, which
counts it where `counted` says so (R430). Every register, every grove and every byte of memory is as before. -/
def State.Enters (s : State) (c : Ctx) (i : Instr) (counted : Bool) (p : State → GOp → Prop) : Prop :=
  ∃ t o, exec i s = .next t ∧ tget t.ops s.nextOp = some o ∧ (∀ k, k ≠ s.nextOp → tget t.ops k = tget s.ops k) ∧
    o.bough = c.key ∧ o.issued = c.t ∧ o.pc = c.b.pc ∧ o.asid = c.l.asid ∧ o.bid = c.bid ∧ o.order = s.nextOp ∧ p t o ∧
    t = { s with ops := t.ops, boughs := t.boughs, nextOp := t.nextOp, agenda := t.agenda, free := t.free } ∧
    t.bough? c.key = some { c.b with opseq := if counted then c.b.opseq + 1 else c.b.opseq } ∧
    ∀ k, k ≠ c.key → t.bough? k = s.bough? k

/-- An operation of the bundle under way that has nothing to do (R203): it is accepted, without an access or a destination, and completes
at issue + 2. -/
def State.EntersIdle (s : State) (c : Ctx) (i : Instr) (kf : BitVec 5) : Prop :=
  s.Enters c i false fun t o => o.kind = .pref ∧ o.flag = kf.toNat ∧ o.lanes = [] ∧ o.dests = [] ∧
    t.agenda = s.agenda ++ [(4 * (c.t + 2), .prefCompletion s.nextOp)]

/-- A beacon operation whose index is no entry's is accepted, and completes at issue + 2 with ILLEGAL_STATE. -/
def State.EntersBad (s : State) (c : Ctx) (i : Instr) (kf : BitVec 5) : Prop :=
  s.Enters c i false fun t o => o.flag = kf.toNat ∧ o.dests = [] ∧ o.lanes.map (fun r => (r.stage, r.fault.map (·.1))) = [(2, some 0x0C)] ∧
    t.agenda = s.agenda ++ [(4 * (c.t + 2), .globalLoadCompletion s.nextOp)]

/-- The accesses of a plain load or store (R57, R136, R207): in each lane in which the operation acts, at the lane's address modulo 2^64, one of
the element's size up to a word, and one for each aligned word of a longer one, with its part of the data; a misaligned lane has one
access, which carries MISALIGNED and is not performed. -/
def GOp.Plain (o : GOp) (c : Ctx) (a : MSlot) (data : Nat → Nat) : Prop :=
  let n := szBytes a.sz
  let addr := fun l : Nat => BitVec.ofInt 64 (c.laneAddr a l)
  let parts := fun l : Nat => if (addr l).toNat % n = 0 then max 1 (n / 4) else 1
  o.lanes.map (fun r => (r.lane, r.part)) =
      ((lanesOf (c.actLanes a.pr)).map fun l => (List.range (parts l)).map fun i => (l, i)).flatten ∧
    ∀ r ∈ o.lanes, r.va = addr r.lane + BitVec.ofNat 64 (4 * r.part) ∧
      ((addr r.lane).toNat % n = 0 → r.stage = 0 ∧ r.fault = none ∧ r.bytes = min n 4 ∧
        r.data = if n ≤ 4 then data r.lane else data r.lane / 2 ^ (32 * r.part) % 2 ^ 32) ∧
      ((addr r.lane).toNat % n ≠ 0 → r.stage = 2 ∧ r.fault = some (Cause.misaligned.code, 0))

/-- The lanes of an atomic access or a settle (R57, R207): one for each lane in which the operation acts, at the lane's address modulo 2^64,
with a size and its data; a misaligned lane carries MISALIGNED and is not performed. -/
def GOp.Accesses (o : GOp) (c : Ctx) (a : MSlot) (data : Nat → Nat) : Prop :=
  o.lanes.map (·.lane) = lanesOf (c.actLanes a.pr) ∧
    ∀ r ∈ o.lanes, r.va = BitVec.ofInt 64 (c.laneAddr a r.lane) ∧ r.bytes = szBytes a.sz ∧ r.data = data r.lane ∧
      (r.va.toNat % szBytes a.sz = 0 → r.stage = 0 ∧ r.fault = none) ∧
      (r.va.toNat % szBytes a.sz ≠ 0 → r.stage = 2 ∧ r.fault = some (Cause.misaligned.code, 0))

/-- An operation of the bundle under way answers a next state that differs in its bough, of which `p` holds, and in what the bundle's end
goes by (`cur`: where the next bundle comes from, R160). Every other bough, every grove, every launch and every byte of memory is as
before. -/
def State.Turns (s : State) (c : Ctx) (i : Instr) (cur : Issue) (p : Bough → Prop) : Prop :=
  ∃ t x, exec i s = .next t ∧ t = { s with boughs := t.boughs, cur := cur } ∧ t.bough? c.key = some x ∧ p x ∧
    ∀ k, k ≠ c.key → t.bough? k = s.bough? k

/-- The same for an operation that changes its bough and its grove. -/
def State.TurnsBoth (s : State) (c : Ctx) (i : Instr) (cur : Issue) (p : Bough → Grove → Prop) : Prop :=
  ∃ t x g, exec i s = .next t ∧ t = { s with boughs := t.boughs, groves := t.groves, cur := cur } ∧ t.bough? c.key = some x ∧
    t.grove? c.b.grove = some g ∧ p x g ∧ (∀ k, k ≠ c.key → t.bough? k = s.bough? k) ∧ ∀ k, k ≠ c.b.grove → t.grove? k = s.grove? k

/-- A bough has one scalar result more in flight, for the bundles issued from `due` + 1 on (R157). -/
def Bough.GainsScalar (b x : Bough) (n : Nat) (v : DWord) (due : Nat) : Prop :=
  ∃ r, x = b.addResult r ∧ r.dest = .scalar n ∧ r.sval = v ∧ r.due = due ∧ r.flags = 0

/-- A link end with the control flit to send that names a new active set and the first flit under it (R384, assumption 133). -/
def Link.told (x : Link) (set : BitVec 4) (q : BitVec 24) : Link := { x with control := x.control ++ [setNotice set q] }

/-- No launch whose groves bough `k` belongs to is recorded or replayed (R423, R434). -/
def State.Unrecorded (s : State) (k : Nat) : Prop :=
  ∀ g l, s.grove? (groveOf k) = some g → tget s.launches g.launch = some l → l.replay = false

/-- A copy-engine operation of the bundle under way is accepted (R304): it answers a next state in which it is listed under the next
number with its registers as read now, and of which `p` holds. The state differs in the copies, in events to come and in free values. -/
def State.EntersCopy (s : State) (c : Ctx) (i : Instr) (a : CSlot) (p : State → CopyOp → Prop) : Prop :=
  ∃ t o, exec i s = .next t ∧ t = { s with copies := t.copies, nextOp := s.nextOp + 1, agenda := t.agenda, free := t.free } ∧
    tget t.copies s.nextOp = some o ∧ o.bough = c.key ∧ o.issued = c.t ∧ o.pc = c.b.pc ∧ o.asid = c.l.asid ∧ o.bid = c.bid ∧
    o.flag = a.kf.toNat ∧ o.inc = (if a.inc = 0 then 64 else a.inc.toNat) ∧ o.loc = a.loc.toNat ∧ o.tag = a.tag.toNat ∧
    o.order = s.nextOp ∧ o.cancelled = false ∧ o.preload = false ∧ o.progress = CopyProgress.start ∧ p t o

/-- A matrix operation of the bundle under way enters its core's queue where fewer than eight stand there that do not finish by this
bough cycle, and its fetch may begin from the next one; else it is refused and completes at issue + 2 (R321, R323, R330). An operation
finishes two bough cycles after its array ends (R331). The state differs in that core and in the events to come. -/
def State.EntersMatrix (s : State) (c : Ctx) (i : Instr) (kind : MatKind) (a : XSlot) : Prop :=
  ∃ t o, exec i s = .next t ∧ t = { s with cores := t.cores, agenda := t.agenda } ∧ (∀ k, k ≠ c.g.core → t.core k = s.core k) ∧
    o.kind = kind ∧ o.bough = c.key ∧ o.issued = c.t ∧ o.pc = c.b.pc ∧ o.tile = a.t.toNat ∧ o.fsa = c.l.fslot a.fsa.toNat ∧
    o.fsb = c.l.fslot a.fsb.toNat ∧ o.fsc = c.l.fslot a.fsc.toNat ∧ o.da = c.b.sreg a.ba.toNat ∧ o.db = c.b.sreg a.bb.toNat ∧
    o.idx = lowWords (c.read .u32 0 a.ix) ∧ o.act = c.actLanes (a.mod.extractLsb' 0 4) ∧ o.mod = a.mod ∧ o.flag = a.kf.toNat ∧
    o.inc = (if a.inc = 0 then 64 else a.inc.toNat) ∧ o.tag = a.tag.toNat ∧ o.fetched = none ∧ o.fb = none ∧ o.ab = none ∧ o.halt = none ∧
    let entries := ((s.core c.g.core).mq.filter fun y => !y.arrayEnd.any fun e => decide (e + 2 ≤ c.t)).length
    (entries < 8 → t.core c.g.core = { s.core c.g.core with mq := (s.core c.g.core).mq ++ [o] } ∧
      t.agenda = s.agenda ++ [(4 * (c.t + 1), .matrixFetchStart c.g.core)]) ∧
    (8 ≤ entries → t.core c.g.core = { s.core c.g.core with refused := (s.core c.g.core).refused ++ [o] } ∧
      t.agenda = s.agenda ++ [(4 * (c.t + 2), .matrixCompletion c.g.core)])

/-- An operation in flight whose bough `b`, grove `g` and launch `l` stand where its completion finds them: the grove is placed, the
launch runs, the clocks of the grove's module run, and the operation's flag is one of the grove's. -/
structure State.Outstanding (s : State) (op : Nat) (o : GOp) (b : Bough) (g : Grove) (l : Launch) : Prop where
  listed : tget s.ops op = some o
  bough : s.bough? o.bough = some b
  grove : s.grove? (groveOf o.bough) = some g
  life : g.life = .placed
  named : g.launch = launchOfKey o.bough
  launch : tget s.launches (launchOfKey o.bough) = some l
  alive : l.life ≠ .killed
  flag : o.flag < l.flagBlock
  clocked : (s.module (moduleOf g.die)).clocked = true

/-- A completion event answers a next state in which the operation is no longer in flight and its flag has one more completion to
come in this bough cycle, with a fault or none (R37, R40, R204); `p` holds of the bough. Nothing else changes but the L1s of cores. -/
def State.Completes (s : State) (i : Instr) (op : Nat) (o : GOp) (g : Grove) (p : State → Bough → Option FaultInfo → Prop) : Prop :=
  ∃ t x f, exec i s = .next t ∧ t = { s with ops := t.ops, boughs := t.boughs, groves := t.groves, cores := t.cores } ∧
    tget t.ops op = none ∧ (∀ k, k ≠ op → tget t.ops k = tget s.ops k) ∧
    t.grove? (groveOf o.bough) = some { g with flagWrites := g.flagWrites ++ [.complete o.flag 1 f] } ∧
    (∀ k, k ≠ groveOf o.bough → t.grove? k = s.grove? k) ∧ t.bough? o.bough = some x ∧ (∀ k, k ≠ o.bough → t.bough? k = s.bough? k) ∧
    p t x f

/-- The same for a copy-engine operation, whose flag counts its increment. -/
structure State.CopyOut (s : State) (id : Nat) (c : CopyOp) (b : Bough) (g : Grove) (l : Launch) : Prop where
  listed : tget s.copies id = some c
  bough : s.bough? c.bough = some b
  grove : s.grove? (groveOf c.bough) = some g
  life : g.life = .placed
  named : g.launch = launchOfKey c.bough
  launch : tget s.launches (launchOfKey c.bough) = some l
  alive : l.life ≠ .killed
  flag : c.flag < l.flagBlock
  clocked : (s.module (moduleOf g.die)).clocked = true
  own : c.loc = 0

/-- A matrix operation of a core whose grove, bough and launch stand where its completion finds them. -/
structure State.MatrixOut (s : State) (x : MatOp) (b : Bough) (g : Grove) (l : Launch) : Prop where
  bough : s.bough? x.bough = some b
  grove : s.grove? (groveOf x.bough) = some g
  life : g.life = .placed
  named : g.launch = launchOfKey x.bough
  launch : tget s.launches (launchOfKey x.bough) = some l
  flag : x.flag < l.flagBlock
  clocked : (s.module (moduleOf g.die)).clocked = true
  untagged : x.tag = 0

/-- What a step does around its bundle when nothing else is due (R194): bough `k` presents bundle `bd`, it has context `c`,
and it neither traps, stops nor stretches. `u` is the state in which its operations run. -/
structure Presents (s : State) (k : Nat) (bd : Bundle) (c : Ctx) (u : State) : Prop where
  running : s.allStopped = false
  noStop : s.findBough s.stopDue = none
  noResult : s.findBough (fun _ b _ => b.owesWriteback s.bc) = none
  noAging : s.findBough (fun _ b g => s.agingDue b g) = none
  noEvent : takeDue s.cc s.frozen s.agenda = none
  issuer : s.issuer = some k
  present : ∃ c0 w, s.ctxOf k Bundle.empty 0 0 false = some c0 ∧ c0.b.pendNow c0.t = none ∧
    s.fetchBits k c0.g c0.l c0.b.pc = .ok w ∧ bd = decodeBundle w ∧ s.watchdogDue c0.b c0.l = false ∧
    (bd.d = true → c0.b.stretchEnd.isSome ∨ c0.b.dbgSkip = true) ∧
    u = ((s.touch c0.g.die c0.l.asid c0.b.pc.toNat).keepFetched k c0.g c0.l c0.b.pc w).begin k bd
  context : u.ctx? = some c
  sound : c.bundleCause bd (c.b.dsLeft != 0) = none
  compat : asksCompat bd = true → u.compatFault c.g.die = false ∧ c.b.compatAt.isSome = true
  later : c.bundleLater (bundleOps bd) = none
  finite : c.b.stretchEnd.isSome ∨ c.finiteStretch (bundleOps bd) = 0
  noHold : u.holdCause c (bundleOps bd) = none
  observed : u.observeAll c (bundleOps bd) = .go
  noFlag : (bundleOps bd).findSome? c.flagFault = none

end Sys2Proof.Machine
end

