-- ==== Sys2Proof/Certificates/Slice0/Obligations.lean ====
section
/-!
DEFINITION. The statements for the provers. Each says in its docstring which rules of spec/ it rests on.
-/
open Sys2Proof Sys2Proof.Machine

/-! ### Encoding and decoding -/

/-- Words written out from Tables 2.1 to 2.15 decode to the operations they stand for, one of each slot and form: the vector
slot's `add.i32 v3, v1, v2` (OP 0x001), the memory slot's `lds.w v4, [s2 + v1]` (OP 0x01), the copy form's `cpy` and the matrix form's
`mma` (E 0, OP 0x01; E 1, OP 0x00), the control slot's `br` (OP 0x01). -/
def Obligations.WordsDecode : Prop :=
  decodeTableWord 256 (2 ^ 176 * (2 ^ 63 * 0x001 + 2 ^ 49 * 3 + 2 ^ 40 * 1 + 2 ^ 31 * 2)) =
      some (.add { ty := .i32, u := false, dst := 3, sa := 1, sb := 2, sc := 0, pr := 0, rm := .rne, sat := false, xlm := .none,
                   xlk := 0, imm9 := 0 }) ∧
    decodeTableWord 256 (2 ^ 112 * (2 ^ 57 * 0x01 + 2 ^ 54 * 2 + 2 ^ 44 * 4 + 2 ^ 35 * 1 + 2 ^ 30 * 2)) =
      some (.lds { sz := .w, q := false, dt := 4, ad := 1, sb := 2, pr := 0, sub := 0, kf := 0, imm18 := 0 }) ∧
    decodeTableWord 256 (2 ^ 48 * (2 ^ 57 * 0x01 + 2 ^ 52 * 1 + 2 ^ 47 * 3 + 2 ^ 42 * 5 + 2 ^ 37 * 2 + 2 ^ 31 * 1)) =
      some (.cpy { src := 1, dstb := 3, shp := 5, kf := 2, inc := 1, loc := 0, tag := 0, fsEn := false, fsSlot := 0, low := 0 }) ∧
    decodeTableWord 256 (2 ^ 48 * (2 ^ 63 + 2 ^ 55 * 1 + 2 ^ 41 * 4 + 2 ^ 36 * 5 + 2 ^ 22 * 7 + 2 ^ 16 * 1)) =
      some (.mma { t := 1, fsa := 0, fsb := 0, fsc := 0, ba := 4, bb := 5, ix := 0, kf := 7, inc := 1, tag := 0, mod := 0 }) ∧
    decodeTableWord 256 (2 ^ 42 * 0x01 + 2 ^ 16 * 0x0010) = some (.br { x := 0, y := 0, a := 16, b := 0 })

/-- Decode and encode agree: every well-formed operation of a slot, with every value of every field, is what the decoder
reads from the bundle that holds it alone (R49 to R61, Tables 2.1 to 2.7, 2.10 to 2.12 and 2.15). -/
def Obligations.DecodeEncode : Prop :=
  ∀ i : Instr, i.isSlotOp = true → i.wf = true → decodeTableWord 256 (encode i).toNat = some i

/-- The four slots of one bundle do not disturb one another: a bundle built from the slots of a vector, a memory, an engine and a
control operation, each possibly the empty one, decodes to those four, with its D and GAP bits (R49, Table 2.1). -/
def Obligations.BundleDecodeEncode : Prop :=
  ∀ (d : Bool) (gap : BitVec 3) (v m e k : Instr),
    (v = .vnop ∨ (vecOp v).isSome = true) → (m = .mnop ∨ ((memOp m).isSome = true ∧ m.wf = true)) →
    (e = .enop ∨ (copyOp e).isSome = true ∨ ((matrixOp e).isSome = true ∧ e.wf = true)) → (k = .nop ∨ (ctlOp k).isSome = true) →
    decodeBundle (bundleWord d gap (encodeVec v) (encodeMem m) (encodeEng e) (encodeCtl k)) =
      { d := d, gap := gap, form := 0, rsv := 0, imm64 := encodeEng e, vec := .ok v, mem := .ok m, eng := .ok e, ctl := .ok k }

/-- Each word of a slot has one meaning: what a slot decodes to encodes to the same bits, so that no bit of a slot is dropped or
shared between two operations (R51, R52, R58, R59; Tables 2.2 to 2.7). -/
def Obligations.EncodeDecode : Prop :=
  (∀ (w : BitVec 72) (i : Instr), decodeVec w = .ok i → encodeVec i = w) ∧
    (∀ (w : BitVec 64) (i : Instr), decodeMem w = .ok i → encodeMem i = w) ∧
    (∀ (w : BitVec 64) (i : Instr), decodeEng w = .ok i → encodeEng i = w) ∧
    (∀ (w : BitVec 48) (i : Instr), decodeCtl w = .ok i → encodeCtl i = w)

/-- Rejections by name: an OP code that Tables 2.10 to 2.12 and 2.15 assign to nothing is no operation of any kind (R74), in each of the
ranges that the tables leave out; OP 0 with another bit set is no empty operation (R51, R52); and a fence whose SZ names no kind is
rejected (R225), as one with an unused field set where it has one. -/
def Obligations.ReservedWords : Prop :=
  (∀ w : BitVec 72, w.extractLsb' 63 9 = 0#9 → w ≠ 0#72 → decodeVec w = .badBundle) ∧
    (∀ w : BitVec 72, let op := (w.extractLsb' 63 9).toNat
      0x020 ≤ op ∧ op ≤ 0x03F ∨ 0x04E ≤ op ∧ op ≤ 0x07F ∨ 0x08A ≤ op ∧ op ≤ 0x09F ∨ 0x0A8 ≤ op ∧ op ≤ 0x0BF ∨
        0x0C7 ≤ op ∧ op ≤ 0x0FF ∨ 0x110 ≤ op → decodeVec w = .badOpcode) ∧
    (∀ w : BitVec 64, w.extractLsb' 57 7 = 0#7 → w ≠ 0#64 → decodeMem w = .badBundle) ∧
    (∀ w : BitVec 64, let op := (w.extractLsb' 57 7).toNat
      0x0A ≤ op ∧ op ≤ 0x0F ∨ 0x14 ≤ op ∧ op ≤ 0x17 ∨ 0x20 ≤ op → decodeMem w = .badOpcode) ∧
    (∀ w : BitVec 64, w.extractLsb' 57 7 = 0x18#7 → 3 ≤ (w.extractLsb' 54 3).toNat →
      decodeMem w = if w.extractLsb' 30 24 = 0#24 ∧ w.extractLsb' 0 18 = 0#18 then .badOpcode else .badBundle) ∧
    (∀ w : BitVec 64, w.getLsbD 63 = false → w.extractLsb' 57 6 = 0#6 → w ≠ 0#64 → decodeEng w = .badBundle) ∧
    (∀ w : BitVec 64, w.getLsbD 63 = false → 0x0A ≤ (w.extractLsb' 57 6).toNat → decodeEng w = .badOpcode) ∧
    (∀ w : BitVec 64, w.getLsbD 63 = true → 0x08 ≤ (w.extractLsb' 57 6).toNat → decodeEng w = .badOpcode) ∧
    (∀ w : BitVec 48, w.extractLsb' 42 6 = 0#6 → w ≠ 0#48 → decodeCtl w = .badBundle) ∧
    (∀ w : BitVec 48, 0x21 ≤ (w.extractLsb' 42 6).toNat → decodeCtl w = .badOpcode)

/-! ### The vector slot -/

/-- Every operation of the vector slot that issues (R75, R194) answers a next state in which its result is in flight with its
destination, the lanes in which it acts (R12, R55, R164) and its due bough cycle (R26, R70, R82, R270): for a lane form with a
register destination, for a form whose destination is a predicate, and for a uniform form that acts (R277). It covers add, sub,
addx, mul, mad, min, max, abs, neg, absd, avg, dot4, and, or, xor, andn, not, shl, shr, sar, rol, popc, clz, brev, bfe, bfi, li, fadd, fsub,
fmul, fma, fms, fnma, fmin, fmax, fabs, fneg, frnd, fclass, fscl, fdot2, cmp, fcmp, sel, pand, por, pxor, pnot, pmov, ballot, pcnt, xshf,
xswp, xrot, xbc, xred, xscan, xcmpk, xseg, mov, extr, ins, cvt, pack, unpk, kget, mulhi, mulw, div, rem, rcp, rsq, sqrt, exp2, log2, sin, cos,
sincos, ppev, qnt, dqt, rng, sad, mulq, fexp and crc.
The latency of a uniform form with a lane modifier is assumption 119's.
It rests on choices of the model too (assumptions 32, 119). -/
def Obligations.VectorCompletes : Prop :=
  ∀ (s : State) (c : Ctx) (i : Instr) (v : VInfo) (a : VSlot), vinfo i = some (v, a) → s.Issues c i →
    ∃ t, exec i s = .next t ∧
      (v.dst ≠ .pred → a.u = false → ∃ r, t.InFlight c.key r ∧ r.dest = destOf a.dst ∧ r.act = c.actLanes a.pr ∧
        r.due = c.t + c.latency i v a ∧ r.path = v.path) ∧
      (v.dst = .pred → ∃ r, t.InFlight c.key r ∧ r.dest = .pred (a.dst.toNat % 8) ∧ r.act = c.actLanes a.pr ∧
        r.due = c.t + c.latency i v a ∧ r.path = v.path) ∧
      (∀ n, v.dst ≠ .pred → a.u = true → uniformActs a.pr = true → classOf a.dst = .scalar n →
        ∃ r, t.InFlight c.key r ∧ r.dest = .scalar n ∧ r.due = c.t + c.latency i v a)

/-- The frame of the vector slot, but for kget, whose count may be logged: nothing but results in flight of the issuing bough and credits
of its grove's channels changes. Every register, predicate, scalar, latch, flag and control register, the pc, every other bough,
the scratchpad, the tiles, the counting flags and every byte of memory are as before (R26, R279).
It rests on choices of the model too (assumption 57). -/
def Obligations.VectorFrame : Prop :=
  ∀ (s t : State) (c : Ctx) (i : Instr) (v : VInfo) (a : VSlot), vinfo i = some (v, a) → (∀ x, i ≠ .kget x) → s.Issues c i →
    exec i s = .next t →
      s.SameElsewhere t ∧ (∀ n, readByte t.mem n = readByte s.mem n) ∧ (∃ rs, t.bough? c.key = some { c.b with results := rs }) ∧
      (∀ k, k ≠ c.key → t.bough? k = s.bough? k) ∧
      ∀ k g, t.grove? k = some g → ∃ g0, s.grove? k = some g0 ∧ g = { g0 with chans := g.chans } ∧
        ∀ n (h : n < 8), g.chans[n] = { g0.chans[n] with credits := (g.chans[n]).credits }

/-- The integer arithmetic of R241 under .i32 and .u32, in every acting lane and in the uniform forms (R277): the exact result of the sources,
signed under .i32 and unsigned under .u32, wraps, or saturates with SAT (R239): add, sub, mul, mad, min, max, abs, neg and avg; absd, whose
result is written as an unsigned word; and dot4 of R243, the signed sum of C and the products of four bytes or eight nibbles.
The shifts of R245 under both, whatever the count: shl, shr, sar and rol.
Under .d with SAT 0, add and sub wrap on 64 bits and min and max compare signed 64-bit values. -/
def Obligations.IntegerArithmetic : Prop :=
  (∀ (s : State) (c : Ctx) (a : VSlot), (a.ty = .i32 ∨ a.ty = .u32) →
    let val := intOfWord a.ty
    let fit := wordOfInt a.ty a.sat
    let gives := fun (i : Instr) (f : Int → Int → Int → Int) => s.Issues c i → s.WordResult c i a fun x y z => fit (f (val x) (val y) (val z))
    gives (.add a) (fun x y _ => x + y) ∧ gives (.sub a) (fun x y _ => x - y) ∧ gives (.mul a) (fun x y _ => x * y) ∧
      gives (.mad a) (fun x y z => x * y + z) ∧ gives (.min a) (fun x y _ => if y < x then y else x) ∧
      gives (.max a) (fun x y _ => if x < y then y else x) ∧ gives (.abs a) (fun x _ _ => if x < 0 then -x else x) ∧
      gives (.neg a) (fun x _ _ => -x) ∧ gives (.avg a) (fun x y _ => (x + y + 1) / 2) ∧
      (s.Issues c (.absd a) → s.WordResult c (.absd a) a fun x y _ => BitVec.ofNat 32 (val x - val y).natAbs) ∧
      (s.Issues c (.shl a) → s.WordResult c (.shl a) a fun x y _ => fit (val x * 2 ^ y.toNat)) ∧
      (s.Issues c (.shr a) → s.WordResult c (.shr a) a fun x y _ => x >>> y.toNat) ∧
      (s.Issues c (.sar a) → s.WordResult c (.sar a) a fun x y _ => x.sshiftRight y.toNat) ∧
      (s.Issues c (.rol a) → s.WordResult c (.rol a) a fun x y _ => x.rotateLeft (y.toNat % 32))) ∧
  (∀ (s : State) (c : Ctx) (a : VSlot), s.Issues c (.dot4 a) →
    let n := if a.ty = .b4 ∨ a.ty = .ub4 then 8 else 4
    let elem := fun (w : Word) (k : Nat) =>
      if (a.ty = .b4 ∨ a.ty = .n8) ∧ 2 ^ (n - 1) ≤ subAt n w k then (subAt n w k : Int) - 2 ^ n else subAt n w k
    s.LaneResult c (.dot4 a) a 0 fun l => wordOfInt .i32 a.sat ((c.word3 (.dot4 a) l).toInt +
      ((List.range (32 / n)).map fun k => elem (c.word1 (.dot4 a) l) k * elem (c.word2 (.dot4 a) l) k).sum)) ∧
  ∀ (s : State) (c : Ctx) (a : VSlot), a.ty = .d → a.u = false → a.sat = false →
    (s.Issues c (.add a) → s.PairResult c (.add a) a fun l => c.val1 (.add a) l + c.val2 (.add a) l) ∧
    (s.Issues c (.sub a) → s.PairResult c (.sub a) a fun l => c.val1 (.sub a) l - c.val2 (.sub a) l) ∧
    (s.Issues c (.min a) → s.PairResult c (.min a) a fun l =>
      if (c.val2 (.min a) l).slt (c.val1 (.min a) l) then c.val2 (.min a) l else c.val1 (.min a) l) ∧
    (s.Issues c (.max a) → s.PairResult c (.max a) a fun l =>
      if (c.val1 (.max a) l).slt (c.val2 (.max a) l) then c.val2 (.max a) l else c.val1 (.max a) l)

/-- R244: and, or, xor, andn and not act bitwise on 32 bits under .i32 and .u32 alike, and on 64 bits under .d, in every acting
lane, and on scalars in a uniform form that acts (R55, R277). That a lane modifier leaves a uniform form's scalars as they are is
assumption 119. -/
def Obligations.Bitwise : Prop :=
  (∀ (s : State) (c : Ctx) (a : VSlot) (n : Nat), a.u = true → uniformActs a.pr = true → classOf a.dst = .scalar n →
    (s.Issues c (.and a) → s.UniResult c (.and a) n (c.uniOf a fun x y => x &&& y)) ∧
    (s.Issues c (.or a) → s.UniResult c (.or a) n (c.uniOf a fun x y => x ||| y)) ∧
    (s.Issues c (.xor a) → s.UniResult c (.xor a) n (c.uniOf a fun x y => x ^^^ y)) ∧
    (s.Issues c (.andn a) → s.UniResult c (.andn a) n (c.uniOf a fun x y => x &&& ~~~y)) ∧
    (s.Issues c (.not a) → s.UniResult c (.not a) n (c.uniOf a fun x _ => ~~~x))) ∧
  ∀ (s : State) (c : Ctx) (a : VSlot), a.u = false →
    ((a.ty = .i32 ∨ a.ty = .u32) →
      (s.Issues c (.and a) → s.LaneResult c (.and a) a 0 fun l => c.word1 (.and a) l &&& c.word2 (.and a) l) ∧
      (s.Issues c (.or a) → s.LaneResult c (.or a) a 0 fun l => c.word1 (.or a) l ||| c.word2 (.or a) l) ∧
      (s.Issues c (.xor a) → s.LaneResult c (.xor a) a 0 fun l => c.word1 (.xor a) l ^^^ c.word2 (.xor a) l) ∧
      (s.Issues c (.andn a) → s.LaneResult c (.andn a) a 0 fun l => c.word1 (.andn a) l &&& ~~~(c.word2 (.andn a) l)) ∧
      (s.Issues c (.not a) → s.LaneResult c (.not a) a 0 fun l => ~~~(c.word1 (.not a) l))) ∧
    (a.ty = .d →
      (s.Issues c (.and a) → s.PairResult c (.and a) a fun l => c.val1 (.and a) l &&& c.val2 (.and a) l) ∧
      (s.Issues c (.or a) → s.PairResult c (.or a) a fun l => c.val1 (.or a) l ||| c.val2 (.or a) l) ∧
      (s.Issues c (.xor a) → s.PairResult c (.xor a) a fun l => c.val1 (.xor a) l ^^^ c.val2 (.xor a) l) ∧
      (s.Issues c (.andn a) → s.PairResult c (.andn a) a fun l => c.val1 (.andn a) l &&& ~~~(c.val2 (.andn a) l)) ∧
      (s.Issues c (.not a) → s.PairResult c (.not a) a fun l => ~~~(c.val1 (.not a) l)))

/-- R246: popc counts one bits, clz leading zero bits (W for zero), brev reverses the bit order; W is 32, and under .d 64, the count
then in the even register and zero in the odd one. A uniform form that acts does the same on scalars (R55, R277), whatever its lane
modifier (assumption 119). -/
def Obligations.BitCounts : Prop :=
  (∀ (s : State) (c : Ctx) (a : VSlot) (n : Nat), a.u = true → uniformActs a.pr = true → classOf a.dst = .scalar n →
    let w := if a.ty = .d then 64 else 32
    (s.Issues c (.popc a) → s.UniResult c (.popc a) n (c.uniOf a fun x _ => BitVec.ofNat 64 ((List.range w).countP fun n => x.getLsbD n))) ∧
    (s.Issues c (.clz a) → s.UniResult c (.clz a) n (c.uniOf a fun x _ =>
      BitVec.ofNat 64 ((List.range w).takeWhile fun n => !x.getLsbD (w - 1 - n)).length)) ∧
    (s.Issues c (.brev a) → s.UniResult c (.brev a) n (c.uniOf a fun x _ =>
      if a.ty = .d then x.reverse else (BitVec.reverse (x.setWidth 32)).setWidth 64))) ∧
  ∀ (s : State) (c : Ctx) (a : VSlot), a.u = false →
    ((a.ty = .i32 ∨ a.ty = .u32) →
      (s.Issues c (.popc a) → s.LaneResult c (.popc a) a 0 fun l =>
        BitVec.ofNat 32 ((List.range 32).countP fun n => (c.word1 (.popc a) l).getLsbD n)) ∧
      (s.Issues c (.clz a) → s.LaneResult c (.clz a) a 0 fun l =>
        BitVec.ofNat 32 ((List.range 32).takeWhile fun n => !(c.word1 (.clz a) l).getLsbD (31 - n)).length) ∧
      (s.Issues c (.brev a) → s.LaneResult c (.brev a) a 0 fun l => (c.word1 (.brev a) l).reverse)) ∧
    (a.ty = .d →
      (s.Issues c (.popc a) → s.PairResult c (.popc a) a fun l =>
        BitVec.ofNat 64 ((List.range 64).countP fun n => (c.val1 (.popc a) l).getLsbD n)) ∧
      (s.Issues c (.clz a) → s.PairResult c (.clz a) a fun l =>
        BitVec.ofNat 64 ((List.range 64).takeWhile fun n => !(c.val1 (.clz a) l).getLsbD (63 - n)).length) ∧
      (s.Issues c (.brev a) → s.PairResult c (.brev a) a fun l => (c.val1 (.brev a) l).reverse))

/-- addx of R242 and R259 under .u32: the sum of A, B and the carry of pC is in flight for D, and the carry out for pC.
Products and quotients under .i32 and .u32, in lanes and in the uniform forms (R277): mulhi is the high word of the 64-bit product
(R284), mulw the whole of it, in a pair or a scalar (R285), div and rem truncate towards zero, with the results of R286 for a zero divisor
and for the most negative value by −1. -/
def Obligations.CarriesAndProducts : Prop :=
   (∀ (s : State) (c : Ctx) (a : VSlot), a.ty = .u32 → a.u = false → s.Issues c (.addx a) →
      let n := a.sc.toNat % 8
      let y := fun l : Fin 64 => (c.word1 (.addx a) l).toNat + (c.word2 (.addx a) l).toNat + ((c.b.pred n).getLsbD l.val).toNat
      s.LaneResult c (.addx a) a 0 (fun l => BitVec.ofNat 32 (y l)) ∧
        s.PredResult c (.addx a) a n fun l => decide (2 ^ 32 ≤ y l)) ∧
   (∀ (s : State) (c : Ctx) (a : VSlot), (a.ty = .i32 ∨ a.ty = .u32) →
      let val := intOfWord a.ty
      (s.Issues c (.mulhi a) → s.WordResult c (.mulhi a) a fun x y _ => BitVec.ofInt 32 (val x * val y / 2 ^ 32)) ∧
      (s.Issues c (.mulw a) → a.u = false → s.PairResult c (.mulw a) a fun l =>
        BitVec.ofInt 64 (val (c.word1 (.mulw a) l) * val (c.word2 (.mulw a) l))) ∧
      (∀ n, s.Issues c (.mulw a) → a.u = true → a.xlm = .none → uniformActs a.pr = true → classOf a.dst = .scalar n →
        let x := fun code => val ((c.readUni a.ty a.imm9 code).setWidth 32)
        s.UniResult c (.mulw a) n (BitVec.ofInt 64 (x a.sa * x a.sb))) ∧
      (s.Issues c (.div a) → s.WordResult c (.div a) a fun x y _ =>
        if y = 0 then -1
        else if a.ty = .i32 ∧ x = 0x80000000 ∧ y = -1 then (if a.sat then 0x7FFFFFFF else x)
        else if a.ty = .i32 then x.sdiv y else x.udiv y) ∧
      (s.Issues c (.rem a) → s.WordResult c (.rem a) a fun x y _ =>
        if y = 0 then x else if a.ty = .i32 then x.srem y else x.umod y))

/-- R251: fabs clears the sign bit of each sub-element and fneg inverts it, under .f32, .bf2, .hf2, .e43 and .e52, and neither quiets
a NaN nor raises a flag; a uniform form that acts does so on the low word of a scalar and clears the high one (R277), whatever its lane
modifier (assumption 119). -/
def Obligations.SignBits : Prop :=
  (∀ (s : State) (c : Ctx) (a : VSlot) (n : Nat), a.u = true → uniformActs a.pr = true → classOf a.dst = .scalar n →
    (s.Issues c (.fabs a) → s.UniResult c (.fabs a) n (c.uniOf a fun x _ => x &&& 0x7FFFFFFF)) ∧
    (s.Issues c (.fneg a) → s.UniResult c (.fneg a) n (c.uniOf a fun x _ => (x ^^^ 0x80000000) &&& 0xFFFFFFFF))) ∧
  ∀ (s : State) (c : Ctx) (a : VSlot) (m : Word), a.u = false →
    (a.ty = .f32 ∧ m = 0x80000000 ∨ (a.ty = .bf2 ∨ a.ty = .hf2) ∧ m = 0x80008000 ∨ (a.ty = .e43 ∨ a.ty = .e52) ∧ m = 0x80808080) →
    (s.Issues c (.fabs a) → s.LaneResult c (.fabs a) a 0 fun l => c.word1 (.fabs a) l &&& ~~~m) ∧
    (s.Issues c (.fneg a) → s.LaneResult c (.fneg a) a 0 fun l => c.word1 (.fneg a) l ^^^ m)

/-- Float arithmetic rounds the exact result once (R102, R249): under .f32, on operands that are real numbers and where the exact
result is not zero, the lane holds the code that `roundTo` gives it under RM and SAT. So do fscl (R254), fdot2 under .bf2 and .hf2 (R255),
cvt from an integer, and rcp, sqrt, rsq, exp2 and log2 where the function has a rational value (R287). frnd gives the integer that RM
picks (R252), cvt into an integer that integer or the bound of the type next to it (R273, R113); fmin and fmax give one of two inputs that are no
NaN, or the one that is none (R250); sin, cos, sincos and fexp of a zero are exact (R287, R289, R460). fclass raises the one bit of its operand's
class (R253), and fcmp compares as Table 7.2 says, −0 equal to +0 (R256). -/
def Obligations.FloatArithmetic : Prop :=
  (∀ (s : State) (c : Ctx) (a : VSlot), a.ty = .f32 → a.u = false →
    let number := fun w : Word => (valOf .fp32 w.toNat).number
    let holds := fun (i : Instr) (exact : Fin 64 → Option Rat) =>
      ∃ t r, exec i s = .next t ∧ t.InFlight c.key r ∧ r.dest = destOf a.dst ∧ r.act = c.actLanes a.pr ∧
        ∀ (l : Fin 64) (q : Rat), (c.actLanes a.pr).getLsbD l.val = true → exact l = some q → q ≠ 0 →
          r.vals.get l = BitVec.ofNat 32 (roundTo .fp32 (rmMode a.rm) a.sat (.fin q)).1
    let two := fun (i : Instr) (f : Rat → Rat → Rat) => s.Issues c i → holds i fun l =>
      match number (c.word1 i l), number (c.word2 i l) with
      | some x, some y => some (f x y)
      | _, _ => none
    let three := fun (i : Instr) (f : Rat → Rat → Rat → Rat) => s.Issues c i → holds i fun l =>
      match number (c.word1 i l), number (c.word2 i l), number (c.word3 i l) with
      | some x, some y, some z => some (f x y z)
      | _, _, _ => none
    let word := fun (i : Instr) (f : Fin 64 → Option Word) => s.Issues c i →
      ∃ t r, exec i s = .next t ∧ t.InFlight c.key r ∧ r.dest = destOf a.dst ∧ r.act = c.actLanes a.pr ∧
        ∀ (l : Fin 64) (w : Word), (c.actLanes a.pr).getLsbD l.val = true → f l = some w → r.vals.get l = w
    let one := fun (i : Instr) (rel : Rat → Rat → Prop) => s.Issues c i →
      ∃ t r, exec i s = .next t ∧ t.InFlight c.key r ∧ r.dest = destOf a.dst ∧ r.act = c.actLanes a.pr ∧
        ∀ (l : Fin 64) (x y : Rat), (c.actLanes a.pr).getLsbD l.val = true → number (c.word1 i l) = some x → rel x y → y ≠ 0 →
          r.vals.get l = BitVec.ofNat 32 (roundTo .fp32 (rmMode a.rm) a.sat (.fin y)).1
    let zero := fun (i : Instr) (f : Word → Word) => word i fun l => if c.word1 i l &&& 0x7FFFFFFF = 0 then some (f (c.word1 i l)) else none
    let pick := fun (i : Instr) (takes : Word → Word → Bool) => word i fun l =>
      match nanWord (c.word1 i l), nanWord (c.word2 i l) with
      | true, true => none
      | true, false => some (c.word2 i l)
      | false, true => some (c.word1 i l)
      | false, false => some (if takes (c.word1 i l) (c.word2 i l) then c.word2 i l else c.word1 i l)
    (two (.fadd a) (fun x y => x + y) ∧ two (.fsub a) (fun x y => x - y) ∧ two (.fmul a) (fun x y => x * y) ∧
      three (.fma a) (fun x y z => x * y + z) ∧ three (.fms a) (fun x y z => x * y - z) ∧ three (.fnma a) (fun x y z => z - x * y)) ∧
    (pick (.fmin a) (fun x y => decide (floatRank y < floatRank x)) ∧ pick (.fmax a) (fun x y => decide (floatRank x < floatRank y))) ∧
    (one (.rcp a) (fun x y => x * y = 1) ∧ one (.sqrt a) (fun x y => 0 < y ∧ y * y = x) ∧ one (.rsq a) (fun x y => 0 < y ∧ x * y * y = 1) ∧
      one (.exp2 a) (fun x y => ∃ n : Int, -1024 < n ∧ n < 1024 ∧ x = n ∧ y = pow2 n) ∧
      one (.log2 a) (fun x y => ∃ n : Int, x = pow2 n ∧ y = n)) ∧
    (zero (.sin a) (fun w => w) ∧ zero (.cos a) (fun _ => 0x3F800000) ∧ zero (.sincos a) (fun w => w) ∧ zero (.fexp a) (fun _ => 0x3F800000)) ∧
    one (.frnd a) (fun x y => y = (roundInt (rmMode a.rm) x).1) ∧
    (s.Issues c (.fscl a) → holds (.fscl a) fun l =>
      let n := (c.word2 (.fscl a) l).toInt
      if -4000 ≤ n ∧ n ≤ 4000 then (number (c.word1 (.fscl a) l)).map fun x => x * pow2 n else none) ∧
    ((convSrc a = .i32 ∨ convSrc a = .u32) → s.Issues c (.cvt a) → holds (.cvt a) fun l =>
      some (intOfWord (convSrc a) (c.word1 (.cvt a) l) : Int)) ∧
    (s.Issues c (.fclass a) → s.LaneResult c (.fclass a) a 0 fun l =>
      let w := c.word1 (.fclass a) l
      let e := w.extractLsb' 23 8
      let m := w.extractLsb' 0 23
      if e = 255 then (if m = 0 then (if w.msb then 0x001 else 0x080) else if m.msb then 0x200 else 0x100)
      else if e = 0 then (if m = 0 then (if w.msb then 0x008 else 0x010) else (if w.msb then 0x004 else 0x020))
      else (if w.msb then 0x002 else 0x040)) ∧
    (s.Issues c (.fcmp a) → s.PredResult c (.fcmp a) a (a.dst.toNat % 8) fun l =>
      let x := c.word1 (.fcmp a) l
      let y := c.word2 (.fcmp a) l
      let un := nanWord x || nanWord y
      let same := x == y || (x ||| y) &&& 0x7FFFFFFF == 0
      let less := fun p q => !same && decide (floatRank p < floatRank q)
      match a.imm9.toNat % 8 with
      | 0 => !un && same
      | 1 => un || !same
      | 2 => !un && less x y
      | 3 => !un && (less x y || same)
      | 4 => !un && less y x
      | 5 => !un && (less y x || same)
      | 6 => !un
      | _ => un)) ∧
  (∀ (s : State) (c : Ctx) (a : VSlot), (a.ty = .i32 ∨ a.ty = .u32) → a.u = false → convSrc a = .f32 → s.Issues c (.cvt a) →
    ∃ t r, exec (.cvt a) s = .next t ∧ t.InFlight c.key r ∧ r.dest = destOf a.dst ∧ r.act = c.actLanes a.pr ∧
      ∀ (l : Fin 64) (x : Rat), (c.actLanes a.pr).getLsbD l.val = true → (valOf .fp32 (c.word1 (.cvt a) l).toNat).number = some x →
        r.vals.get l = wordOfInt a.ty true (roundInt (rmMode a.rm) x).1) ∧
  ∀ (s : State) (c : Ctx) (a : VSlot), (a.ty = .bf2 ∨ a.ty = .hf2) → s.Issues c (.fdot2 a) →
    let half := fun (w : Word) (k : Nat) => (valOf (if a.ty = .bf2 then .bf16 else .fp16) (subAt 16 w k)).number
    ∃ t r, exec (.fdot2 a) s = .next t ∧ t.InFlight c.key r ∧ r.dest = destOf a.dst ∧ r.act = c.actLanes a.pr ∧
      ∀ (l : Fin 64) (a0 a1 b0 b1 z : Rat), (c.actLanes a.pr).getLsbD l.val = true → half (c.word1 (.fdot2 a) l) 0 = some a0 →
        half (c.word1 (.fdot2 a) l) 1 = some a1 → half (c.word2 (.fdot2 a) l) 0 = some b0 → half (c.word2 (.fdot2 a) l) 1 = some b1 →
        (valOf .fp32 (c.word3 (.fdot2 a) l).toNat).number = some z → a0 * b0 + a1 * b1 + z ≠ 0 →
        r.vals.get l = BitVec.ofNat 32 (roundTo .fp32 (rmMode a.rm) a.sat (.fin (a0 * b0 + a1 * b1 + z))).1

/-- The conditions of Table 7.2 under .i32, .u32 and .d (R256): eq and ne; lt, le, gt and ge, signed under .i32 and .d and unsigned under
.u32; and the two that are unsigned under every type; in every acting lane of the predicate named. -/
def Obligations.Comparison : Prop :=
  ∀ (s : State) (c : Ctx) (a : VSlot), s.Issues c (.cmp a) →
    let holds := fun (x y : Int) (p q : Nat) => match a.imm9.toNat % 8 with
      | 0 => decide (x = y)
      | 1 => decide (x ≠ y)
      | 2 => decide (x < y)
      | 3 => decide (x ≤ y)
      | 4 => decide (y < x)
      | 5 => decide (y ≤ x)
      | 6 => decide (p < q)
      | _ => decide (q ≤ p)
    ((a.ty = .i32 ∨ a.ty = .u32) → s.PredResult c (.cmp a) a (a.dst.toNat % 8) fun l =>
      let x := c.word1 (.cmp a) l
      let y := c.word2 (.cmp a) l
      holds (intOfWord a.ty x) (intOfWord a.ty y) x.toNat y.toNat) ∧
    (a.ty = .d → s.PredResult c (.cmp a) a (a.dst.toNat % 8) fun l =>
      let x := c.val1 (.cmp a) l
      let y := c.val2 (.cmp a) l
      holds x.toInt y.toInt x.toNat y.toNat)

/-- R257: sel writes A in acting lanes where p(C) is true and B where it is false, bit patterns copied, nothing raised; under .d
both words of the pair. -/
def Obligations.Selection : Prop :=
  ∀ (s : State) (c : Ctx) (a : VSlot), s.Issues c (.sel a) →
    let p := c.b.pred (a.sc.toNat % 8)
    (a.ty ≠ .d → s.LaneResult c (.sel a) a 0 fun l => if p.getLsbD l.val then c.word1 (.sel a) l else c.word2 (.sel a) l) ∧
      (a.ty = .d → s.PairResult c (.sel a) a fun l => if p.getLsbD l.val then c.val1 (.sel a) l else c.val2 (.sel a) l)

/-- R258: pand, por and pxor combine p(A) and p(B), pnot writes not p(A) and pmov writes p(A), in each acting lane of p(D); TY is
.i32. -/
def Obligations.PredicateLogic : Prop :=
  ∀ (s : State) (c : Ctx) (a : VSlot),
    let x := c.b.pred (a.sa.toNat % 8)
    let y := c.b.pred (a.sb.toNat % 8)
    let d := a.dst.toNat % 8
    (s.Issues c (.pand a) → a.ty = .i32 ∧ s.PredResult c (.pand a) a d fun l => x.getLsbD l.val && y.getLsbD l.val) ∧
      (s.Issues c (.por a) → a.ty = .i32 ∧ s.PredResult c (.por a) a d fun l => x.getLsbD l.val || y.getLsbD l.val) ∧
      (s.Issues c (.pxor a) → a.ty = .i32 ∧ s.PredResult c (.pxor a) a d fun l => x.getLsbD l.val != y.getLsbD l.val) ∧
      (s.Issues c (.pnot a) → a.ty = .i32 ∧ s.PredResult c (.pnot a) a d fun l => !x.getLsbD l.val) ∧
      (s.Issues c (.pmov a) → a.ty = .i32 ∧ s.PredResult c (.pmov a) a d fun l => x.getLsbD l.val)

/-- The whole-bough forms of the permuting operations (R262, R264, S = 0) on words: xswp reads lane l xor d, xrot lane (l + n) mod 64, xbc
lane n, and xshf the lane that B names, or the fill operand where that is past lane 63.
Moves and reads: mov copies its source in every acting lane (R271), li writes its immediate (R248), and kget reads the flag's register as it
stands at issue (R36, R276).
The retired operations (R460, Table 16.5): sad adds the absolute differences of four unsigned bytes to C, and crc takes the four bytes of B
into the reflected CRC-32C of A, lowest byte first. -/
def Obligations.MovesAndPermutations : Prop :=
    ((∀ (s : State) (c : Ctx) (a : VSlot), a.ty = .i32 → a.imm9.getLsbD 8 = false →
        let x := fun l : Nat => (laneOf (c.read .i32 a.imm9 a.sa) l).setWidth 32
        let n := a.imm9.toNat % 64
        (s.Issues c (.xswp a) → s.LaneResult c (.xswp a) a 0 fun l => x (l.val ^^^ n)) ∧
          (s.Issues c (.xrot a) → s.LaneResult c (.xrot a) a 0 fun l => x ((l.val + n) % 64)) ∧
          (s.Issues c (.xbc a) → s.LaneResult c (.xbc a) a 0 fun _ => x n) ∧
          (s.Issues c (.xshf a) → s.LaneResult c (.xshf a) a 0 fun l =>
            if (c.word2 (.xshf a) l).toNat < 64 then x (c.word2 (.xshf a) l).toNat
            else (laneOf (c.readFill .i32 a.imm9 a.sc) l.val).setWidth 32)) ∧
     (∀ (s : State) (c : Ctx) (a : VSlot), a.u = false →
        (a.ty ≠ .d → s.Issues c (.mov a) → s.LaneResult c (.mov a) a 0 fun l => c.word1 (.mov a) l) ∧
        (s.Issues c (.li a) → s.LaneResult c (.li a) a 0 fun _ => if c.hasXimm then c.vx ++ a.imm9 else a.imm9.signExtend 32) ∧
        (s.Issues c (.kget a) → s.LaneResult c (.kget a) a 0 fun _ =>
          let f := c.g.flag a.sa.toNat
          f.frec ++ BitVec.ofBool f.e ++ f.count))) ∧
   (∀ (s : State) (c : Ctx) (a : VSlot),
      let byte := fun (x : Word) (j : Nat) => (x.toNat / 2 ^ (8 * j) % 256 : Int)
      (s.Issues c (.sad a) → s.LaneResult c (.sad a) a 0 fun l =>
        let x := c.word1 (.sad a) l
        let y := c.word2 (.sad a) l
        c.word3 (.sad a) l + BitVec.ofNat 32 ((byte x 0 - byte y 0).natAbs + (byte x 1 - byte y 1).natAbs +
          (byte x 2 - byte y 2).natAbs + (byte x 3 - byte y 3).natAbs)) ∧
        (s.Issues c (.crc a) → s.LaneResult c (.crc a) a 0 fun l =>
          let b := fun j => (c.word2 (.crc a) l).extractLsb' (8 * j) 8
          crcByte (crcByte (crcByte (crcByte (c.word1 (.crc a) l) (b 0)) (b 1)) (b 2)) (b 3)))

/-! ### Bundles and steps -/

/-- Nothing stops the machine but the end of the run: every operation and event answers a next state in every state, and a step
faults exactly when every clock is stopped (R446, R471) and no event is to come.
The empty operations of the four slots do nothing (R51, R52, R58, R60): vnop, mnop, enop and nop.
It rests on choices of the model too (assumption 10). -/
def Obligations.NothingStops : Prop :=
   (∀ s : State, exec .vnop s = .next s ∧ exec .mnop s = .next s ∧ exec .enop s = .next s ∧ exec .nop s = .next s) ∧
   ((∀ (i : Instr) (s : State), ∃ t, exec i s = .next t) ∧
      ∀ s : State, (s.allStopped = true → step s = .fault .allClocksStopped) ∧ (s.allStopped = false → ∃ t, step s = .next t))

/-- A step runs the decoded bundle (R27, R194). Where nothing else is due and the bough at turn presents a sound bundle that no
cause holds (`Presents`), the step runs the bundle's operations in slot order and then ends the bundle (`State.finish`: channels
popped, iteration ends, delay slots, the next pc). For a bundle that is the encoding of one well-formed operation that operation runs;
one that may give up its bough's phase (wait, waitany, await, bar, refill) ends the step when it does, with the bundle's stretches
logged (R428).
It rests on choices of the model too (assumptions 26, 116). -/
def Obligations.StepRunsBundle : Prop :=
  (∀ (s u t : State) (k : Nat) (bd : Bundle) (c : Ctx), Presents s k bd c u → (bundleOps bd).find? mayGiveUp = none →
      runAll exec (bundleOps bd) u = .next t → step s = .next (t.finish c (bundleOps bd) bd.gap.toNat)) ∧
    ∀ (s u : State) (k : Nat) (i : Instr) (c : Ctx), i.isSlotOp = true → i.wf = true →
      let bd := decodeBundle (BitVec.ofNat 256 (encode i).toNat)
      Presents s k bd c u →
        ∃ t, exec i u = .next t ∧
          (mayGiveUp i = true → t.gaveUp c.key = true → step s = .next (t.endStretches c)) ∧
          ((mayGiveUp i = false ∨ t.gaveUp c.key = false) → step s = .next (t.finish c (bundleOps bd) 0))

/-- Time passes one core cycle at a time, and only when nothing is due (R23): no operation or event changes the count; a step raises it
by at most one, and by one only where no bough is to stop at a boundary, no result is to be written, no bough is to gain a level by
aging, no event of the agenda has come due that its clocks let run, and no bough issues in this core cycle; and where all of
that is so, the step raises it. The number of modules never changes.
It rests on choices of the model too (assumptions 11, 116). -/
def Obligations.TimePasses : Prop :=
  (∀ (i : Instr) (s t : State), exec i s = .next t → t.cc = s.cc ∧ t.moduleCount = s.moduleCount) ∧
    ∀ s t : State, step s = .next t → t.moduleCount = s.moduleCount ∧
      let idle := s.findBough s.stopDue = none ∧ s.findBough (fun _ b _ => b.owesWriteback s.bc) = none ∧
        s.findBough (fun _ b g => s.agingDue b g) = none ∧ takeDue s.cc s.frozen s.agenda = none ∧ s.issuer = none
      (idle → t.cc = s.cc + 1) ∧ (¬ idle → t.cc = s.cc)

/-! ### Reset and memory -/

/-- The system after reset: all state is discarded and memory is clear (R466), so it reads zero at every address and no core, die or
link holds anything; every module is in STATE 0; ports are enabled (R390), GUARD is 4,000 (R393). That the other registers listed read
zero is the model's choice (assumption 5). -/
def Obligations.ResetState : Prop :=
  let s := State.reset
  s.cc = 0 ∧ (∀ a, readByte s.mem a = 0) ∧ s.poison = [] ∧
    (∀ m, (s.module m).mstate = 0 ∧ (s.module m).pstate = 0 ∧ (s.module m).fwAddr = 0 ∧ (s.module m).fwLen = 0 ∧
      (s.module m).eqCtl = 0 ∧ (s.module m).eqWr = 0 ∧ (s.module m).invals = [] ∧ (s.module m).bcfg = 0 ∧
      (s.module m).btim = 4000 ∧ (s.module m).tcfg = 0 ∧ (s.module m).frozenAt = none ∧ (s.module m).queues = []) ∧
    (∀ k, (s.core k).l1 = [] ∧ (s.core k).fetched = [] ∧ (s.core k).mq = [] ∧ (s.core k).stamps = []) ∧
    (∀ d, (s.die d).rep = [] ∧ (s.die d).tlb = [] ∧ (s.die d).flagTab = [] ∧ (s.die d).barTab = [] ∧ (s.die d).logCtl = 0 ∧
      (s.die d).trCtl = 0) ∧
    (∀ k, (s.link k).en = true ∧ (s.link k).unacked = [] ∧ (s.link k).queue = []) ∧
    s.launches = [] ∧ s.groves = [] ∧ s.boughs = [] ∧ s.ops = [] ∧ s.copies = [] ∧ s.writes = [] ∧ s.msgs = [] ∧ s.agenda = []

/-- Memory after reset is in its canonical form. -/
def Obligations.MemoryCanonicalAtReset : Prop := State.reset.memoryWf = true

/-- The canonical form of memory is kept: from any state whose memory has it, whatever an operation, an event or a step does, memory
has it again. -/
def Obligations.MemoryCanonicalKept : Prop :=
  (∀ (i : Instr) (s t : State), s.memoryWf = true → exec i s = .next t → t.memoryWf = true) ∧
    ∀ s t : State, s.memoryWf = true → step s = .next t → t.memoryWf = true

/-- Memory is its bytes: bytes written from an address up read back there and nowhere else, in little-endian order for a number (R1), the
canonical form is kept, and memories in that form that read alike are equal. -/
def Obligations.MemoryReadsBack : Prop :=
  (∀ (m : Memory) (a n : Nat) (xs : List Byte), Memory.wf m = true →
      readByte (writeBytes m a xs) n = if a ≤ n ∧ n < a + xs.length then xs.getD (n - a) 0 else readByte m n) ∧
    (∀ (m : Memory) (a n x : Nat), Memory.wf m = true → readNum (writeBytes m a (bytesOfNat n x)) a n = x % 2 ^ (8 * n)) ∧
    (∀ (m : Memory) (a : Nat) (xs : List Byte), Memory.wf m = true → Memory.wf (writeBytes m a xs) = true) ∧
    ∀ m p : Memory, Memory.wf m = true → Memory.wf p = true → (∀ a, readByte m a = readByte p a) → m = p

/-! ### Results, traps, loops -/

/-- RESULT_WRITEBACK of one result (R26, R64, R78, R81, R117), where no channel's word is among the bough's (those go in the order of their
writes, R381). Where a single result of a bough is due before this bough cycle and nothing is to be
latched, it is written in the lanes in which it acts (a scalar result whole, none to s0), its flags enter cr.fflags, it is in
flight no longer, and every other register of the bough is as before. Where a single result enters its latch or its predicate in
this bough cycle, a predicate takes it in the lanes in which it acts (none to p0), and a result of the vector path enters lv0 as
lv0 moves to lv1. -/
def Obligations.ResultWriteback : Prop :=
  ∀ (s : State) (k : Nat) (b : Bough) (g : Grove) (r : Result), s.bough? k = some b → s.grove? b.grove = some g → b.lands = true →
    (∀ q ∈ b.results, q.isWord = false) →
    let past := b.results.filter fun q => decide (q.due < s.bc)
    let now := b.results.filter fun q => !q.latched && decide (q.due ≤ s.bc)
    (past = [r] → now = [] → ∃ t x, exec (.resultWriteback k) s = .next t ∧ t.bough? k = some x ∧
      x.results = (b.results.filter fun q => !decide (q.due < s.bc)).map (fun q => { q with latched := q.latched || decide (q.due ≤ s.bc) }) ∧
      x.p = b.p ∧ x.pc = b.pc ∧ ((∀ n, r.dest ≠ .creg n) → x.fflags = b.fflags ||| r.flags) ∧
      (∀ n, r.dest = .vreg n → n < 128 → x.vreg n = mergeLanes r.act r.vals (b.vreg n) ∧ (∀ m, m ≠ n → x.vreg m = b.vreg m) ∧ x.o = b.o ∧ x.s = b.s) ∧
      (∀ n, r.dest = .oreg n → n < 8 → x.oreg n = mergeLanes r.act r.vals (b.oreg n) ∧ (∀ m, m ≠ n → x.oreg m = b.oreg m) ∧ x.v = b.v ∧ x.s = b.s) ∧
      (∀ n, r.dest = .scalar n → n < 32 → x.sreg n = (if n = 0 then 0 else r.sval) ∧ (∀ m, m ≠ n → x.sreg m = b.sreg m) ∧ x.v = b.v ∧ x.o = b.o) ∧
      (∀ n, r.dest = .row n → ∃ g', t.grove? b.grove = some g' ∧ g'.row n = mergeLanes r.act r.vals (g.row n) ∧
        (∀ m, m ≠ n → g'.row m = g.row m) ∧ x.v = b.v ∧ x.o = b.o ∧ x.s = b.s)) ∧
    (past = [] → now = [r] →
      (∀ n, r.dest = .pred n → n < 8 → ∃ t x, exec (.resultWriteback k) s = .next t ∧ t.bough? k = some x ∧
        (∀ l < 64, (x.pred n).getLsbD l =
          if n ≠ 0 ∧ r.act.getLsbD l = true then (r.vals.toArray.getD l 0).getLsbD 0 else (b.pred n).getLsbD l) ∧
        (∀ m, m ≠ n → x.pred m = b.pred m) ∧ x.v = b.v ∧ x.o = b.o ∧ x.s = b.s ∧ x.pc = b.pc) ∧
      (∀ n, r.dest = .vreg n → r.path = .vector → ∃ t x, exec (.resultWriteback k) s = .next t ∧ t.bough? k = some x ∧
        x.lv0 = mergeLanes r.act r.vals (b.vreg n) ∧ x.lv1 = b.lv0 ∧ x.lm0 = b.lm0 ∧ x.lf0 = b.lf0 ∧ x.v = b.v ∧ x.p = b.p ∧ x.s = b.s))

/-- Taking a trap and returning from one (R192, R195, R366, R469). A handled trap saves cause, epc, tval, frec, the delay-slot state and the lane
mask, sets tstat.IN, goes to cr.tvec without its phase, eligible from 2 bc later; it leaves every register of the bough, every other
bough and every other part of the system as it was. A trap in a handler, or without one, stops the bough with its registers, pc and
control registers as they were, its launch keeps a report of the bough, the trap and cr.cause and says UNHANDLED, and an event tells the host
of it with cr.cause as WORD; nothing else changes. rett restores what entry saved, of the pending target the bits of a bundle's address.
It rests on choices of the model too (assumptions 18, 22, 140). -/
def Obligations.TrapEntry : Prop :=
  (∀ (s : State) (k n : Nat) (b : Bough) (w : Word) (epc tval : DWord) (frec : BitVec 7), s.bough? k = some b →
    (b.tstatIn = false → b.tvec ≠ 0 →
      ∃ x, (s.takeTrap k w epc tval frec n).bough? k = some x ∧
        s.takeTrap k w epc tval frec n = { s with boughs := (s.takeTrap k w epc tval frec n).boughs } ∧
        (∀ j, j ≠ k → (s.takeTrap k w epc tval frec n).bough? j = s.bough? j) ∧ b.SameRegisters x ∧
        x.cause = w ∧ x.epc = epc ∧ x.tval = tval ∧ x.frec = frec ∧ x.tstatIn = true ∧ x.tstatDsn = b.dsLeft ∧ x.tdst = b.dsTarget ∧
        x.tvmask = b.vmask ∧ x.vmask = BitVec.allOnes 64 ∧ x.dsLeft = 0 ∧ x.pc = b.tvec ∧ x.phase = none ∧ x.earliest = n + 2 ∧
        x.status = .waiting (.cycle (n + 2)) ∧ x.loops = b.loops) ∧
    ((b.tstatIn = true ∨ b.tvec = 0) →
      let t := s.takeTrap k w epc tval frec n
      t = { s with boughs := t.boughs, launches := t.launches, modules := t.modules } ∧
      (∃ x, t.bough? k = some x ∧ b.SameRegisters x ∧ x.status = .unhandled ∧ x.phase = none ∧ x.pc = b.pc ∧ x.cause = b.cause ∧
        x.epc = b.epc ∧ x.tval = b.tval ∧ x.frec = b.frec ∧ x.tstatIn = b.tstatIn ∧ x.vmask = b.vmask ∧ x.loops = b.loops) ∧
      (∀ j, j ≠ k → t.bough? j = s.bough? j) ∧ (∀ j, j ≠ launchOfKey k → tget t.launches j = tget s.launches j) ∧
      ∀ l g, tget s.launches (launchOfKey k) = some l → s.grove? (groveOf k) = some g →
        tget t.launches (launchOfKey k) = some { l with unhandled := true, reports := l.reports ++ [{ bough := k, trap := w, cause := b.cause }] } ∧ (∀ m, m ≠ moduleOf g.die → t.module m = s.module m) ∧
        t.module (moduleOf g.die) = (s.module (moduleOf g.die)).post 5 (BitVec.ofNat 512 (packFields [(0x74, 0, 8),
          (launchOfKey k, 32, 32), (s.cc, 64, 64), (b.cause.toNat, 128, 64), (l.recVa.toNat, 192, 64)])))) ∧
    ∀ (s : State) (c : Ctx) (a : KSlot), s.Issues c (.rett a) → ∃ t x, exec (.rett a) s = .next t ∧ t.bough? c.key = some x ∧
      c.b.SameRegisters x ∧ x.pc = c.b.epc ∧ x.dsLeft = c.b.tstatDsn ∧ x.dsTarget = c.b.tdst &&& ~~~0x1F ∧ x.vmask = c.b.tvmask ∧ x.tstatIn = false ∧
      t.groves = s.groves ∧ t.mem = s.mem

/-- What an operation meets at issue it takes as a trap (R41, R75, R191, R194): it has none of its own effect, cr.cause is the cause, cr.epc
the bundle's address; an operation that R75 refuses, a transfer in a delay slot (DELAY_SLOT_CONTROL: R75, R158), or one that steps 6 to 9 of R194 refuse, gives cr.tval
the bundle's address, and one that finds a flag with E set gives the fault's cause, bundle and record. -/
def Obligations.TrapAtIssue : Prop :=
  ∀ (s : State) (c : Ctx) (i : Instr) (x : IssueTrap), i.isSlotOp = true → i ≠ .vnop → i ≠ .mnop → i ≠ .enop → i ≠ .nop →
    s.ctx? = some c → c.issueTrap i = some x →
      exec i s = .next (s.takeTrap c.key x.cause c.b.pc x.tval x.frec c.t) ∧
        (∀ y, c.opCause i = some y → x = { cause := causeWord y.code 0, tval := c.b.pc, frec := 0 }) ∧
        (c.opCause i = none → c.b.dsLeft ≠ 0 → isTransfer i = true → x = { cause := causeWord 0x04 0, tval := c.b.pc, frec := 0 }) ∧
        (∀ y, c.opCause i = none → (c.b.dsLeft = 0 ∨ isTransfer i = false) → c.laterCause i = some y →
          x = { cause := causeWord y.code 0, tval := c.b.pc, frec := 0 }) ∧
        (∀ f, c.opCause i = none → (c.b.dsLeft = 0 ∨ isTransfer i = false) → c.laterCause i = none → c.flagFault i = some f →
          x = { cause := causeWord f.cause 0, tval := f.pc, frec := f.frec })

/-- Delay slots and loops (R160, R165, R166): a taken transfer at c is followed by the bundles at c + 32 and c + 64 and then by its target; at the
end bundle of the innermost loop a count above 1 goes down and the loop goes on at its start, a count of 1 leaves the loop. -/
def Obligations.DelaySlotsAndLoops : Prop :=
  (∀ (b : Bough) (c target : DWord) (x y z : Issue) (n : Nat), b.dsLeft = 0 → b.loops = [] →
    x.returned = false → x.taken = some target → y.returned = false → z.returned = false →
      let b1 := b.advance c x (endIteration c n 5 b).2
      let b2 := b1.advance b1.pc y (endIteration b1.pc n 5 b1).2
      let b3 := b2.advance b2.pc z (endIteration b2.pc n 5 b2).2
      b1.pc = c + 32 ∧ b1.dsLeft = 2 ∧ b2.pc = c + 64 ∧ b2.dsLeft = 1 ∧ b3.pc = target ∧ b3.dsLeft = 0) ∧
  (∀ (b : Bough) (l : LoopLevel) (n : Nat) (x : Issue), b.loops = [l] → b.dsLeft = 0 → (∀ j : Fin 4, b.steps[j].depth = 0) →
    x.returned = false → x.taken = none → x.jump = none →
      let e := endIteration l.last n 5 b
      (1 < l.count.toNat → e.1.loops = [{ l with count := l.count - 1 }] ∧ (e.1.advance l.last x e.2).pc = l.start) ∧
      (l.count = 1 → e.1.loops = [] ∧ (e.1.advance l.last x e.2).pc = l.last + 32))

/-! ### The memory slot -/

/-- Scratchpad operations enter the schedule of their grove and change nothing else (R71, R129, R208 to R211, R231, R232): lds, lda and ldsu read at issue + 1
for lm0 or the scalar at issue + 3, sts, sta and ppsv write at issue + 2, atoms acts at issue + 3, ppld reads at issue + 1. Lanes are those in
which the operation acts, at the addresses of R57; a uniform operation under !p0 does nothing (R203).
It rests on choices of the model too (assumption 28). -/
def Obligations.ScratchpadIssue : Prop :=
  ∀ (s : State) (c : Ctx) (a : MSlot),
    let lanes := (lanesOf (c.actLanes a.pr)).map fun l => (l, (c.laneAddr a l).toNat)
    (s.Issues c (.lds a) → s.Schedules c (.lds a) 1
      (.load (szBytes a.sz) (szSigned a.sz) lanes (destRegs a.dt (szRegs a.sz)) .memory (c.t + 3))) ∧
    (s.Issues c (.lda a) → s.Schedules c (.lda a) 1 (.load 4 false lanes [destOf a.dt] .memory (c.t + 3))) ∧
    (s.Issues c (.sts a) → s.Schedules c (.sts a) 2
      (.store (lanes.map fun x => numCells x.2 (szBytes a.sz) (c.storeData a x.1)).flatten)) ∧
    (s.Issues c (.sta a) → s.Schedules c (.sta a) 2
      (.store (lanes.map fun x => numCells x.2 4 (laneOf (c.read .i32 0 a.dt) x.1).toNat).flatten)) ∧
    (s.Issues c (.atoms a) → s.Schedules c (.atoms a) 3
      (.atomic a.sub.toNat (a.sz == .d) (lanes.map fun x => (x.1, x.2, BitVec.ofNat 64 (c.atomData a x.1),
        BitVec.ofNat 64 (c.atomData a x.1 / 2 ^ 64))) (destRegs a.dt (szRegs a.sz)))) ∧
    (uniformActs a.pr = true →
      (s.Issues c (.ldsu a) → s.Schedules c (.ldsu a) 1
        (.load (szBytes a.sz) (szSigned a.sz) [(0, (c.uniAddr a).toNat)] [destOf a.dt] .none (c.t + 3))) ∧
      (s.Issues c (.ppld a) → s.Schedules c (.ppld a) 1
        (.loadTable (a.sub.toNat % 4) (c.segCount a) ((c.b.sreg a.sb.toNat).toNat + c.offset a).toNat)) ∧
      (s.Issues c (.ppsv a) → s.Schedules c (.ppsv a) 2
        (.store ((c.g.tables.toArray.getD (a.sub.toNat % 4) []).zipIdx.map fun x =>
          segmentCells (((c.b.sreg a.sb.toNat).toNat + c.offset a).toNat + 20 * x.2) x.1).flatten))) ∧
    (uniformActs a.pr = false →
      (s.Issues c (.ldsu a) → exec (.ldsu a) s = .next s) ∧ (s.Issues c (.ppld a) → exec (.ppld a) s = .next s) ∧
      (s.Issues c (.ppsv a) → exec (.ppsv a) s = .next s))

/-- What a grove's scratchpad does in a bough cycle with one act due (R1, R129, R130, R208, R219), no word of it holding a soft error. A store writes its cells and
no other byte. A load puts each of its lanes' little-endian elements, sign-extended where the operation says so, in flight for its register. An
atomic add on words puts old values in flight and leaves the sums; on one address lanes add one after another. -/
def Obligations.ScratchpadActs : Prop :=
  ∀ (s : State) (k : Nat) (g : Grove) (b : Bough) (e : Timed), s.grove? k = some g → s.bough? (boughKey k e.bnum) = some b →
    (g.pipe.filter fun x => decide (x.bc ≤ s.bc)) = [e] → g.scratchBad = [] →
    Memory.wf g.scratch = true →
    (∀ cells, e.act = .store cells → (cells.map (·.1)).Nodup → ∃ g', (s.runActs k).grove? k = some g' ∧
      (∀ n, readByte g'.scratch n = (cells.lookup n).getD (readByte g.scratch n)) ∧ g'.tiles = g.tiles ∧ g'.flags = g.flags ∧
      (s.runActs k).bough? (boughKey k e.bnum) = some b ∧ (s.runActs k).mem = s.mem) ∧
    (∀ bytes signed offs d path due, e.act = .load bytes signed offs [d] path due → (∀ x, d ≠ .scalar x) →
      (offs.map (·.1)).Nodup → (∀ x ∈ offs, x.1 < 64) →
        ∃ r, (s.runActs k).InFlight (boughKey k e.bnum) r ∧ r.dest = d ∧ r.due = due ∧ r.path = path ∧
          (∀ l < 64, r.act.getLsbD l = (offs.map (·.1)).contains l) ∧
          ∀ x ∈ offs, r.vals.toArray.getD x.1 0 =
            if signed then BitVec.ofInt 32 (intVal (8 * bytes) true (readNum g.scratch x.2 bytes))
            else BitVec.ofNat 32 (readNum g.scratch x.2 bytes)) ∧
    (∀ l m n x y d, e.act = .atomic 0 false [(l, n, BitVec.ofNat 64 x, 0), (m, n, BitVec.ofNat 64 y, 0)] [d] → l < m → m < 64 →
      x < 2 ^ 32 → y < 2 ^ 32 →
        ∃ r g', (s.runActs k).InFlight (boughKey k e.bnum) r ∧ (s.runActs k).grove? k = some g' ∧ r.dest = d ∧
          r.vals.toArray.getD l 0 = BitVec.ofNat 32 (readNum g.scratch n 4) ∧
          r.vals.toArray.getD m 0 = BitVec.ofNat 32 (readNum g.scratch n 4 + x) ∧
          readNum g'.scratch n 4 = (readNum g.scratch n 4 + x + y) % 2 ^ 32 ∧
          ∀ j, (j < n ∨ n + 4 ≤ j) → readByte g'.scratch j = readByte g.scratch j)

/-- Global accesses are accepted at issue with their lanes, data, queue and flag (R57, R132, R204, R206, R207, R215, R218, R221, R222, R229): ldg, stg, ldgu, atomg, red,
settle and pref. Their registers, their grove and memory are as before; atomg and red count in OPSEQ (R430).
ldr of R213, in a launch that follows no replay input and is not recorded: lanes whose line the core's L1 holds, and of which no acquire of the
bough is yet to drop it (R141, R143), have their elements in flight at issue + 6 and the others are accepted as an operation that
completes by flag. Plain accesses of more than a word are made word by word (R136).
It rests on choices of the model too (assumptions 28, 51, 63). -/
def Obligations.GlobalIssue : Prop :=
   (∀ (s : State) (c : Ctx) (a : MSlot),
      let q := if a.q then 1 else 0
      let kf := a.kf.toNat
      (s.Issues c (.ldg a) → s.Enters c (.ldg a) false fun _ o => o.kind = .load (szBytes a.sz) (szSigned a.sz) ∧ o.queue = q ∧ o.flag = kf ∧
        o.dests = destRegs a.dt (szRegs a.sz) ∧ o.Plain c a fun _ => 0) ∧
      (s.Issues c (.stg a) → s.Enters c (.stg a) false fun _ o => o.kind = .store ∧ o.queue = q ∧ o.flag = kf ∧ o.Plain c a (c.storeData a)) ∧
      (s.Issues c (.atomg a) → s.Enters c (.atomg a) true fun _ o => o.kind = .atomg a.sub.toNat (a.sz == .d) ∧ o.queue = q ∧ o.flag = kf ∧
        o.dests = destRegs a.dt (szRegs a.sz) ∧ o.Accesses c a (c.atomData a)) ∧
      (s.Issues c (.red a) → s.Enters c (.red a) true fun _ o => o.kind = .red a.sub.toNat (a.sz == .d) ∧ o.queue = q ∧ o.flag = kf ∧
        o.Accesses c a (c.storeData a)) ∧
      (s.Issues c (.settle a) → s.Enters c (.settle a) false fun _ o => o.kind = .settle ∧ o.queue = q ∧ o.flag = kf ∧ o.Accesses c a fun _ => 0) ∧
      (s.Issues c (.pref a) → s.Enters c (.pref a) false fun _ o => o.kind = .pref ∧ o.queue = q ∧ o.flag = kf ∧
        o.lanes.map (·.lane) = lanesOf (c.actLanes a.pr) ∧ ∀ r ∈ o.lanes, r.fault = none) ∧
      (s.Issues c (.ldgu a) → s.Enters c (.ldgu a) false fun _ o => o.flag = kf ∧
        (uniformActs a.pr = true → o.kind = .load (szBytes a.sz) (szSigned a.sz) ∧ o.queue = q ∧ o.dests = [destOf a.dt] ∧
          let addr := BitVec.ofInt 64 (c.uniAddr a)
          o.lanes.map (fun r => (r.lane, r.part, r.va)) =
            (List.range (if addr.toNat % szBytes a.sz = 0 then max 1 (szBytes a.sz / 4) else 1)).map fun i => (0, i, addr + BitVec.ofNat 64 (4 * i))) ∧
        (uniformActs a.pr = false → o.kind = .pref ∧ o.lanes = [] ∧ o.dests = []))) ∧
   (∀ (s : State) (c : Ctx) (a : MSlot), s.Issues c (.ldr a) → c.l.replay = false → s.Unrecorded c.key → szRegs a.sz = 1 →
      let line := fun l : Nat => (s.core c.g.core).line? c.l.asid ((BitVec.ofInt 64 (c.laneAddr a l)).toNat / 128)
      let hit := fun l : Nat => !s.acquiring c.key && (BitVec.ofInt 64 (c.laneAddr a l)).toNat % szBytes a.sz == 0 && (line l).isSome
      ∃ t o r, exec (.ldr a) s = .next t ∧ tget t.ops s.nextOp = some o ∧ o.flag = a.kf.toNat ∧ o.bough = c.key ∧
        o.lanes.map (·.lane) = (lanesOf (c.actLanes a.pr)).filter (fun l => !hit l) ∧
        t.InFlight c.key r ∧ r.dest = destOf a.dt ∧ r.path = .memory ∧ r.due = c.t + 6 ∧
        (∀ l < 64, r.act.getLsbD l = ((c.actLanes a.pr).getLsbD l && hit l)) ∧
        (∀ l < 64, ∀ bytes, (c.actLanes a.pr).getLsbD l = true → hit l = true → line l = some bytes → szSigned a.sz = false →
          r.vals.toArray.getD l 0 = BitVec.ofNat 32 (natOfBytes ((bytes.drop ((BitVec.ofInt 64 (c.laneAddr a l)).toNat % 128)).take (szBytes a.sz)))) ∧
        t.mem = s.mem ∧ t.cores = s.cores ∧ t.groves = s.groves)

/-- Fences, beacon operations and the sequencer's operations that complete by flag are accepted at issue (R198, R199, R200, R204, R214, R225 to R228):
fence.acq, fence.rel, fence.full, bpub, bld, bseq, icinv, launch and bbar, each with what it names, no earlier to complete than
issue + 2 (icinv of no bytes in the next bough cycle). A uniform operation under !p0 does nothing and completes at issue + 2 (R203); a bpub or
bld whose index is no entry's completes there with ILLEGAL_STATE; launch hands a record's address to its queue. l1inv drops
the lines of its address space from the core's L1 at once (R214), and under !p0 does nothing.
It rests on choices of the model too (assumptions 28, 36, 38). -/
def Obligations.FenceAndBeaconIssue : Prop :=
  ∀ (s : State) (c : Ctx) (a : MSlot) (d : KSlot),
    let kf := a.kf.toNat
    let index := (c.b.sreg a.sb.toNat).toNat + c.offset a
    let fences := fun (i : Instr) (acq rel : Bool) => s.Issues c i →
      (uniformActs a.pr = true → s.Enters c i false fun t o => o.kind = .fence acq rel a.sub.toNat ∧ o.flag = kf ∧ o.lanes = [] ∧ o.dests = [] ∧
        t.agenda = s.agenda ++ [(4 * (c.t + 2), .fenceCompletion s.nextOp)]) ∧
      (uniformActs a.pr = false → s.EntersIdle c i a.kf)
    let beacon := fun (i : Instr) (p : GOp → Prop) (e : Instr) => s.Issues c i →
      (uniformActs a.pr = true → 0 ≤ index → index < 4096 → s.Enters c i false fun t o => p o ∧ o.arg0 = index.toNat ∧ o.flag = kf ∧
        o.lanes = [] ∧ o.sent = false ∧ t.agenda = s.agenda ++ [(4 * (c.t + 2), e)]) ∧
      (uniformActs a.pr = true → (index < 0 ∨ 4096 ≤ index) → s.EntersBad c i a.kf) ∧
      (uniformActs a.pr = false → s.EntersIdle c i a.kf)
    fences (.fenceAcq a) true false ∧ fences (.fenceRel a) false true ∧ fences (.fenceFull a) true true ∧
    beacon (.bpub a) (fun o => o.kind = .bpub a.sub.toNat ∧ o.arg1 = c.readUni .d 0 a.dt ∧ o.dests = []) (.bpubEnqueue s.nextOp) ∧
    beacon (.bld a) (fun o => o.kind = .bld (a.sub = 1#3) ∧ o.dests = [destOf a.dt]) (.bldCompletion s.nextOp) ∧
    (s.Issues c (.bseq a) →
      (uniformActs a.pr = true → s.Enters c (.bseq a) false fun t o => o.kind = .bseq ∧ o.flag = kf ∧ o.lanes = [] ∧ o.dests = [destOf a.dt] ∧
        t.agenda = s.agenda ++ [(4 * (c.t + 2), .bseqCompletion s.nextOp)]) ∧
      (uniformActs a.pr = false → s.EntersIdle c (.bseq a) a.kf)) ∧
    (s.Issues c (.icinv d) → s.Enters c (.icinv d) false fun t o => o.flag = d.a.toNat % 32 ∧ o.kind = .icinv ∧ o.lanes = [] ∧
      o.arg1 = c.b.sreg d.x.toNat ∧ o.arg2 = c.b.sreg d.y.toNat ∧
      (c.b.sreg d.y.toNat = 0 → t.agenda = s.agenda ++ [(4 * (c.t + 1), .icinvCompletion s.nextOp)]) ∧
      (c.b.sreg d.y.toNat ≠ 0 → t.Expects (4 * (c.t + 2)) (.icinvCompletion s.nextOp))) ∧
    (s.Issues c (.bbar d) → s.Enters c (.bbar d) false fun t o => o.flag = d.x.toNat ∧ o.kind = .bbar d.a.toNat d.b.toNat ∧ o.lanes = [] ∧
      o.sent = false ∧ t.agenda = s.agenda ++ [(4 * (c.t + 2), .bbarEnqueue s.nextOp)]) ∧
    (s.Issues c (.launch d) → ∃ t o, exec (.launch d) s = .next t ∧
      t = { s with ops := t.ops, msgs := t.msgs, nextOp := s.nextOp + 2, agenda := t.agenda, free := t.free } ∧
      tget t.ops s.nextOp = some o ∧ o.flag = d.a.toNat % 32 ∧ o.kind = .launch (d.b.toNat % 64) ∧ o.bough = c.key ∧ o.issued = c.t ∧
      o.lanes = [] ∧ (∀ k, k ≠ s.nextOp → tget t.ops k = tget s.ops k) ∧
      tget t.msgs (s.nextOp + 1) =
        some (.submit (moduleOf c.g.die) (d.b.toNat % 64) (c.b.sreg d.x.toNat) c.l.asid s.nextOp) ∧
      t.Expects (4 * (c.t + 2)) (.launchAcceptance (s.nextOp + 1) (BitVec.ofNat 32 (s.nextOp + 1)))) ∧
    (s.Issues c (.l1inv a) →
      (uniformActs a.pr = true → ∃ t, exec (.l1inv a) s = .next t ∧ t = { s with cores := t.cores } ∧ (∀ k, k ≠ c.g.core → t.core k = s.core k) ∧
        t.core c.g.core = { s.core c.g.core with l1 := (s.core c.g.core).l1.filter fun e => e.asid != c.l.asid }) ∧
      (uniformActs a.pr = false → exec (.l1inv a) s = .next s))

/-! ### The engine slot -/

/-- Copies are accepted at issue with every scalar register they name as read then (R300 to R308, R310): cpy, cpyr, cpym, cpyg, cpys,
cpyf and cpyc. One beyond the 32 of its bough completes at issue + 2, as does one that R305 refuses and one of no bytes; every other may
start from the next bough cycle. Registers, groves and memory are as before.
Unless an earlier fence, bpub, bld.acq or bbar of its bough holds it back (`State.heldByOp`, R140, R141, assumption 35), a copy owns its
destination lines from issue on (R147).
cpyx and tstamp (R309, R310, R312). cpyx marks the earlier copies of its grove that carry its tag (every tag for 0) and have not
completed as cancelled, and waits for them, at once unless an earlier operation of those four holds it back; tstamp reads its mark. Both are accepted in the
issue cycle and complete no earlier than issue + 2.
It rests on choices of the model too (assumptions 20, 35, 64, 69). -/
def Obligations.CopiesIssue : Prop :=
   (∀ (s : State) (c : Ctx) (a : CSlot),
      let enters := fun (i : Instr) (form : CopyForm) => s.Issues c i → s.EntersCopy c i a fun t o =>
        (∀ k, k ≠ s.nextOp → tget t.copies k = tget s.copies k) ∧ o.form = form ∧ o.src = c.b.sreg a.src.toNat ∧
        o.dst = c.b.sreg a.dstb.toNat ∧ o.shape0 = c.b.sreg a.shp.toNat ∧
        (a.shp.toNat < 31 → o.shape1 = c.b.sreg (a.shp.toNat + 1)) ∧ (a.src.toNat < 31 → o.src1 = c.b.sreg (a.src.toNat + 1)) ∧
        (a.dstb.toNat < 31 → o.dst1 = c.b.sreg (a.dstb.toNat + 1)) ∧ o.refused = o.refusal c.l a.src.toNat a.dstb.toNat ∧
        let full := 32 ≤ (s.copies.filter fun e => e.2.bough == c.key && !e.2.preload).length
        let rows := o.shape0.toNat % 2 ^ 16
        let rlen := o.shape0.toNat / 2 ^ 16 % 2 ^ 21
        (full → o.life = .over ∧ t.agenda = s.agenda ++ [(4 * (c.t + 2), .copyCompletion s.nextOp)]) ∧
        (¬ full → (o.refused = true ∨ rows = 0 ∨ rlen = 0) →
          o.life = .empty ∧ t.agenda = s.agenda ++ [(4 * (c.t + 2), .copyCompletion s.nextOp)]) ∧
        (¬ full → o.refused = false → rows ≠ 0 → rlen ≠ 0 → o.life = .waiting ∧ t.Expects (4 * (c.t + 1)) (.copyStart s.nextOp) ∧
          o.owns = if s.heldByOp c.key s.nextOp then none else some s.nextOp)
      enters (.cpy a) .plain ∧ enters (.cpyr a) .relay ∧ enters (.cpym a) .multi ∧ enters (.cpyg a) .gather ∧
        enters (.cpys a) .scatter ∧ enters (.cpyf a) .fill ∧ enters (.cpyc a) (.convert (c.l.fslot a.fsSlot.toNat))) ∧
   (∀ (s : State) (c : Ctx) (a : CSlot),
      let full := 32 ≤ (s.copies.filter fun e => e.2.bough == c.key && !e.2.preload).length
      let bad := a.loc = 2#3 ∧ nameClean (c.b.sreg a.shp.toNat) = false
      let hit := fun x : CopyOp => decide (x.order < s.nextOp) && x.cancelledBy (groveOf c.key) a.tag.toNat
      let same := fun t : State => ∀ k, k ≠ s.nextOp → tget t.copies k = tget s.copies k
      (s.Issues c (.cpyx a) → s.EntersCopy c (.cpyx a) a fun t o => o.form = .cancel ∧
        (full → o.life = .over) ∧ (¬ full → bad → o.life = .empty) ∧
        (full ∨ bad → same t ∧ t.agenda = s.agenda ++ [(4 * (c.t + 2), .cpyxCompletion s.nextOp)]) ∧
        (¬ full → ¬ bad → t.Expects (4 * (c.t + 2)) (.cpyxCompletion s.nextOp) ∧
          (s.heldByOp c.key s.nextOp = true → o.life = .waiting ∧ o.awaits = [] ∧ same t) ∧
          (s.heldByOp c.key s.nextOp = false → o.life = .running ∧ o.awaits = (t.copies.filter fun e => hit e.2).map (·.1) ∧
            ∀ k x, k ≠ s.nextOp → tget s.copies k = some x → tget t.copies k = some { x with
              cancelled := x.cancelled || (hit x && (x.life == .waiting || x.life == .running)) }))) ∧
      (s.Issues c (.tstamp a) → s.EntersCopy c (.tstamp a) a fun t o => o.form = .stamp a.src.toNat ∧
        same t ∧ (full → o.life = .over) ∧ (¬ full → bad → o.life = .empty) ∧
        (full ∨ bad → t.agenda = s.agenda ++ [(4 * (c.t + 2), .tstampCompletion s.nextOp)]) ∧
        (¬ full → ¬ bad → o.life = .waiting ∧ t.Expects (4 * (c.t + 2)) (.tstampCompletion s.nextOp))))

/-- Matrix operations are accepted at issue with their descriptors, format slots and index lanes read (R321, R323, R330): mma, mmag, mmas,
mmags, mmap, mzero, mtr, mtr.sp and mscl. -/
def Obligations.MatrixIssue : Prop :=
  ∀ (s : State) (c : Ctx) (a : XSlot),
    let enters := fun (i : Instr) (kind : MatKind) => s.Issues c i → s.EntersMatrix c i kind a
    enters (.mma a) .mma ∧ enters (.mmag a) .mmag ∧ enters (.mmas a) .mmas ∧ enters (.mmags a) .mmags ∧ enters (.mmap a) .mmap ∧
      enters (.mzero a) .mzero ∧ enters (.mtr a) .mtr ∧ enters (.mtrSp a) .mtrSp ∧ enters (.mscl a) .mscl

/-! ### The control slot -/

/-- Branches, calls and loops (R155, R159, R161, R163, R165, R168, R169): br, brc, bri, ret, call, calli, callv, loop, brk and astep. A
transfer names its target, which the bundle's end reaches after two delay slots (`DelaySlotsAndLoops`); a br, brc, bri, ret, call or calli whose
target is the next address is not taken (R160); a link is a scalar result due in the issue cycle; nothing else of the bough
changes. -/
def Obligations.ControlTransfers : Prop :=
  ∀ (s : State) (c : Ctx) (a : KSlot),
    let near := c.b.pc + 32 * a.a.signExtend 64
    let goes := fun x : DWord => { s.cur with taken := some x }
    let onto := fun x : DWord => if x = c.b.pc + 32 then s.cur else goes x
    let cand := fun l : Nat => (c.activeLanes &&& c.b.prMask (a.a.extractLsb' 0 4) &&& ~~~c.b.vserved).getLsbD l
    let goal := fun l : Nat => c.b.sreg (a.b.toNat % 32) + ((c.b.oreg (a.y.toNat % 8)).toArray.getD l 0).setWidth 64
    let count := if a.x = 0 then a.b.setWidth 64 else c.b.sreg a.x.toNat
    let last := c.b.pc + 32 * a.a.setWidth 64
    let depth := (a.a.extractLsb' 2 3).toNat
    let pair := a.a.toNat % 4
    (s.Issues c (.br a) → s.Turns c (.br a) (onto near) (· = c.b)) ∧
    (s.Issues c (.brc a) → (c.cond a = true → s.Turns c (.brc a) (onto near) (· = c.b)) ∧
      (c.cond a = false → exec (.brc a) s = .next s)) ∧
    (s.Issues c (.bri a) → s.Turns c (.bri a) (onto (c.b.sreg a.x.toNat)) (· = c.b)) ∧
    (s.Issues c (.ret a) → s.Turns c (.ret a) (onto (c.b.sreg a.x.toNat)) (· = c.b)) ∧
    (s.Issues c (.call a) → s.Turns c (.call a) (onto near) fun x => c.b.GainsScalar x a.x.toNat (c.b.pc + 96) c.t) ∧
    (s.Issues c (.calli a) → s.Turns c (.calli a) (onto (c.b.sreg a.y.toNat)) fun x => c.b.GainsScalar x a.x.toNat (c.b.pc + 96) c.t) ∧
    (s.Issues c (.callv a) →
      ((∀ l < 64, cand l = false) → s.Turns c (.callv a) s.cur (· = { c.b with vserved := 0, vmask := BitVec.allOnes 64, vsite := 0 })) ∧
      ∀ l < 64, cand l = true → (∀ m < l, cand m = false) → s.Turns c (.callv a) (goes (goal l)) fun x =>
        (∀ m < 64, x.vmask.getLsbD m = (cand m && goal m == goal l)) ∧
        Bough.GainsScalar { c.b with vserved := c.b.vserved ||| x.vmask, vmask := x.vmask, vsite := c.b.pc } x a.x.toNat c.b.pc c.t) ∧
    (s.Issues c (.loop a) → (count = 0 → s.Turns c (.loop a) { s.cur with jump := some (last + 32) } (· = c.b)) ∧
      (count ≠ 0 → s.Turns c (.loop a) s.cur
        (· = { c.b with loops := { count := count, start := c.b.pc + 32, last := last } :: c.b.loops }))) ∧
    (s.Issues c (.brk a) → (c.cond a = false → exec (.brk a) s = .next s) ∧
      ∀ l rest, c.cond a = true → c.b.loops = l :: rest →
        s.Turns c (.brk a) { s.cur with taken := some (l.last + 32), popped := true } (· = { c.b with loops := rest })) ∧
    (s.Issues c (.astep a) → s.Turns c (.astep a) s.cur fun x => x = { c.b with steps := x.steps } ∧
      (∀ n, n ≠ pair → x.pair n = c.b.pair n) ∧
      x.pair pair = if depth = 0 then { reg := 0, depth := 0, stride := 0 }
        else { reg := a.x, depth := depth, stride := if a.y = 0 then a.b.signExtend 64 else c.b.sreg a.y.toNat })

/-- Counting flags (R36, R38, R171 to R173, R175): wait, waitany, post, kset and postr. A count that is reached lets the bundle issue, else
the bough gives up its phase and waits; kset and post are writes of this bough cycle; postr sends its increment to the grove that it
names.
Flag writes of one bough cycle (R37, R38, R40, R175, R176), none of them a fault: kset writes the count and clears the fault state, an increment
adds modulo 2^24, a completion adds its increment; kset and increments come before completions. -/
def Obligations.CountingFlags : Prop :=
   (∀ (s : State) (c : Ctx) (a : KSlot),
      let n := if a.y = 0 then a.a.extractLsb' 0 8 ++ a.b else (c.b.sreg a.y.toNat).setWidth 24
      let reached := fun (k : Nat) (n : BitVec 24) => ((c.g.flag k).count - n).toNat < 2 ^ 23
      let one := reached a.x.toNat (a.a.setWidth 24)
      let other := reached a.y.toNat (a.b.setWidth 24)
      (s.Issues c (.wait a) → (reached a.x.toNat n → exec (.wait a) s = .next s) ∧
        (¬ reached a.x.toNat n → s.Turns c (.wait a) s.cur (· = c.b.release (.waiting (.flag a.x.toNat n))))) ∧
      (s.Issues c (.waitany a) → (one ∨ other → ∃ t x, exec (.waitany a) s = .next t ∧ t.bough? c.key = some x ∧ x = { c.b with pend := x.pend } ∧
          t.groves = s.groves ∧ t.cur = s.cur ∧ (s.Unrecorded c.key → t = s)) ∧
        (¬ one → ¬ other → s.Turns c (.waitany a) s.cur
          (· = c.b.release (.waiting (.either a.x.toNat (a.a.setWidth 24) a.y.toNat (a.b.setWidth 24)))))) ∧
      (s.Issues c (.post a) → s.TurnsBoth c (.post a) s.cur fun x g => x = c.b ∧
        g = { c.g with flagWrites := c.g.flagWrites ++ [.bump a.x.toNat (a.b.setWidth 24)] }) ∧
      (s.Issues c (.kset a) → s.TurnsBoth c (.kset a) s.cur fun x g => x = c.b ∧
        g = { c.g with flagWrites := c.g.flagWrites ++ [.set a.x.toNat n] }) ∧
      (s.Issues c (.postr a) → ∃ t, exec (.postr a) s = .next t ∧
        tget t.msgs s.nextOp = some (.postr c.g.launch (c.b.sreg a.y.toNat) a.x.toNat a.b.toNat c.key s.cc) ∧
        t.Expects (s.cc + 1) (.postrArrival s.nextOp) ∧ t.boughs = s.boughs ∧ t.groves = s.groves ∧ t.mem = s.mem ∧ t.cur = s.cur)) ∧
   (∀ (s : State) (key : Nat) (g : Grove) (k inc : Nat) (n m : BitVec 24), s.grove? key = some g → k < 32 →
      g.flagWrites = [.complete k inc none, .set k n, .bump k m] →
        ∃ g', (s.settleFlags key).grove? key = some g' ∧ g'.flag k = { count := n + m + BitVec.ofNat 24 inc, e := false, frec := 0, cause := 0, pc := 0 } ∧
          (∀ j, j ≠ k → g'.flag j = g.flag j) ∧ g'.flagWrites = [] ∧ g'.scratch = g.scratch ∧ (s.settleFlags key).mem = s.mem)

/-- Grove barriers (R177 to R180): arrive, await and bar. An arrival takes effect at issue + 3; the arrival of the last bough of `n` starts
the next generation; await lets its bundle issue once the generation has moved on from the one that the bough joined, and else the
bough waits; bar is the one and then the other. -/
def Obligations.GroveBarriers : Prop :=
  (∀ (s : State) (c : Ctx) (a : KSlot),
    let n := a.x.toNat % 4
    let many := if a.b = 0 then c.l.boughsPer else a.b.toNat
    let arrival : Timed := { bc := c.t + 3, cc := c.cc, bnum := c.b.bnum, seq := c.b.seq, pc := c.b.pc, act := .arrive n many }
    let moved := (c.b.bar n).armed = true ∧ (c.g.barrier n).g ≠ (c.b.bar n).gen
    let passes := fun x : Bough => x = { c.b with bars := x.bars } ∧ x.bar n = { c.b.bar n with armed := false } ∧ ∀ m, m ≠ n → x.bar m = c.b.bar m
    let joins := fun (b x : Bough) => x = { b with bars := x.bars } ∧ x.bar n = { c.b.bar n with coming := true } ∧ ∀ m, m ≠ n → x.bar m = c.b.bar m
    (s.Issues c (.arrive a) → s.TurnsBoth c (.arrive a) s.cur fun x g => joins c.b x ∧ g = { c.g with pipe := c.g.pipe ++ [arrival] }) ∧
    (s.Issues c (.await a) → (moved → s.Turns c (.await a) s.cur passes) ∧
      (¬ moved → s.Turns c (.await a) s.cur (· = c.b.release (.waiting (.barrier n))))) ∧
    (s.Issues c (.bar a) → (moved → s.Turns c (.bar a) s.cur passes) ∧
      (¬ moved → (c.b.bar n).armed = true ∨ (c.b.bar n).coming = true →
        s.Turns c (.bar a) s.cur (· = c.b.release (.waiting (.barrier n)))) ∧
      (¬ moved → (c.b.bar n).armed = false → (c.b.bar n).coming = false → s.TurnsBoth c (.bar a) s.cur fun x g =>
        joins (c.b.release (.waiting (.barrier n))) x ∧ g = { c.g with pipe := c.g.pipe ++ [arrival] }))) ∧
  ∀ (s : State) (k bar n : Nat) (g : Grove) (b : Bough) (e : Timed), s.grove? k = some g → s.bough? (boughKey k e.bnum) = some b →
    (g.pipe.filter fun x => decide (x.bc ≤ s.bc)) = [e] → e.act = .arrive bar n → bar < 4 →
      let before := g.barrier bar
      let many := if before.a = 0 then n else before.n
      ∃ g' x, (s.runActs k).grove? k = some g' ∧ (s.runActs k).bough? (boughKey k e.bnum) = some x ∧
        g'.barrier bar = (if before.a + 1 = many then { a := 0, n := many, g := before.g + 1 } else { a := before.a + 1, n := many, g := before.g }) ∧
        x = { b with bars := x.bars } ∧ x.bar bar = { armed := true, gen := before.g, coming := false }

/-- Phases and items (R61, R183, R184, R188, R190, R193, R196): yield, prio, trap, ximm, exit and halt. yield gives up the phase at the bundle's end, prio sets at most
the launch's priority, trap enters the handler at the bundle's end with the next bundle in cr.epc (with cause BIND during a per-lane call with
its site, the lanes served left out of cr.vserved and cr.tvmask all ones), exit makes the chosen active spans
idle, and halt releases the bough's context; the grove ends with its last bough.
It rests on choices of the model too (assumption 113). -/
def Obligations.PhasesAndItems : Prop :=
  ∀ (s : State) (c : Ctx) (a : KSlot),
    let cause : Word := a.a ++ 0#8 ++ a.b.setWidth 8
    let chosen := fun j : Nat => decide (j < c.spans) && (c.b.prMask (a.x.extractLsb' 0 4) &&& c.b.vmask).getLsbD (j * c.width)
    let others := ∀ i < c.l.boughsPer, boughKey c.b.grove i ≠ c.key → ∃ b, s.bough? (boughKey c.b.grove i) = some b ∧ b.status = .halted
    (s.Issues c (.yield a) → s.Turns c (.yield a) { s.cur with giveUp := true } (· = c.b)) ∧
    (s.Issues c (.prio a) → s.Turns c (.prio a) s.cur (· = { c.b with prio := min (a.b.toNat % 4) (c.l.queue / 16) })) ∧
    (s.Issues c (.ximm a) → exec (.ximm a) s = .next s) ∧
    (s.Issues c (.trap a) → s.Turns c (.trap a) { s.cur with trap := some (cause, 0) } (· = c.b) ∧
      ∀ (t : State) (b : Bough) (n : Nat), t.bough? c.key = some b → b.tstatIn = false → b.tvec ≠ 0 →
        ∃ x, (t.softTrap c cause n).bough? c.key = some x ∧ x.pc = b.tvec ∧ x.tval = c.b.pc ∧ x.cause = cause ∧ x.frec = 0 ∧
          x.tstatIn = true ∧ x.earliest = n + 2 ∧ x.vmask = BitVec.allOnes 64 ∧ x.vsite = b.vsite ∧ b.SameRegisters x ∧
          (a.b.setWidth 8 = Cause.bind.code ∧ b.vsite ≠ 0 →
            x.vserved = b.vserved &&& ~~~b.vmask ∧ x.tvmask = BitVec.allOnes 64 ∧ x.epc = b.vsite ∧ x.tstatDsn = 0 ∧ x.tdst = 0) ∧
          (a.b.setWidth 8 ≠ Cause.bind.code ∨ b.vsite = 0 →
            x.vserved = b.vserved ∧ x.tvmask = b.vmask ∧ x.epc = c.b.pc + 32 ∧ x.tstatDsn = b.dsLeft)) ∧
    (s.Issues c (.exit a) → s.Turns c (.exit a) s.cur fun x => x = { c.b with active := x.active } ∧
      ∀ j < 64, x.active.getLsbD j = (c.b.active.getLsbD j && !chosen j)) ∧
    (s.Issues c (.halt a) → ∃ t, exec (.halt a) s = .next t ∧ t.bough? c.key = some (c.b.release .halted) ∧
      (∀ k, k ≠ c.key → t.bough? k = s.bough? k) ∧ (¬ others → t = { s with boughs := t.boughs }) ∧
      (others → (∃ g, t.grove? c.b.grove = some g ∧ g.life = .ended) ∧
        ∃ l, tget t.launches c.g.launch = some l ∧ l.endedGroves = c.l.endedGroves + 1))

/-- Items (R17 to R20, R185 to R187, R353): refill and defer, in a launch that is not recorded. A refill waits for a block, gives idle spans
the grove's next items in increasing order, takes a deferral batch and goes on at its handler, or finds nothing; every one that issues
counts in REFC. A batch takes the queue's oldest entries: each span's iid and iage are those of its entry's header (Table 5.3), read now, and its
registers those of the entry's block, at issue + 3. defer enters the chosen spans into a queue as far as it has room: their headers and register
blocks are stored behind the queue's last entry at issue + 2 (`Ctx.entryCells`); they become idle, and lanes of the others are raised in its
predicate. It rests on choices of the model too (assumption 126 for the queue that `Ctx.course` takes, 127 for a header with a soft error, 148 for the words that a mask does not name). -/
def Obligations.ItemsTaken : Prop :=
  ∀ (s : State) (c : Ctx) (a : KSlot), s.Unrecorded c.key → c.l.replay = false →
    let entry := fun q i => ((c.g.queue q).head + i) % max 1 (c.l.capacity q)
    (s.Issues c (.refill a) →
      (c.course = .wait → s.Turns c (.refill a) s.cur (· = c.b.release (.waiting .items))) ∧
      (c.course = .nothing → s.Turns c (.refill a) s.cur (· = { c.b with refc := c.b.refc + 1 })) ∧
      (∀ n, c.course = .items n → ∃ t x g, exec (.refill a) s = .next t ∧ t.bough? c.key = some x ∧ t.grove? c.b.grove = some g ∧
        x = { c.b with refc := c.b.refc + 1, active := x.active, iid := x.iid, iage := x.iage } ∧ g.held = c.g.held.drop n ∧
        (∀ m < n, ∀ j, c.idleSpans[m]? = some j → x.active.getLsbD j = true ∧
          x.iid.toArray.getD j 0 = BitVec.ofNat 32 (c.g.held.getD m 0) ∧ x.iage.toArray.getD j 0 = c.b.refc + 1) ∧
        (∀ j < 64, j ∉ c.idleSpans.take n → x.active.getLsbD j = c.b.active.getLsbD j ∧ x.iid.toArray.getD j 0 = c.b.iid.toArray.getD j 0 ∧
          x.iage.toArray.getD j 0 = c.b.iage.toArray.getD j 0) ∧
        t.mem = s.mem ∧ t.cur = s.cur) ∧
      (∀ q n, c.course = .batch q n → s.TurnsBoth c (.refill a) { s.cur with jump := some (c.l.handler q) } fun x g =>
        let header := fun i => readNum c.g.scratch (c.headerAt q (entry q i)) 64
        x = { c.b with refc := c.b.refc + 1, active := x.active, iid := x.iid, iage := x.iage } ∧
        (∀ j < 64, (j < n → x.active.getLsbD j = true ∧ x.iid.toArray.getD j 0 = BitVec.ofNat 32 (header j % 2 ^ 32) ∧
            x.iage.toArray.getD j 0 = BitVec.ofNat 32 (header j / 2 ^ 32 % 2 ^ 32)) ∧
          (n ≤ j → x.active.getLsbD j = c.b.active.getLsbD j ∧ x.iid.toArray.getD j 0 = c.b.iid.toArray.getD j 0 ∧
            x.iage.toArray.getD j 0 = c.b.iage.toArray.getD j 0)) ∧
        (q < 4 → g.queue q = { head := entry q n, count := (c.g.queue q).count - n }) ∧ (∀ p, p ≠ q → g.queue p = c.g.queue p) ∧
        g.scratch = c.g.scratch ∧
        let blocks := (List.range n).map fun i => (c.blockAt q (entry q i), c.width, header i / 2 ^ 80 % 2 ^ 8, header i / 2 ^ 64 % 2 ^ 15)
        g.pipe = c.g.pipe ++ [{ bc := c.t + 3, cc := c.cc, bnum := c.b.bnum, seq := c.b.seq, pc := c.b.pc, act := .restore blocks }])) ∧
    (s.Issues c (.defer a) →
      let q := a.y.toNat % 4
      let room := c.l.capacity q - (c.g.queue q).count
      let chosen := c.chosenSpans (a.x.extractLsb' 0 4)
      let cells := ((List.range (min room chosen.length)).map fun n =>
        c.entryCells q (entry q ((c.g.queue q).count + n)) (chosen.getD n 0) a.a.toNat a.b.toNat).flatten
      s.TurnsBoth c (.defer a) s.cur fun x g => (g.queue q).head = (c.g.queue q).head ∧
        (g.queue q).count = (c.g.queue q).count + min room chosen.length ∧ (∀ p, p ≠ q → g.queue p = c.g.queue p) ∧
        g.pipe = c.g.pipe ++ [{ bc := c.t + 2, cc := c.cc, bnum := c.b.bnum, seq := c.b.seq, pc := c.b.pc, act := .store cells }] ∧
        x = { c.b with active := x.active, results := x.results } ∧
        (∀ j < 64, x.active.getLsbD j = (c.b.active.getLsbD j && !(chosen.take room).contains j)) ∧
        ∃ r ∈ x.results, r.dest = .pred (a.y.toNat / 4 % 8) ∧ r.due = c.t + 1 ∧ r.act = BitVec.allOnes 64 ∧
          ∀ l : Fin 64, (r.vals.get l).getLsbD 0 = (chosen.drop room).contains (l.val / c.width))

/-- Control registers (R197, Table 5.5): csrr reads a register's value for the bundles from the next on, csrw writes at the end of its bundle,
with the reserved bits of Table 5.5 left out; that DSN keeps a 3 written to it is assumption 128.
It rests on choices of the model too (assumptions 18, 128, 140, 141). -/
def Obligations.ControlRegisters : Prop :=
  (∀ (s : State) (c : Ctx) (a : KSlot),
    let reads := fun (n : BitVec 16) (v : DWord) => a.a = n → s.Issues c (.csrr a) →
      s.Turns c (.csrr a) s.cur fun x => c.b.GainsScalar x a.x.toNat v c.t
    reads 0x000 (c.b.fflags.setWidth 64) ∧ reads 0x001 (BitVec.ofNat 64 (c.l.ctl / 2 ^ 13 % 64)) ∧ reads 0x009 (c.b.refc.setWidth 64) ∧
      reads 0x00A (BitVec.ofNat 64 (s.cc - c.b.grantCc)) ∧ reads 0x010 c.b.tvec ∧ reads 0x011 (c.b.cause.setWidth 64) ∧ reads 0x012 c.b.epc ∧
      reads 0x013 c.b.tval ∧ reads 0x014 (c.b.frec.setWidth 64) ∧ reads 0x016 c.b.tdst ∧ reads 0x017 c.b.tvmask ∧ reads 0x020 c.b.vserved ∧
      reads 0x021 c.b.vmask ∧ reads 0x022 c.b.vsite ∧ reads 0x030 (BitVec.ofNat 64 c.b.loops.length) ∧
      (s.Issues c (.csrr a) → s.Turns c (.csrr a) s.cur fun x =>
        c.b.GainsScalar x a.x.toNat (c.b.creg c.l.fpen (s.cc - c.b.grantCc) a.a.toNat) c.t) ∧
      (s.Issues c (.csrw a) → s.Turns c (.csrw a) s.cur fun x =>
        ∃ r, x = c.b.addResult r ∧ r.dest = .creg a.a.toNat ∧ r.sval = c.b.sreg a.y.toNat ∧ r.due = c.t)) ∧
  ∀ (b : Bough) (v : DWord) (en : Flags) (held : Nat),
    let back := fun n => (b.setCreg n v).creg en held n
    back 0x000 = v &&& 0x3F ∧ back 0x010 = v &&& ~~~0x1F ∧ back 0x011 = v &&& 0xFFFF00FF ∧ back 0x012 = v &&& ~~~0x1F ∧ back 0x013 = v ∧
      back 0x014 = v &&& 0x7F ∧ back 0x015 = v &&& 7 ∧ back 0x016 = v ∧ back 0x017 = v ∧ back 0x020 = v ∧ back 0x021 = v ∧
      (∀ n l, b.level? (n - 0x030) = some l → 0x031 ≤ n → n ≤ 0x034 → back n = v) ∧
      ∀ n, n ∈ [0x001, 0x008, 0x009, 0x00A, 0x022, 0x030] → b.setCreg n v = b

/-! ### Completions -/

/-- Accesses complete (R131, R204, R215 to R217, R221 to R223, R229, R233): ldg, ldgu, ldr, stg, atomg, red, settle and pref. Once every lane has been performed, and another
module's home has answered, no earlier than issue + 2, the operation's flag gains one; the lanes of a load or an atomg that found no fault write their destination, or their
two or four destinations word by word, due in this bough cycle. The first faulting lane names the fault; a pref carries none.
Fences, reads of the beacon's tables and icinv complete (R138, R140, R141, R144, R198, R225, R227, R228), in a launch that is not recorded. A release waits until
everything before it is performed for its scope, an acquire for the reads before it, and an acquire of .die scope or wider drops its address
space's lines from the L1; bld gives the flag entry and bseq the last SEQ that the die has applied. A bld or bseq waits for those that its bough issued before (R144). icinv has the boughs that hold
copies of its range drop them, each at a bundle boundary, and completes once none holds any.
It rests on choices of the model too (assumptions 35, 38, 52, 75). -/
def Obligations.GlobalCompletions : Prop :=
   (∀ (s : State) (op : Nat) (o : GOp) (b : Bough) (g : Grove) (l : Launch), s.Outstanding op o b g l → o.issued + 2 ≤ s.bc → o.arg0 ≤ s.bc →
      (∀ r ∈ o.lanes, r.stage = 2 ∧ r.reach ≠ .answering) →
        let clean := ∀ r ∈ o.lanes, r.fault = none ∧ r.flags = 0
        let value := fun n : Nat => ((o.lanes.filter fun r => r.lane == n).map fun r => r.value * 2 ^ (32 * r.part)).sum
        let quiet := fun (e : Instr) => clean → o.dests = [] → s.Completes e op o g fun t x f => x = b ∧ f = none ∧ t.cores = s.cores
        let gives := fun (r : Result) (d : Dest) (f : Nat → Word) => r.dest = d ∧ r.due = s.bc ∧ r.byFlag = true ∧
          (∀ n < 64, r.act.getLsbD n = o.lanes.any fun q => q.lane == n) ∧ ∀ q ∈ o.lanes, r.vals.toArray.getD q.lane 0 = f q.lane
        let loads := fun (e : Instr) (bytes : Nat) (signed : Bool) => clean → (∀ r ∈ o.lanes, r.lane < 64) → o.lanes ≠ [] →
          (∀ d, o.dests = [d] → s.Completes e op o g fun t x f => f = none ∧ t.cores = s.cores ∧ ∃ r, x = b.addResult r ∧
            gives r d (fun n => if signed then BitVec.ofInt 32 (intVal (8 * bytes) true (value n)) else BitVec.ofNat 32 (value n)) ∧
            ∀ q ∈ o.lanes, q.lane = 0 →
              r.sval = if signed then BitVec.ofInt 64 (intVal (8 * bytes) true (value 0)) else BitVec.ofNat 64 (value 0)) ∧
          (2 ≤ o.dests.length → s.Completes e op o g fun t x f => f = none ∧ t.cores = s.cores ∧ x = { b with results := x.results } ∧
            x.results.length = b.results.length + o.dests.length ∧ (∀ r ∈ b.results, r ∈ x.results) ∧
            ∀ i d, o.dests[i]? = some d → ∃ r ∈ x.results, gives r d fun n => BitVec.ofNat 32 (value n / 2 ^ (32 * i)))
        let faults := fun (e : Instr) => ∀ pre r post cause aux, o.lanes = pre ++ r :: post → (∀ q ∈ pre, q.fault = none ∧ q.flags = 0) →
          r.fault = some (cause, aux) → s.Completes e op o g fun _ _ f => ∃ y, f = some y ∧ y.cause = cause ∧ y.aux = aux ∧
            y.va = r.va - BitVec.ofNat 64 (4 * r.part) ∧ y.pc = o.pc ∧ y.src = 0 ∧ y.bid = o.bid
        (∀ bytes signed, o.kind = .load bytes signed → loads (.globalLoadCompletion op) bytes signed ∧ faults (.globalLoadCompletion op)) ∧
        (∀ sub wide, o.kind = .atomg sub wide → loads (.atomgCompletion op) (if wide then 8 else 4) false) ∧
        (∀ sub wide, o.kind = .atomg sub wide → faults (.atomgCompletion op)) ∧
        (o.kind = .store → quiet (.storeCompletion op) ∧ faults (.storeCompletion op)) ∧
        (∀ sub wide, o.kind = .red sub wide → quiet (.redCompletion op) ∧ faults (.redCompletion op)) ∧
        (o.kind = .settle → quiet (.settleCompletion op) ∧ faults (.settleCompletion op)) ∧
        (o.kind = .pref → s.Completes (.prefCompletion op) op o g fun t x f => x = b ∧ f = none ∧ t.cores = s.cores)) ∧
   (∀ (s : State) (op : Nat) (o : GOp) (b : Bough) (g : Grove) (l : Launch), s.Outstanding op o b g l → l.replay = false → o.issued + 2 ≤ s.bc →
      o.lanes = [] →
        let free := s.heldByOp o.bough o.order = false
        let gives := fun (e : Instr) (acq : Bool) (v : DWord) => ∀ n, o.dests = [.scalar n] → free → s.tableRead o = false → (s.die g.die).appliedCc ≠ s.cc + 1 →
          (acq = true → s.readsDone o = true) → s.Completes e op o g fun _ x f => f = none ∧
            ∃ r, x = b.addResult r ∧ r.dest = .scalar n ∧ r.sval = v ∧ r.due = s.bc
        (∀ acq rel scope, o.kind = .fence acq rel scope → (rel = true → s.released o scope g.die = true) → (acq = true → s.readsDone o = true) →
          s.Completes (.fenceCompletion op) op o g fun t x f => x = b ∧ f = none ∧
            (acq = true → 2 ≤ scope → (t.core g.core).l1 = (s.core g.core).l1.filter fun e => e.asid != o.asid) ∧
            (acq = false ∨ scope < 2 → t.cores = s.cores)) ∧
        (∀ acq, o.kind = .bld acq → gives (.bldCompletion op) acq (tgetD (s.die g.die).flagTab o.arg0 0)) ∧
        (o.kind = .bseq → gives (.bseqCompletion op) false ((s.die g.die).lastSeq.setWidth 64)) ∧
        let held := fun x : FetchCopy => x.meets o.asid o.arg1.toNat o.arg2.toNat
        let whole := ∀ e ∈ s.cores, ∀ x ∈ e.2.fetched, held x = true → s.atBoundary x.bough = true
        (o.kind = .icinv →
          (o.arg2 = 0 ∨ (free ∧ s.storesHome o.bough o.order = true ∧ whole) →
            s.Completes (.icinvCompletion op) op o g fun t x f => x = b ∧ f = none ∧
              ∀ k, t.core k = { s.core k with fetched := (s.core k).fetched.filter fun e => !held e }) ∧
          (o.arg2 ≠ 0 → free → s.storesHome o.bough o.order = true → ¬ whole → ∃ t, exec (.icinvCompletion op) s = .next t ∧
            t = { s with cores := t.cores, agenda := t.agenda } ∧ t.Expects (s.cc + 1) (.icinvCompletion op) ∧
            ∀ k, t.core k = { s.core k with fetched := (s.core k).fetched.filter fun e => !(held e && s.atBoundary e.bough) })))

/-- Home accesses of a die to its own memory (R122, R131, R219), in a launch that is not recorded, with the page held in the TLB and nothing of
the bough before the operation that holds it: a load's access takes the bytes at its address where the line is not poisoned; a
store's lone access writes them and no other byte; an atomic add on a word takes the old value and writes the sum. The access is then
performed.
A die applies a write that its home has performed once it has applied every write that the write's vector counts (R133, R134), where no
replay input holds it and another die has yet to apply it too: its vector counts one more write of the origin, the write waits for it no
longer, and a byte of which its replica held nothing reads as written. Memory is as before.
It rests on choices of the model too (assumptions 31, 51, 61). -/
def Obligations.AccessesPerformed : Prop :=
   (∀ (s : State) (op pa : Nat) (o : GOp) (b : Bough) (g : Grove) (l : Launch) (r : LaneReq) (e : TlbEntry) (k : AccessKind),
      s.Outstanding op o b g l → l.replay = false → o.lanes = [r] → r.stage = 0 → r.reach = .here → r.fault = none → r.bytes ≤ 16 → s.memoryWf = true →
      o.issued + 2 ≤ s.bc → o.kind.access = some k →
      s.pageOf g.die o.asid r.va.toNat = .ok e → e ∈ (s.die g.die).tlb → s.xlate g.die o.asid k r.va.toNat = .ok pa → paHome pa = g.die →
      s.heldByOp o.bough o.order = false → s.heldByCopy o.bough o.order pa = false → s.queueHolds g.die o pa = false →
        let done := fun (t : State) (q : LaneReq) => exec (.homeAccess op r.slot false) s = .next t ∧
          tget t.ops op = some { o with lanes := [q] } ∧ q.slot = r.slot ∧ q.stage = 2 ∧ q.fault = none ∧ t.boughs = s.boughs ∧ t.groves = s.groves
        (∀ bytes signed, o.kind = .load bytes signed → o.queue ≠ 2 → s.ownUnseen g.die o.bough pa = false → s.poisoned pa = false →
          ∃ t q, done t q ∧ q.value = readNum s.mem pa r.bytes ∧ t.mem = s.mem) ∧
        (o.kind = .store → ∃ t q, done t q ∧ ∀ a, readByte t.mem a =
          if pa ≤ a ∧ a < pa + r.bytes then BitVec.ofNat 8 (r.data / 2 ^ (8 * (a - pa))) else readByte s.mem a) ∧
        (o.kind = .atomg 0 false → r.bytes = 4 → r.data < 2 ^ 32 → s.poisoned pa = false → ∃ t q, done t q ∧ q.value = readNum s.mem pa 4 ∧
          readNum t.mem pa 4 = (readNum s.mem pa 4 + r.data) % 2 ^ 32 ∧
          ∀ a, (a < pa ∨ pa + 4 ≤ a) → readByte t.mem a = readByte s.mem a)) ∧
   (∀ (s : State) (d w e : Nat) (x : Write), tget s.writes w = some x → x.order ≠ 0 → d ∈ x.todo → e ∈ x.todo → e ≠ d →
      s.mayApply d x = true → s.playHolds d x = false →
        ∃ t, exec (.replicaApply d w) s = .next t ∧ t = { s with dies := t.dies, writes := t.writes } ∧ (∀ k, k ≠ d → t.die k = s.die k) ∧
          tget t.writes w = some { x with todo := x.todo.filter (· != d) } ∧ (t.die d).clock = clockTick (s.die d).clock x.origin ∧
          ((x.cells.map (·.1)).Nodup → ∀ c ∈ x.cells, atHome d (paHome c.1) = false → tget (s.die d).rep c.1 = none → t.viewByte d c.1 = c.2))

/-- Messages between groves arrive (R173, R279, R380): a word stands at the end of its endpoint, readable from the next bough cycle; a credit may be
used from the next one; a postr's increment is a write of its flag in this bough cycle. `since` is when the message was sent (R419).
It rests on choices of the model too (assumptions 33, 57). -/
def Obligations.MessagesArrive : Prop :=
  ∀ (s : State) (msg k e since : Nat) (g : Grove), e < 8 → s.grove? k = some g → g.life = .placed →
    (s.module (moduleOf g.die)).clocked = true → s.channelLost since k e = none →
    let lands := fun (i : Instr) (h : Grove) => ∃ t, exec i s = .next t ∧ t = { s with msgs := tdel s.msgs msg, groves := t.groves } ∧
      t.grove? k = some h ∧ ∀ j, j ≠ k → t.grove? j = s.grove? j
    (∀ x, tget s.msgs msg = some (.word k e x since) → s.oldestMsg msg (.word k e x since) = true →
      lands (.channelWordArrival msg) { g with chans := vmod g.chans e fun y => { y with words := y.words ++ [(s.bc, x)] } }) ∧
    (tget s.msgs msg = some (.credit k e since) → s.oldestMsg msg (.credit k e since) = true →
      lands (.channelCreditReturn msg) { g with chans := vmod g.chans e fun y => { y with credits := y.credits ++ [s.bc] } }) ∧
    (∀ lid name flag n bough ord l, tget s.msgs msg = some (.postr lid name flag n bough since) → s.postrEarlier msg name bough = false →
      tget s.launches lid = some l → l.named name = some ord → k = groveKey lid ord → g.launch = lid → flag < l.flagBlock →
      s.wayLost since (groveOf bough) k = false →
        lands (.postrArrival msg) { g with flagWrites := g.flagWrites ++ [.bump flag (BitVec.ofNat 24 n)] })

/-- Copies at work (R147 to R149, R302, R304, R305, R309 to R312, R314, R315). A waiting copy that nothing holds, of a core with fewer than 32 running,
takes a slot; as its data start it owns its destination lines at the latest, and its tag is stamped, as it is once its last byte has landed; the
first round of a fill of one row within its own partition writes its pattern
into some of the row's words, and no other byte of the partition, and a further round is to come. A copy that has moved everything
posts its increment, no earlier than issue + 8 and once its writes have reached every view, with the fault that it met or with none; so
does a cancelled one, with none. A copy refused at issue posts its increment with ILLEGAL_STATE, one of no bytes without; a cpyx that a fence
held back cancels once it has completed, and posts once the copies that it cancelled are gone; a tstamp posts as its record
is written, and its mark 3 empties the entry.
It rests on choices of the model too (assumptions 20, 23, 69, 70, 71). -/
def Obligations.CopiesRun : Prop :=
  ∀ (s : State) (id : Nat) (c : CopyOp) (b : Bough) (g : Grove) (l : Launch), s.CopyOut id c b g l →
    let posts := fun (t : State) (f : Option FaultInfo) => tget t.copies id = none ∧ (∀ k, k ≠ id → tget t.copies k = tget s.copies k) ∧
      ∃ h, t.grove? (groveOf c.bough) = some h ∧ h.flagWrites = g.flagWrites ++ [.complete c.flag c.inc f] ∧ t.boughs = s.boughs
    let settled := c.issued + 8 ≤ s.bc ∧ (∀ w ∈ s.writes, w.1 ∉ c.progress.sent) ∧ s.completionDie c = some g.die
    let hit := fun x : CopyOp => decide (x.order < c.order) && x.cancelledBy (groveOf c.bough) c.tag
    (c.life = .waiting → c.cancelled = false → s.copyNext id c g.core = true → s.copiesRunning g.core < 32 →
      ∃ t, exec (.copyStart id) s = .next t ∧ tget t.copies id = some { c with life := .running } ∧
        (∀ k, k ≠ id → tget t.copies k = tget s.copies k) ∧ t.Expects (max (s.cc + 1) (4 * (c.issued + 2))) (.copyCompletion id) ∧
        t.groves = s.groves ∧ t.boughs = s.boughs ∧ t.cores = s.cores ∧ t.mem = s.mem) ∧
    (c.life = .running → c.cancelled = false → s.bc < c.issued + 8 →
      (c.progress.begun = false → c.moved l = false → s.mayBegin c l = true →
        ∃ t o, exec (.copyCompletion id) s = .next t ∧ tget t.copies id = some o ∧
          o = { c with progress := { c.progress with begun := true }, owns := some (c.owns.getD s.nextOp) } ∧ t.Expects (s.cc + 1) (.copyCompletion id) ∧
          (c.tag ≠ 0 → tget (s.core g.core).stamps (256 * g.slot + c.tag) = none →
            ∃ e, tget (t.core g.core).stamps (256 * g.slot + c.tag) = some e ∧ e.t0 = s.cc ∧ e.opw = none ∧ e.cmp = none)) ∧
      (c.progress.begun = true → c.progress.landedAll = false → c.moved l = true → (∀ w ∈ s.writes, w.1 ∉ c.progress.sent) → c.tag ≠ 0 →
        ∀ e, tget (s.core g.core).stamps (256 * g.slot + c.tag) = some e →
          ∃ t o x, exec (.copyCompletion id) s = .next t ∧ tget t.copies id = some o ∧ o.progress.landedAll = true ∧
            tget (t.core g.core).stamps (256 * g.slot + c.tag) = some x ∧ x.t0 = e.t0 ∧ (e.cmp ≠ none → x.cout = some s.cc) ∧
            (e.cmp = none → e.opw = none → x.cin = some s.cc))) ∧
    (c.life = .running → c.cancelled = false → c.form = .fill → spaceOf c.dst = 1 → c.rows = 1 → 0 < c.rlen →
      c.progress = { CopyProgress.start with begun := true } →
      c.dst.toNat % 2 ^ 20 + c.rlen ≤ l.scratchBytes → Memory.wf g.scratch = true → s.bc < c.issued + 8 →
        ∃ t h o, exec (.copyCompletion id) s = .next t ∧ tget t.copies id = some o ∧
          o = { c with progress := o.progress } ∧
          (∀ k, k ≠ id → tget t.copies k = tget s.copies k) ∧ t.grove? (groveOf c.bough) = some h ∧
          h = { g with scratch := h.scratch, scratchBad := h.scratchBad } ∧ t.boughs = s.boughs ∧ t.mem = s.mem ∧
          t.Expects (s.cc + 1) (.copyCompletion id) ∧ o.progress.landed ≠ [] ∧
          ∀ n : Nat, readByte h.scratch n =
            if c.dst.toNat % 2 ^ 20 ≤ n ∧ n < c.dst.toNat % 2 ^ 20 + c.rlen ∧ (0, ((n / 4 : Nat) : Int)) ∈ o.progress.landed
            then BitVec.ofNat 8 (c.src.toNat / 2 ^ (8 * ((n - c.dst.toNat % 2 ^ 20) % 8))) else readByte g.scratch n) ∧
    (c.life = .running → c.cancelled = false → c.moved l = true → c.tag = 0 → c.progress.flags = 0 → c.stuck l = [] →
      c.progress.putFaults = [] → c.progress.posted = [] → settled →
        (c.progress.faults = [] → ∃ t, exec (.copyCompletion id) s = .next t ∧ posts t none ∧ t.mem = s.mem) ∧
        ∀ f, c.progress.faults = [f] → ∃ t z, exec (.copyCompletion id) s = .next t ∧ posts t (some z) ∧ z.cause = f.cause.1 ∧
          z.va = BitVec.ofInt 64 f.at_ ∧ z.aux = f.cause.2 ∧ z.pc = c.pc ∧ z.src = 1 ∧ t.mem = s.mem) ∧
    (c.life = .running ∨ c.life = .waiting → c.cancelled = true → c.progress.posted = [] → settled →
      ∃ t, exec (.copyCompletion id) s = .next t ∧ posts t none ∧ t.mem = s.mem) ∧
    (c.life = .empty ∨ c.life = .over → c.issued + 2 ≤ s.bc →
      ∀ e, e = .copyCompletion id ∨ e = .cpyxCompletion id ∨ (∃ mark, c.form = .stamp mark ∧ e = .tstampCompletion id) →
        (c.refused = true ∨ c.life = .over → ∃ t f, exec e s = .next t ∧ posts t (some f) ∧ f.cause = 0x0C ∧ f.pc = c.pc ∧ f.src = 1 ∧
          t.mem = s.mem) ∧
        (c.refused = false → c.life = .empty → ∃ t, exec e s = .next t ∧ posts t none ∧ t.mem = s.mem)) ∧
    (c.form = .cancel → c.issued + 2 ≤ s.bc →
      (c.life = .waiting → s.heldByOp c.bough c.order = false → ∃ t o, exec (.cpyxCompletion id) s = .next t ∧
        t = { s with copies := t.copies, agenda := t.agenda, free := t.free } ∧ tget t.copies id = some o ∧ o.life = .running ∧
        o.awaits = (t.copies.filter fun e => hit e.2).map (·.1) ∧ t.Expects (s.cc + 1) (.cpyxCompletion id) ∧
        ∀ k x, k ≠ id → tget s.copies k = some x → tget t.copies k = some { x with
          cancelled := x.cancelled || (hit x && (x.life == .waiting || x.life == .running)) }) ∧
      (c.life = .running → (∀ a ∈ c.awaits, tget s.copies a = none) →
        ∃ t, exec (.cpyxCompletion id) s = .next t ∧ posts t none ∧ t.mem = s.mem)) ∧
    (∀ mark, c.life = .waiting → c.form = .stamp mark → c.issued + 2 ≤ s.bc → s.heldByOp c.bough c.order = false →
      ∃ t, exec (.tstampCompletion id) s = .next t ∧ posts t none ∧
        (mark = 3 → tget (t.core g.core).stamps (256 * g.slot + c.tag) = none))

/-- The stages of a lone matrix operation (R320, R326 to R331, R333 to R338, R340). Its fetch begins from the bough cycle after issue; a product or
mscl may see its operands no earlier than issue + 3, and has read them by the end of their term; its array begins once the fetch is
over and the tile has taken what was in flight, and from then words that mtr.sp spills may land; two bough cycles after the
array's end the tile takes the result (all rows zero for mzero, the transpose for mtr, for a product with 32-bit elements the sums of R326 and
R327 over what was fetched), or the partition the words that have yet to land, and the flag its increment. A chunk of 16 products is summed and rounded
once, and added to the element and rounded once (R118). An operation that met a fault leaves its tile alone; one refused at issue carries ILLEGAL_STATE; a killed one leaves its queue
and posts nothing.
What a fetch reads waits while a copy owns a line of its side lists.
It rests on choices of the model too (assumptions 1, 23, 72). -/
def Obligations.MatrixStages : Prop :=
  (∀ (sat : Bool) (c : Word) (ab : List (FVal × FVal)) (x y : Rat),
    let q := ((ab.take 16).map fun p => p.1.real * p.2.real).sum
    let code := fun r : Rat => BitVec.ofNat 32 (roundTo .fp32 .rne sat (.fin r)).1
    (∀ p ∈ ab.take 16, p.1.number ≠ none ∧ p.2.number ≠ none) → (valOf .fp32 c.toNat).number = some x → q ≠ 0 →
      (valOf .fp32 (code q).toNat).number = some y → x + y ≠ 0 → (chunkMac sat [true] c ab).1 = code (x + y)) ∧
  ∀ (s : State) (core : Nat) (x : MatOp) (b : Bough) (g : Grove) (l : Launch), s.MatrixOut x b g l →
    let only := fun (t : State) (y : MatOp) => (t.core core).mq = [y] ∧ (∀ k, k ≠ core → t.core k = s.core k) ∧ t.groves = s.groves ∧
      t.boughs = s.boughs ∧ t.mem = s.mem
    let posts := fun (t : State) (f : Option FaultInfo) => ∃ h, t.grove? (groveOf x.bough) = some h ∧
      h.flagWrites = g.flagWrites ++ [.complete x.flag x.inc f] ∧ t.mem = s.mem
    let reads := x.isProduct = true ∨ x.kind = .mscl
    let cells := spillCells (x.spills g)
    ((s.core core).mq = [x] → x.fetched = none → x.fb = none → x.issued + 1 ≤ s.bc → ∃ t, exec (.matrixFetchStart core) s = .next t ∧
      only t { x with fb := some s.bc } ∧ (¬ reads → t.Expects s.cc (.matrixFetchStart core)) ∧
      (reads → t.Expects (max s.cc (4 * (x.issued + 3))) (.matrixFetchStart core))) ∧
    (∀ fb, (s.core core).mq = [x] → x.fetched = none → x.fb = some fb → reads → x.seen = none → x.issued + 3 ≤ s.bc →
      ∃ t, exec (.matrixFetchStart core) s = .next t ∧ only t { x with seen := some g.scratch } ∧
        t.Expects (max s.cc (4 * fb + x.fetchBase)) (.matrixFetchStart core)) ∧
    (∀ fb, (s.core core).mq = [x] → x.fetched = none → x.fb = some fb → (reads → x.seen ≠ none) → 4 * fb + x.fetchBase ≤ s.cc → s.sidesHeld x g l = false →
      let read := s.matFetch x (s.fetchView x g) l
      ∃ t y, exec (.matrixFetchStart core) s = .next t ∧ only t { x with fetched := some y, seen := none } ∧
        y = { read with fetchCc := y.fetchCc } ∧ read.fetchCc ≤ y.fetchCc ∧ (x.readsLists = false → y = read) ∧
        (x.seen = none ∨ x.seen = some g.scratch → read = s.matFetch x g l) ∧
        t.Expects (max s.cc (4 * (fb + (y.fetchCc + x.shared + 3) / 4))) (.matrixArrayStart core)) ∧
    (∀ fb y, (s.core core).mq = [x] → x.fetched = some y → x.fb = some fb → x.ab = none →
      fb + (y.fetchCc + (if x.kind = .mtrSp then 0 else x.shared) + 3) / 4 ≤ s.bc → s.tileDue x = false →
      ∃ t, exec (.matrixArrayStart core) s = .next t ∧ t.Expects (4 * (s.bc + (y.arrayCc + 3) / 4 + 2)) (.matrixCompletion core) ∧
        (x.kind ≠ .mtrSp ∨ y.faults ≠ [] → only t { x with ab := some s.bc, early := none }) ∧
        (x.kind = .mtrSp → y.faults = [] → Memory.wf g.scratch = true → ∃ n h, (t.core core).mq = [{ x with ab := some s.bc, early := some n }] ∧
          t.grove? (groveOf x.bough) = some h ∧ h.tiles = g.tiles ∧ t.boughs = s.boughs ∧ t.mem = s.mem ∧
          ∀ a, readByte h.scratch a = readByte g.scratch a ∨ (a, readByte h.scratch a) ∈ cells)) ∧
    (∀ ab y, (s.core core).mq = [x] → (s.core core).refused = [] → x.fetched = some y → x.ab = some ab → x.halt = none →
      ab + (y.arrayCc + (if x.kind = .mtrSp then x.shared else 0) + 3) / 4 + 2 ≤ s.bc → l.fpen = 0 →
        ∃ t h, exec (.matrixCompletion core) s = .next t ∧ (t.core core).mq = [] ∧ t.grove? (groveOf x.bough) = some h ∧
        (y.faults = [] → posts t none ∧ (x.kind ≠ .mtrSp → h.scratch = g.scratch ∧
          (∀ r < 64, h.row (64 * x.tile + r) = (x.result l g y).1.getD r zeroLanes) ∧
          (x.kind = .mzero → ∀ r < 64, h.row (64 * x.tile + r) = zeroLanes) ∧
          (x.kind = .mtr → ∀ r < 64, ∀ n : Fin 64, (h.row (64 * x.tile + r)).get n = (g.row (64 * x.tile + n.val)).toArray.getD r 0) ∧
          (x.isProduct = true → x.n = 64 → ∀ r < 64, ∀ n : Fin 64,
            let old := (g.row (64 * x.tile + r)).get n
            let ab := (y.a.getD r []).zip (y.b.getD n.val [])
            (x.integer = false → (h.row (64 * x.tile + r)).get n = (chunkMac x.fsc.sat y.live (if x.mod.getLsbD 7 then 0 else old) ab).1) ∧
            (x.integer = true → x.fsb.scale = 0 → x.fsc.sat = false → (∀ b ∈ y.live, b = true) → ab.length ≤ 16 * y.live.length →
              (h.row (64 * x.tile + r)).get n = BitVec.ofInt 32 ((if x.mod.getLsbD 7 then 0 else old.toInt) +
                (ab.map fun p => (p.1.real * p.2.real).floor).sum))) ∧
          ∀ n, n / 64 ≠ x.tile → h.row n = g.row n) ∧
          (x.kind = .mtrSp → Memory.wf g.scratch = true → h.tiles = g.tiles ∧
            (∀ a, x.landedEarly a = false → a ∈ cells.map (·.1) → (a, readByte h.scratch a) ∈ cells) ∧
            ∀ a, a ∉ cells.map (·.1) → readByte h.scratch a = readByte g.scratch a)) ∧
        (∀ f, y.faults = [f] → (∃ z, posts t (some z) ∧ z.cause = f.cause ∧ (∀ v, f.va = some v → z.va = v) ∧ z.aux = f.aux ∧
          z.lanes = f.lanes ∧ z.src = 2) ∧ h.tiles = g.tiles ∧ h.scratch = g.scratch)) ∧
    ((s.core core).refused = [x] → x.issued + 2 ≤ s.bc → ∃ t, exec (.matrixCompletion core) s = .next t ∧ (t.core core).refused = [] ∧
      (t.core core).mq = (s.core core).mq ∧ ∃ z, posts t (some z) ∧ z.cause = 0x0C ∧ z.pc = x.pc) ∧
    (∀ n, (s.core core).mq = [x] → (s.core core).refused = [] → x.halt = some n → n ≤ s.cc → ∃ t, exec (.matrixCompletion core) s = .next t ∧
      t = { s with cores := t.cores } ∧ t.core core = { s.core core with mq := [] } ∧ ∀ k, k ≠ core → t.core k = s.core k)

/-! ### Phases -/

/-- Events of a core's phases (R24, R43 to R45, R357, R461): a free phase goes to the bough that stands first: of the eligible boughs of its
core one of the highest priority, and of those the one eligible longest. It loses the levels that it had gained by aging; aging adds
one level below 3; a bough that has held its phase for the limit traps WATCHDOG before its next bundle, whose open-ended stretches end (R428); the compatibility unit accepts as many
requests as four a bough cycle leave it, in their order.
It rests on choices of the model too (assumptions 60, 117). -/
def Obligations.PhaseEvents : Prop :=
  (∀ (s : State) (core k : Nat) (b : Bough) (g : Grove), s.nextGrant core = some (k, b, g) →
    let level := fun x : Bough => min 3 (x.prio + x.raised)
    g.core = core ∧ s.eligible b g = true ∧ ∀ j x h, s.bough? j = some x → s.grove? x.grove = some h → h.core = core → h.life = .placed →
      s.eligible x h = true → s.grantWaits j h = false → level x < level b ∨ (level x = level b ∧ b.eligSince ≤ x.eligSince)) ∧
  (∀ (s : State) (core f k : Nat) (b : Bough) (g : Grove), s.clocked core = true → s.phaseFree core f = true → f < 4 →
    s.nextGrant core = some (k, b, g) → s.bough? k = some b → b.resumeFrom = none → s.Unrecorded k →
    (∀ l, tget s.launches g.launch = some l → l.replay = false) →
      ∃ t x, exec (.phaseGrant core f) s = .next t ∧ t = { s with boughs := t.boughs } ∧ t.bough? k = some x ∧
        x = { b with phase := some f, grantCc := s.cc, raised := 0, grants := b.grants + 1 } ∧ ∀ j, j ≠ k → t.bough? j = s.bough? j) ∧
  (∀ (s : State) (k : Nat) (b : Bough), s.bough? k = some b → ∃ t x, exec (.priorityAging k) s = .next t ∧ t = { s with boughs := t.boughs } ∧
    t.bough? k = some x ∧ x = { b with raised := if min 3 (b.prio + b.raised) < 3 then b.raised + 1 else b.raised } ∧
    ∀ j, j ≠ k → t.bough? j = s.bough? j) ∧
  (∀ (s : State) (k : Nat) (b : Bough) (g : Grove) (l : Launch), s.bough? k = some b → s.grove? b.grove = some g → s.launchOf g = some l →
    b.phase ≠ none → b.grantCc + l.wdog ≤ s.cc → b.tstatIn = false → b.tvec ≠ 0 →
      ∃ t x, exec (.watchdog k) s = .next t ∧ (s.endHolds k).SameElsewhere t ∧ t.groves = (s.endHolds k).groves ∧
        (b.holds = [] ∨ (l.replay = false ∧ s.Unrecorded k) → s.endHolds k = s) ∧ t.bough? k = some x ∧ b.SameRegisters x ∧
        x.cause = 0x0D ∧ x.epc = b.pc ∧ x.tval = b.pc ∧ x.pc = b.tvec ∧ x.tstatIn = true ∧ x.phase = none ∧ ∀ j, j ≠ k → t.bough? j = s.bough? j) ∧
  ∀ (s : State) (d : Nat),
    let rs := s.compatRequests d
    let left := 4 - (if (s.die d).compatBc = s.bc + 1 then (s.die d).compatUsed else 0)
    (rs.map (·.2)).Nodup → ∃ t, exec (.compatAccept d) s = .next t ∧ t = { s with boughs := t.boughs, dies := t.dies } ∧
      (∀ r ∈ rs.take left, ∀ b, s.bough? r.2 = some b → t.bough? r.2 = some { b with presented := some r.1.1, compatAt := some s.bc }) ∧
      (∀ r ∈ rs.drop left, ∀ b, s.bough? r.2 = some b → t.bough? r.2 = some { b with presented := some r.1.1 }) ∧
      (∀ k, (∀ r ∈ rs, r.2 ≠ k) → t.bough? k = s.bough? k) ∧ (∀ k, k ≠ d → t.die k = s.die k)

/-! ### Launches -/

/-- A record on its way into its queue (R199, R344, R346, R347, R465, R473). A write of LQDOOR hands the record's address to the queue that its
low bits name; once the host's window writes and records before it are through, a queue of 16 records drops it with an event, and a
bough's record waits for room. A record that meets
every condition of Table 11.4 enters its queue as a launch under the identity given, and one that does not enters none, unless a copy owns a line of what is read (R147); the head of a queue
becomes ready once every predecessor's word reads DONE, and not before.
It rests on choices of the model too (assumptions 78, 79, 81, 83). -/
def Obligations.RecordsAccepted : Prop :=
  (∀ (s : State) (m : Nat) (v : DWord), (s.module m).mstate = 1 →
    let q := v.toNat % 64
    ∃ t, exec (.lqdoorSubmit m v) s = .next t ∧
      t = { s with msgs := t.msgs, nextOp := s.nextOp + 1, agenda := t.agenda, free := t.free } ∧
      tget t.msgs s.nextOp = some (.submit m q (v &&& ~~~0x3F#64) ((s.module m).lqAsid.toNat % 2 ^ 16) 0) ∧
      t.Expects (s.cc + 1) (.launchAcceptance s.nextOp (BitVec.ofNat 32 s.nextOp))) ∧
  (∀ (s : State) (msg m q asid : Nat) (va : DWord) (lid : BitVec 32), tget s.msgs msg = some (.submit m q va asid 0) →
    (s.module m).mstate = 1 → (s.module m).pstate ≠ 2 → s.hostWritesOut m = false → s.hostEarlier msg m = false →
    lid ≠ 0 → tget s.launches lid.toNat = none →
    (16 ≤ ((s.module m).queue q).length → ∃ t w, exec (.launchAcceptance msg lid) s = .next t ∧
      t = { s with msgs := tdel s.msgs msg, modules := t.modules, free := s.free + 1 } ∧ (∀ p, p ≠ m → t.module p = s.module p) ∧
      t.module m = (s.module m).post 5 (BitVec.ofNat 512 (packFields [(0x75, 0, 8), (0, 32, 32), (s.cc, 64, 64), (w, 128, 64),
        (va.toNat, 192, 64)]))) ∧
    (((s.module m).queue q).length < 16 → va.toNat % 64 = 0 → s.judgeHeld m q asid va = false →
    (∀ l, s.judge m q asid va = .good l → s.joined m q l.asid l = none →
      ∃ t, exec (.launchAcceptance msg lid) s = .next t ∧ tget t.msgs msg = none ∧
        tget t.launches lid.toNat = some { l with shares := tput l.shares m (l.shareOf m) } ∧
        (t.module m).queue q = (s.module m).queue q ++ [lid.toNat] ∧ t.Expects (s.cc + 1) (.launchPlacement m) ∧
        t.mem = s.mem ∧ t.groves = s.groves ∧ t.boughs = s.boughs) ∧
    (∀ reason evt, s.judge m q asid va = .refused reason evt → ∃ t, exec (.launchAcceptance msg lid) s = .next t ∧ tget t.msgs msg = none ∧
      t.launches = s.launches ∧ (∀ p, (t.module p).queues = (s.module p).queues) ∧ t.groves = s.groves ∧ t.boughs = s.boughs))) ∧
  (∀ (s : State) (msg m q asid op : Nat) (va : DWord) (lid : BitVec 32), tget s.msgs msg = some (.submit m q va asid op) → op ≠ 0 →
    s.submitReady msg m op = true → 16 ≤ ((s.module m).queue q).length → lid ≠ 0 → tget s.launches lid.toNat = none →
      exec (.launchAcceptance msg lid) s = .next s) ∧
  ∀ (s : State) (m q lid : Nat) (l : Launch), ((s.module m).queue q).head? = some lid → tget s.launches lid = some l →
    let done := ∀ j < l.npred, s.rangeOwned (32 * m) l.asid (l.pred j) 8 = false ∧ ∃ xs, s.readVa (32 * m) l.asid (l.pred j) 8 = .ok xs ∧ (natOfBytes xs).testBit 0 = true
    (done → ∃ t, exec (.predecessorRecheck m q) s = .next t ∧ t = { s with modules := t.modules, dies := t.dies } ∧ lid ∈ (t.module m).ready ∧
      (t.module m).queues = (s.module m).queues ∧ ∀ p, p ≠ m → t.module p = s.module p) ∧
    (¬ done → ∃ t, exec (.predecessorRecheck m q) s = .next t ∧ t = { s with dies := t.dies, agenda := t.agenda } ∧
      ∀ d, t.die d = { s.die d with tlb := (t.die d).tlb })

/-- Placement (R347, R350, R353). The launch placed next heads the queue of highest priority among the ready ones, the lowest-numbered of
those; it leaves the queue and its groves follow in order, each on the first core with room, its boughs at their stage's entry. A grove's
request takes its stage's next block of up to 64 indices. Said for a launch without deterministic regions, channels and preload.
It rests on choices of the model too (assumptions 1, 85). -/
def Obligations.GrovesPlaced : Prop :=
  (∀ (s : State) (m q lid : Nat) (l : Launch), (s.module m).mstate = 1 → (s.module m).pstate = 0 → s.nextQueue m = some (q, lid, l) →
    tget s.launches lid = some l → l.det = false →
    (∀ p n k, ((s.module m).queue p).head? = some n → tget s.launches n = some k → s.launchReady m n k = true → s.playBusy m n k = false →
      p / 16 < q / 16 ∨ (p / 16 = q / 16 ∧ q ≤ p)) ∧
    ∃ t, exec (.launchPlacement m) s = .next t ∧
      tget t.launches lid = some { l with life := .placing, shares := tmod l.shares m fun y => { y with begun := true } } ∧
      (t.module m).queue q = ((s.module m).queue q).filter (· != lid) ∧ t.Expects (s.cc + 1) (.grovePlacement m lid) ∧
      ((∀ y ∈ l.shares, y.2.begun = false) → t.Expects (s.cc + 1) (.launchCompletion lid)) ∧
      t.mem = s.mem ∧ t.groves = s.groves ∧ t.boughs = s.boughs) ∧
  (∀ (s : State) (m lid : Nat) (l : Launch) (y : Share) (r : Room), tget s.launches lid = some l → tget l.shares m = some y → y.begun = true →
    y.next < y.last → (s.module m).mstate = 1 → (s.module m).pstate = 0 → l.chanp = 0xFF → l.pren = false →
    (moduleCores m).findSome? (fun core => s.roomOn core l []) = some r → (s.freeContexts r.core l.boughsPer).length = l.boughsPer →
      let key := groveKey lid y.next
      let at_ := l.coordOf 8 0 y.next
      ∃ t g x, exec (.grovePlacement m lid) s = .next t ∧ t.grove? key = some g ∧
        g = { Grove.initial lid y.next at_.1 at_.2.1 at_.2.2.1 at_.2.2.2 r.core r.slot r.flagBase r.tiles with reqOut := true } ∧
        t.Expects (s.cc + 1) (.itemBlockGrant key) ∧
        (∀ i < l.boughsPer, t.bough? (boughKey key i) =
          some (Bough.initial key i ((s.freeContexts r.core l.boughsPer).getD i 0) (l.entry at_.1) l.startTvec l.prio s.cc)) ∧
        (∀ k, groveOf k ≠ key → t.bough? k = s.bough? k) ∧ (∀ k, k ≠ key → t.grove? k = s.grove? k) ∧
        tget t.launches lid = some x ∧ x.placedGroves = l.placedGroves + 1 ∧ tget x.shares m = some { y with next := y.next + 1 } ∧
        t.Expects (s.cc + 1) (.grovePlacement m lid)) ∧
  ∀ (s : State) (k : Nat) (g : Grove) (l : Launch), s.grove? k = some g → tget s.launches g.launch = some l → g.reqOut = true →
    l.supply ≠ [] → l.replay = false → g.life = .placed →
      let b := l.supply.getD g.stage 0
      (64 * b < l.items g.stage → ∃ t h, exec (.itemBlockGrant k) s = .next t ∧ t.grove? k = some h ∧
        h = { g with held := g.held ++ (List.range (min 64 (l.items g.stage - 64 * b))).map (64 * b + ·), reqOut := h.reqOut, told := false } ∧
        tget t.launches g.launch = some { l with supply := l.supply.set g.stage (b + 1) } ∧ t.boughs = s.boughs ∧ t.mem = s.mem) ∧
      (l.items g.stage ≤ 64 * b → ∃ t, exec (.itemBlockGrant k) s = .next t ∧ t = { s with groves := t.groves } ∧
        t.grove? k = some { g with reqOut := false, told := true })

/-- The end of a launch (R22, R345, R356, R367). A launch all of whose groves have ended with nothing under way waits for its writes
and then is gone with its groves and boughs, its word (FAULTS set where a flag, of a saved grove one in its image, is left with E) at EVT and its
event posted; a killed launch's boughs stop at once, its groves do nothing any more and keep their places, and it is gone in the same way once nothing
of it is under way. A launch whose engine has been reset has no supplies and does none of this (R466). Other launches' groves and boughs are as before.
It rests on choices of the model too (assumptions 20, 87, 90, 113, 149). -/
def Obligations.LaunchesEnd : Prop :=
  (∀ (l : Launch) (k : Bool), l.doneWord k = 1 + 4 * k.toNat + 8 * l.faults.toNat + 16 * l.drops.toNat + 32 * l.unhandled.toNat +
    64 * l.logGap.toNat + 128 * l.fflags.toNat + 2 ^ 13 * l.settleFault.toNat + 2 ^ 14 * l.unrun.toNat) ∧
  ∀ (s : State) (lid : Nat) (l : Launch), tget s.launches lid = some l →
    let others := fun t : State => (∀ k g, s.grove? k = some g → g.launch ≠ lid → t.grove? k = some g) ∧
      (∀ k, launchOfKey k ≠ lid → t.bough? k = s.bough? k) ∧ ∀ n, n ≠ lid → tget t.launches n = tget s.launches n
    let z : Launch := { l with faults := l.faults || s.groves.any fun e => e.2.launch == lid &&
      (s.imageFaults e.2 l || (e.2.life != .saved && e.2.flags.toList.any (·.e))) }
    let gone := fun (i : Instr) (kind : Nat) (killed : Bool) => ∃ t, exec i s = .next t ∧ others t ∧ tget t.launches lid = none ∧
      (∀ k g, t.grove? k = some g → g.launch ≠ lid) ∧ (∀ k b, t.bough? k = some b → launchOfKey k ≠ lid) ∧
      (∀ p q, lid ∉ (t.module p).queue q) ∧
      ((∀ c, (s.core c).stamps = []) →
        (l.evt = 0 → t.mem = s.mem) ∧
        (∀ u, l.evt ≠ 0 → (s.noteFaults lid).writeVa (32 * l.module) l.asid l.evt (bytesOfNat 8 (z.doneWord killed)) = .ok u → t.mem = u.mem) ∧
        t.module l.module = { (s.module l.module).post 5 (BitVec.ofNat 512 (packFields [(kind, 0, 8), (lid, 32, 32), (s.cc, 64, 64),
          (z.doneWord killed, 128, 64), (l.recVa.toNat, 192, 64)])) with
            queues := (t.module l.module).queues, ready := (t.module l.module).ready })
    (l.life = .placing → s.launchDone lid l = true → l.supply ≠ [] → l.det = false → ∃ t, exec (.launchCompletion lid) s = .next t ∧
      t = { s with launches := t.launches, agenda := t.agenda, free := t.free } ∧ tget t.launches lid = some { l with life := .draining } ∧
      t.Expects (s.cc + 1) (.launchCompletion lid)) ∧
    (l.life = .draining → s.writesOut lid = false → l.supply ≠ [] → gone (.launchCompletion lid) 0x70 false) ∧
    (∀ m v, pcmdLaunch 3 v = some lid → (s.module m).mstate = 1 → l.life ≠ .killed → l.supply ≠ [] → s.hostWritesOut m = false →
      ∃ t x, exec (.kill m v) s = .next t ∧ others t ∧ tget t.launches lid = some x ∧ x.life = .killed ∧
        (∀ k b, t.bough? k = some b → launchOfKey k = lid → b.status = .halted ∧ b.phase = none ∧ b.results = []) ∧
        (∀ k g, s.grove? k = some g → g.launch = lid → ∃ h, t.grove? k = some h ∧ h.life = (if g.life = .saved then .saved else .ended) ∧
          h.pipe = [] ∧ h.flagWrites = [] ∧ h.reqOut = false ∧ (g.life = .placed → h.keepsPlace = true)) ∧ (∀ p q, lid ∉ (t.module p).queue q) ∧
        t.Expects (s.cc + 1) (.killQuiesce lid) ∧ t.mem = s.mem) ∧
    (l.life = .killed → l.supply ≠ [] → s.opsOut lid = false → s.writesOut lid = false → gone (.killQuiesce lid) 0x73 true)

/-- Pre-emption (R359, R361, R362, R365). A command names the groves of a launch on its module, or one grove: each is to stop and be
saved at its address, and its boughs stop at their next boundary. Once nothing of it is under way its images are written and it is
saved, or it stays stopped where a write faults. A saved grove resumes in its new place with what its images hold.
It rests on choices of the model too (assumptions 56, 91, 92). -/
def Obligations.PreEmption : Prop :=
  (∀ (s : State) (m lid : Nat) (v : DWord), (s.module m).mstate = 1 → s.hostWritesOut m = false → (∀ c ∈ (s.module m).commands, c.1 ≠ v) →
    let stops := fun (i : Instr) (k : Nat) (g : Grove) (at_ : DWord) => ∃ t, exec i s = .next t ∧
      t = { s with groves := t.groves, boughs := t.boughs, agenda := t.agenda, free := t.free } ∧
      t.grove? k = some { g with life := .stopping, saveAt := some at_, savedOn := m } ∧ t.Expects (s.cc + 1) (.groveImageSave k) ∧
      ∀ i b, s.bough? (boughKey k i) = some b → i < 16 →
        t.bough? (boughKey k i) = some (if b.atRest then b else { b with stopAsked := true })
    (pcmdLaunch 1 v = some lid → ∀ k g, s.grove? k = some g → g.launch = lid → g.life = .placed → moduleOf g.die = m →
      stops (.preemptLaunch m v) k g ((s.module m).psave + BitVec.ofNat 64 (0x400000 * g.ordinal))) ∧
    (pcmdLaunch 2 v = some lid → ∀ l n g, tget s.launches lid = some l → l.named (s.module m).parg = some n →
      s.grove? (groveKey lid n) = some g → g.life = .placed → moduleOf g.die = m →
      stops (.preemptGrove m v) (groveKey lid n) g (s.module m).psave)) ∧
  (∀ (s : State) (k : Nat) (g : Grove) (at_ : DWord) (l : Launch), s.grove? k = some g → g.life = .stopping → g.saveAt = some at_ →
    s.launchOf g = some l → s.saveReady k g = true →
      ∃ u : State, (∀ j, groveOf j ≠ k → u.bough? j = s.bough? j) ∧
        (∀ j b n, groveOf j = k → s.bough? j = some b → b.status = .stopped n → u.bough? j = some (b.settled l.fpen n)) ∧
        u = { s with boughs := u.boughs } ∧ ∃ t, exec (.groveImageSave k) s = .next t ∧
          (∀ w, u.writeImages k g l at_.toNat = some w → t.grove? k = some { g with life := .saved } ∧ t.mem = w.mem ∧ t.boughs = u.boughs) ∧
          (u.writeImages k g l at_.toNat = none → t.grove? k = some { g with saveAt := none } ∧ t.mem = s.mem ∧ t.boughs = s.boughs)) ∧
  ∀ (s : State) (k core : Nat) (g : Grove) (l : Launch) (r : Room) (gb : List Byte) (bs : List (Nat × List Byte)),
    s.resumeRoom k core = some (g, l, r) → s.readImages k g l = some (gb, bs) →
      ∃ t h, exec (.groveResumption k core) s = .next t ∧ t.grove? k = some h ∧ h.life = .placed ∧ h.core = core ∧ h.slot = r.slot ∧
        h = { g.ofImage gb l r ((s.touchImages k g l).chanTable (moduleOf (dieOf core)) l) s.bc with reqOut := h.reqOut } ∧ t.mem = s.mem ∧
        (∀ j, groveOf j ≠ k → t.bough? j = s.bough? j) ∧
        ∀ i bytes b, (i, bytes) ∈ bs → i < 16 → s.bough? (boughKey k i) = some b → ∃ x, t.bough? (boughKey k i) = some x ∧ x.status = .ready ∧
          x.phase = none ∧ x.pc = BitVec.ofNat 64 (numAt bytes 8 8) ∧ x.dsLeft = numAt bytes 0x18 8 ∧
          x.active = BitVec.ofNat 64 (numAt bytes 0x20 8) ∧ (∀ n < 32, x.s.toArray.getD n 0 = BitVec.ofNat 64 (numAt bytes (0x340 + 8 * n) 8)) ∧
          (∀ n < 8, x.p.toArray.getD n 0 = BitVec.ofNat 64 (numAt bytes (0x440 + 8 * n) 8)) ∧
          ∀ n < 128, n < l.allot → x.v.toArray.getD n zeroLanes = lanesAt bytes (0x4000 + 256 * n)

/-! ### The fabric -/

/-- Flits on a link (R372, R376, R377, R384, R387, R388). A flit's own CRC checks, and it arrives whole over wavelengths that carry light; one that
arrives damaged, or without light on a wavelength, is answered with NAK. A flit in order raises the number to acknowledge and goes on to its next link, one that repeats is only answered; what it acknowledges leaves
the receiver's own replay buffer, and a control flit that names the boundary of a change of the active set agrees it. A NAK makes the sender replay what is not acknowledged, and the eighth attempt takes the link down. A
multicast copy goes out on each link that it is owed, behind the older ones and once the buffer beyond has room. A link end that goes down
carries nothing any more.
It rests on choices of the model too (assumptions 40, 44, 101, 103, 133). -/
def Obligations.LinkTraffic : Prop :=
  (∀ f : Flit, imageSound f.image = true) ∧
  (∀ (s : State) (k : Nat),
    let p := peerEnd k
    let f := (s.takeFlit p).1
    let x := s.link k
    s.maySend p = true → x.down = false → (s.module (linkModule k)).fabricUp = true →
      (∀ damage, (∀ y, s.joinBeats k f = some y → imageSound (y ^^^ damage) = false) → ∃ t, exec (.flitReceive k damage) s = .next t ∧
        t.link k = { x with nakOwed := true } ∧ t.Expects (s.cc + 1) (.flitReceive p 0)) ∧
      (isPort k = true → (∃ i ∈ wavesOf (s.link p).active, x.light.getLsbD i = false) → s.joinBeats k f = none) ∧
      ((isPort k = true → ∀ i ∈ wavesOf (s.link p).active, x.light.getLsbD i = true) → s.joinBeats k f = some f.image ∧ ∃ t, exec (.flitReceive k 0) s = .next t ∧
        (f.nak = true → (s.cc, .nakReceive k) ∈ t.agenda ∧ (t.link k).naks = x.naks ++ [f.ack]) ∧
        (f.nak = false → (t.link k).unacked = (x.acked f.ack).unacked) ∧
        (f.kind ≠ 1 → (t.link k).rxSeq = x.rxSeq) ∧
        (f.kind = 1 → f.seq ≠ x.rxSeq + 1 → ackCovers x.rxSeq f.seq = true → (t.link k).rxSeq = x.rxSeq ∧ t.Expects (s.cc + 1) (.flitReceive p 0)) ∧
        (f.kind = 1 → f.seq = x.rxSeq + 1 → (t.link k).rxSeq = f.seq ∧ t.Expects (s.cc + 1) (.flitReceive p 0) ∧
          ∀ n, f.cls ≠ 2 → f.da ≠ linkDie k → (s.wayOn f.sa (linkDie k) f.da).bind (·.head?) = some n →
            ∃ g ∈ (t.link n).queue, g.da = f.da ∧ g.sa = f.sa ∧ g.body = f.body ∧ g.tx = f.tx) ∧
        (∀ set q, f.kind = 2 → f.body = setNotice set q → x.pendingSet = some (q, false) → (t.link k).pendingSet = some (q, true)))) ∧
  (∀ (s : State) (k : Nat) (a : BitVec 24) (rest : List (BitVec 24)), (s.link k).naks = a :: rest →
    let y := Link.acked { s.link k with naks := rest } a
    ∃ t, exec (.nakReceive k) s = .next t ∧ t = { s with links := t.links, agenda := t.agenda, free := t.free } ∧
      (∀ j, j ≠ k → t.link j = s.link j) ∧ (y.unacked = [] → t.link k = y) ∧
      (y.unacked ≠ [] → t.link k = { y with sent := 0, replayed := (y.replayed + y.unacked.length) % 2 ^ 32, attempts := y.attempts + 1 } ∧
        t.Expects (s.cc + 1) (.flitReceive (peerEnd k) 0) ∧
        (7 ≤ y.attempts → (s.cc, if isPort k then .portDown k else .dieLinkDown k) ∈ t.agenda))) ∧
  (∀ (s : State) (d n out : Nat) (e : McastEntry) (ms : List Nat), tget (s.die d).mcast n = some e → e.owed.lookup out = some ms →
    (s.die d).olderOwed n out = false → s.mcastFits (linkDie (peerEnd out)) = true →
      let left := e.owed.filter fun x => x.1 != out
      ∃ t, exec (.multicastForward d n out) s = .next t ∧ (∃ vc, { e.flit with members := ms, vc := vc } ∈ (t.link out).queue) ∧
        t.Expects (s.cc + 1) (.flitReceive (peerEnd out) 0) ∧
        ((s.die d).mcastWait = [] → t = { s with dies := t.dies, links := t.links, agenda := t.agenda, free := t.free } ∧
          tget (t.die d).mcast n = (if left = [] then none else some { e with owed := left }) ∧
          ∃ vc, (t.link out).queue = (s.link out).queue ++ [{ e.flit with members := ms, vc := vc }])) ∧
  (∀ (s : State) (k : Nat), isPort k = true → (s.link k).down = false → ((s.link k).failed = 0xF ∨ 8 ≤ (s.link k).attempts) →
    ∃ t, exec (.portDown k) s = .next t ∧ (t.link k).down = true ∧ (t.link k).active = 0 ∧ (t.link k).unacked = [] ∧ t.boughs = s.boughs) ∧
  ∀ (s : State) (k : Nat), isPort k = false → (s.link k).down = false → 8 ≤ (s.link k).attempts →
    ∃ t, exec (.dieLinkDown k) s = .next t ∧ (t.link k).down = true ∧ (t.link (peerEnd k)).down = true ∧ (t.link k).unacked = [] ∧
      t.boughs = s.boughs

/-- Light, parking and waking on an optical port (R384 to R386, R389, R390). A receiver that loses the light of an active group counts it and tells
the sender; the sender marks the group failed, pauses, and 8 ns later goes on with the unfailed groups and replays. A write to LCTL sets EN,
WTHR and PARK, clears failed marks, wakes the groups named no longer and has the new ones park, those that are still waking too; a PARK that
would leave no group is ignored. A queue above WTHR wakes every parked group; a group that has woken is active again. A change of the
active set for parking or waking is agreed by a control flit of the other end that names the first flit sent under it, and takes effect once that one
is next and every flit before it is acknowledged; a restripe goes on from the flit that the loss notice named.
It rests on choices of the model too (assumptions 102, 103, 133). -/
def Obligations.LinkLight : Prop :=
  (∀ (s : State) (k g : Nat),
    let p := peerEnd k
    let x := s.link k
    isPort k = true → g < 4 → (s.module (linkModule k)).fabricUp = true →
      ((s.link p).active.getLsbD g = true → ∃ t, exec (.lossOfLight k g) s = .next t ∧
        t.link k = { x with light := x.light &&& ~~~ groupLight g, lols := min (x.lols + 1) 65535,
                            control := x.control ++ [lossNotice g x.rxSeq] } ∧
        t.link p = { s.link p with notices := (s.link p).notices ++ [(g, x.rxSeq)] } ∧ t.Expects (s.cc + 1) (.lossNoticeReceive p)) ∧
      ((s.link p).active.getLsbD g = false → ∃ t, exec (.lossOfLight k g) s = .next t ∧ t = { s with links := t.links } ∧
        t.link k = { x with light := x.light &&& ~~~ groupLight g } ∧ t.link p = s.link p) ∧
      (x.light &&& groupLight g ≠ groupLight g → ∃ t, exec (.lightBack k g) s = .next t ∧
        t = { s with links := t.links, modules := t.modules, free := t.free } ∧ t.link k = { x with light := x.light ||| groupLight g } ∧
        t.link p = s.link p ∧ ((s.link p).failed.getLsbD g = false → t.modules = s.modules))) ∧
  (∀ (s : State) (k g : Nat) (q : BitVec 24) (rest : List (Nat × BitVec 24)), (s.link k).notices = (g, q) :: rest →
    let x := s.link k
    let bit := BitVec.ofNat 4 (2 ^ g)
    let end_ := s.cc + (s.module (linkModule k)).ccOf 8000
    ∃ t, exec (.lossNoticeReceive k) s = .next t ∧ (t.link k).failed = x.failed ||| bit ∧ (t.link k).pauseTo = some end_ ∧
      (t.link k).notices = rest ∧ (t.link k).unacked = (x.acked q).unacked ∧ (∀ j, j ≠ k → t.link j = s.link j) ∧
      (x.failed ||| bit = 0xF → (s.cc, .portDown k) ∈ t.agenda) ∧ (x.failed ||| bit ≠ 0xF → (end_, .restripeAfterLoss k) ∈ t.agenda)) ∧
  (∀ (s : State) (k e : Nat), (s.link k).pauseTo = some e → e ≤ s.cc →
    let x := s.link k
    let q := (x.unacked.head?.map (·.seq)).getD x.nextSeq
    ∃ t, exec (.restripeAfterLoss k) s = .next t ∧ (∀ j, j ≠ k → t.link j = s.link j) ∧ (t.link k).boundary = q ∧
      (t.link k).active = x.active &&& ~~~x.failed ∧ (t.link k).pauseTo = none ∧ (t.link k).unacked = x.unacked ∧
      (x.unacked ≠ [] → (t.link k).sent = 0 ∧ (t.link k).replayed = (x.replayed + x.unacked.length) % 2 ^ 32 ∧
        t.Expects (s.cc + 1) (.flitReceive (peerEnd k) 0))) ∧
  (∀ (s : State) (k : Nat) (v : DWord), isPort k = true → lctlOk v = true → (s.module (linkModule k)).answers false = true →
    let x := s.link k
    let clr := v.extractLsb' 12 4 &&& x.failed
    let failed := x.failed &&& ~~~clr
    let park := v.extractLsb' 16 4
    ∀ i ∈ [Instr.lctlPark k v, .lctlClrf k v], ∃ t, exec i s = .next t ∧ t = { s with links := t.links, agenda := t.agenda, free := t.free } ∧
      (∀ j, j ≠ k → t.link j = s.link j) ∧ (t.link k).en = v.getLsbD 0 ∧ (t.link k).wthr = v.extractLsb' 24 16 ∧ (t.link k).failed = failed ∧
      (x.active &&& ~~~failed &&& ~~~park = 0 → (t.link k).park = x.park ∧ (t.link k).waking = x.waking ||| clr) ∧
      (x.active &&& ~~~failed &&& ~~~park ≠ 0 →
        let wakes := x.waking ||| clr ||| (x.parked &&& ~~~park)
        (t.link k).park = park ∧ (t.link k).waking = wakes ∧
        (park &&& (~~~x.parked ||| wakes) = 0 → (t.link k).parkWanted = none) ∧
        (park &&& (~~~x.parked ||| wakes) ≠ 0 → (t.link k).parkWanted = some park ∧ t.Expects (s.cc + 1) (.parkDone k)))) ∧
  ∀ (s : State) (k : Nat),
    let x := s.link k
    let agrees := fun (i : Instr) (y : Link) =>
      (x.pendingSet = none → ∃ t, exec i s = .next t ∧ t = { s with links := t.links, agenda := t.agenda, free := t.free } ∧
        let q := x.nextSeq + BitVec.ofNat 24 x.queue.length
        (∀ j, j ≠ k → j ≠ peerEnd k → t.link j = s.link j) ∧ t.link k = { x with pendingSet := some (q, false) } ∧
          t.link (peerEnd k) = (s.link (peerEnd k)).told y.active q ∧ t.Expects (s.cc + 1) i) ∧
      (∀ q b, x.pendingSet = some (q, b) → (b = false ∨ x.unacked ≠ [] ∨ q ≠ x.nextSeq) → exec i s = .next s) ∧
      (x.pendingSet = some (x.nextSeq, true) → x.unacked = [] → ∃ t, exec i s = .next t ∧
        t = { s with links := t.links, modules := t.modules, agenda := t.agenda, free := t.free } ∧ (∀ j, j ≠ k → t.link j = s.link j) ∧
        t.link k = { y with boundary := x.nextSeq, pendingSet := none })
    (∀ p, x.parkWanted = some p → x.wakeFrom = none → x.pauseTo = none → x.active &&& ~~~p &&& ~~~x.failed ≠ 0 →
      agrees (.parkDone k) { x with parkWanted := none, active := x.active &&& ~~~p, parked := x.parked ||| (x.active &&& p) }) ∧
    (x.wthr ≠ 0 → x.wthr.toNat < x.queue.length → x.parked ≠ 0 → ∃ t, exec (.autoWake k) s = .next t ∧
      t = { s with links := t.links, agenda := t.agenda, free := t.free } ∧ (∀ j, j ≠ k → t.link j = s.link j) ∧
      (t.link k).park = 0 ∧ (t.link k).parkWanted = none ∧ (t.link k).waking = x.waking ||| x.parked ∧
      (x.parked &&& ~~~x.waking ≠ 0 → ∃ n, s.cc < n ∧ n ≤ s.cc + max 1 ((s.module (linkModule k)).ccOf 300000) ∧
        (n, .wakeComplete k) ∈ t.agenda)) ∧
    (x.wakeFrom ≠ none → x.pauseTo = none → agrees (.wakeComplete k)
      { x with active := x.active ||| (x.waking &&& ~~~x.failed), parked := x.parked &&& ~~~x.waking, waking := 0, wakeFrom := none })

/-! ### The beacon -/

/-- Frames into the send queue and onto the dies (R226, R392 to R394, R398, R399, R402, R404, R407). A bpub or bbar whose release has completed
enters the queue of its module behind those before it, or takes the next number at once where its module is its own group. A die applies its
frames in order, one at most in a core cycle: a PUB writes, adds to, joins or raises its flag entry, a BAR joins its barrier, a REKEY clears
barrier 0xFFF. A write of BCFG that enters a group clears every table of the module, and one that leaves it does too, and
drops the frames that the module held.
It rests on choices of the model too (assumptions 41, 43, 93, 97, 98). -/
def Obligations.BeaconTables : Prop :=
  (∀ (s : State) (op : Nat) (o : GOp) (g : Grove) (l : Launch) (type : Nat) (payload : Nat) (e : Instr), tget s.ops op = some o →
    s.opHome o.bough = some (g, l) → op ≠ 0 → o.sent = false → o.performed s.bc = true → s.released o 4 g.die = true →
    (∃ sub, o.kind = .bpub sub ∧ s.heldByOp o.bough o.order = false ∧ type = 1 ∧ e = .bpubEnqueue op ∧
      payload = packFields [(o.arg0, 0, 12), (sub, 12, 3), (o.arg1.toNat, 32, 64)]) ∨
    (∃ id n, o.kind = .bbar id n ∧ s.heldBar o = false ∧ type = 2 ∧ e = .bbarEnqueue op ∧ payload = packFields [(id, 0, 12), (n, 32, 16)]) →
      let m := moduleOf g.die
      let x := s.module m
      let q : QFrame := { type := type, sdie := g.die % 32, payload := BitVec.ofNat 288 payload, op := op }
      (x.bcfg.getLsbD 0 = true → ∃ t, exec e s = .next t ∧ t = { s with modules := t.modules, ops := t.ops } ∧
        t.module m = { x with sendQ := x.sendQ ++ [q] } ∧ tget t.ops op = some { o with sent := true }) ∧
      (x.bcfg.getLsbD 0 = false → ∃ t, exec e s = .next t ∧ (t.module m).held = x.held + 1 ∧
        tget t.ops op = some { o with sent := true, numbered := some (x.held + 1) } ∧
        ∀ d ∈ moduleDies m, s.diesJoined (32 * m) d = true → ∃ f, (t.die d).toApply = (s.die d).toApply ++ [f] ∧ frType f = type ∧
          frSeq f = x.held + 1 ∧ frDie f = g.die % 32 ∧ frField f 96 288 = payload ∧ t.Expects s.cc (applyEvent type d))) ∧
  (∀ (s : State) (d : Nat) (f : BitVec 512) (rest : List (BitVec 512)), (s.die d).toApply = f :: rest → (s.module (moduleOf d)).joining = false →
    (s.die d).appliedCc ≠ s.cc + 1 → (s.die d).playOn = false → (∀ e ∈ s.ops, e.2.ended = none) →
      let x := s.die d
      let applies := fun (i : Instr) (p : Die → Prop) => ∃ t, exec i s = .next t ∧ (t.die d).toApply = rest ∧ (t.die d).lastSeq = frSeq f ∧
        (t.die d).appliedCc = s.cc + 1 ∧ p (t.die d) ∧ t.boughs = s.boughs ∧ t.groves = s.groves ∧ t.mem = s.mem
      (frType f = 1 → applies (.pubFrameApply d) fun y => y.barTab = x.barTab ∧
        let old := tgetD x.flagTab (frField f 96 12) 0
        let v := BitVec.ofNat 64 (frField f 128 64)
        (∀ n, n ≠ frField f 96 12 → tgetD y.flagTab n 0 = tgetD x.flagTab n 0) ∧
        (frField f 108 3 = 0 → tgetD y.flagTab (frField f 96 12) 0 = v) ∧ (frField f 108 3 = 1 → tgetD y.flagTab (frField f 96 12) 0 = old + v) ∧
        (frField f 108 3 = 2 → tgetD y.flagTab (frField f 96 12) 0 = old ||| v) ∧
        (frField f 108 3 = 3 → tgetD y.flagTab (frField f 96 12) 0 = if old.toNat < v.toNat then v else old)) ∧
      (frType f = 2 → applies (.barFrameApply d) fun y => y.flagTab = x.flagTab ∧
        let id := frField f 96 12
        let n := frField f 128 16
        let old := tgetD x.barTab id BarEntry.zero
        (∀ k, k ≠ id → tget y.barTab k = tget x.barTab k) ∧
        (old.a ≠ 0 → old.nb ≠ n → y.barTab = x.barTab) ∧
        (old.a = 0 ∨ old.nb = n → tget y.barTab id =
          some (if old.a + 1 = n then { a := 0, nb := n, g := old.g + 1 } else { a := old.a + 1, nb := n, g := old.g }))) ∧
      (frType f = 3 → applies (.rekeyFrameApply d) fun y => y.flagTab = x.flagTab ∧ (∀ k, k ≠ 0xFFF → tget y.barTab k = tget x.barTab k) ∧
        tget y.barTab 0xFFF = some { a := 0, nb := 0, g := (tgetD x.barTab 0xFFF BarEntry.zero).g + 1 })) ∧
  ∀ (s : State) (m : Nat) (v : DWord), (s.module m).answers false = true →
    let x := s.module m
    let clear := fun t : State => ∀ d ∈ moduleDies m, (t.die d).flagTab = [] ∧ (t.die d).barTab = []
    (bcfgOk v = true → x.bcfg.getLsbD 0 = false → v.getLsbD 0 = true → ∃ t, exec (.bcfgEnable m v) s = .next t ∧ (t.module m).bcfg = v ∧
      (t.module m).held = 0 ∧ (t.module m).ring = [] ∧ clear t ∧ t.boughs = s.boughs ∧ t.mem = s.mem) ∧
    (bcfgOk v = true → x.bcfg.getLsbD 0 = true → v = x.bcfg &&& ~~~1#64 → ∃ t, exec (.bcfgDisable m v) s = .next t ∧ (t.module m).bcfg = v ∧
      (t.module m).formed = false ∧ (t.module m).ring = [] ∧ clear t ∧ t.boughs = s.boughs ∧ t.mem = s.mem) ∧
    ((bcfgOk v = false ∨ bcfgFixed x.bcfg v = true) → exec (.bcfgEnable m v) s = .next s ∧ exec (.bcfgDisable m v) s = .next s)

/-- The lamp and the frames of a group (R395, R396, R400, R401). GUARD after its LAMP frame the holder sends the frames that wait, numbers
going up from the lamp's, and passes the lamp on to the next member with LAMPC one higher; a member that a LAMP frame names takes the lamp. A
frame in order is held and goes to the dies; one that comes too early is held and a gap is noted; one that does not check changes nothing
of the tables. A RESEND names frames to repeat. A member that hears nothing for its time sends a LAMP frame with RECOV.
It rests on choices of the model too (assumptions 42, 95, 96). -/
def Obligations.BeaconTurns : Prop :=
  (∀ (s : State) (m : Nat) (l : Lamp), (s.module m).lamp = some l → l.since + (s.module m).ccOf (s.module m).guard ≤ s.cc → s.takesPart m = true →
    (s.module m).gapHold = false → l.recov = false → (s.module m).repeats = [] →
      let x := s.module m
      let passes := fun (t : State) (q : Word) => (t.module m).lamp = none ∧ ∀ p ∈ s.groupMembers m, s.takesPart p = true →
        ∃ f ∈ (t.module p).air, frType f = 0 ∧ frSeq f = q ∧ frSrc f = x.member ∧ frField f 96 6 = (x.member + 1) % x.bN % 64 ∧
          frField f 102 1 = 0 ∧ frField f 128 64 = (l.lampc + 1).toNat
      (x.sendQ = [] → ∃ t, exec (.lampTurn m) s = .next t ∧ passes t l.seq) ∧
      (∀ q, x.sendQ = [q] → x.ring = [] → q.type = 1 → tget s.ops q.op = none → ∃ t f, exec (.lampTurn m) s = .next t ∧ passes t (l.seq + 1) ∧
        (t.module m).sendQ = [] ∧ (t.module m).ring = [((l.seq + 1).toNat, f)] ∧ frType f = 1 ∧ frSeq f = l.seq + 1 ∧
        frField f 96 288 = q.payload.toNat ∧
        ∀ p ∈ s.groupMembers m, s.takesPart p = true → f ∈ (t.module p).air)) ∧
  (∀ (s : State) (m : Nat) (f : BitVec 512) (rest : List (BitVec 512)), (s.module m).air = f :: rest → s.takesPart m = true →
    let x := s.module m
    let ok := x.frameOk (s.applied0 m) x.lampc.toNat f = true
    let alone := ∀ g ∈ rest, frSequenced g = false
    (frType f = 0 → ok → ∃ t, exec (.lampFrameReceive m (some 0)) s = .next t ∧ (t.module m).air = rest ∧ (t.module m).holder = frSrc f ∧
      (t.module m).lastFrame = s.cc ∧ (t.module m).lampc = BitVec.ofNat 64 (frField f 128 64) ∧
      (frField f 96 6 ≠ x.member → (t.module m).lamp = x.lamp) ∧
      (frField f 96 6 = x.member → (s.cc + x.ccOf x.guard, .lampTurn m) ∈ t.agenda ∧
        (t.module m).lamp =
          some { seq := frSeq f, lampc := BitVec.ofNat 64 (frField f 128 64), recov := frField f 102 1 == 1, since := s.cc })) ∧
    (frType f = 1 ∨ frType f = 2 → ok → x.ring = [] → x.seen = x.held → alone →
      (frSeq f = x.held + 1 → ∃ t, exec (.beaconFrameReceive m (some 0)) s = .next t ∧ (t.module m).held = frSeq f ∧
        (t.module m).ring = [((frSeq f).toNat, f)] ∧ (t.module m).gapHold = false ∧
        ∀ d ∈ moduleDies m, s.diesJoined (32 * m) d = true → (t.die d).toApply = (s.die d).toApply ++ [f]) ∧
      (frSeq f = x.held + 2 → ∃ t, exec (.beaconFrameReceive m (some 0)) s = .next t ∧ (t.module m).held = x.held ∧
        (t.module m).ring = [((frSeq f).toNat, f)] ∧ (t.module m).gapHold = true ∧ t.dies = s.dies)) ∧
    (frType f = 4 → ok → frSrc f ≠ x.member → ∃ t, exec (.resendFrameReceive m (some 0)) s = .next t ∧
      ∀ n, n ∈ (t.module m).repeats ↔ n ∈ x.repeats ∨ ∃ i < frField f 128 13,
        n = (BitVec.ofNat 32 (frField f 96 32) + BitVec.ofNat 32 i).toNat ∧ (tget x.ring n).isSome = true) ∧
    ∀ damage : BitVec 512, x.frameOk (s.applied0 m) x.lampc.toNat (f ^^^ damage) = false →
      let spoilt := fun i : Instr => ∃ t, exec i s = .next t ∧ (t.module m).air = rest ∧ (t.module m).ring = x.ring ∧ (t.module m).lamp = x.lamp ∧
        (t.module m).lastFrame = x.lastFrame
      (frType f = 0 → spoilt (.lampFrameReceive m (some damage))) ∧ (frType f = 4 → spoilt (.resendFrameReceive m (some damage))) ∧
        (frType f = 1 ∨ frType f = 2 ∨ frType f = 3 → spoilt (.beaconFrameReceive m (some damage)))) ∧
  ∀ (s : State) (m n : Nat), (s.module m).regenAt = some n → n ≤ s.cc → s.takesPart m = true →
    ∃ t, exec (.lampRegen m) s = .next t ∧ (t.module m).regenerator = some ((s.module m).lampc + 1) ∧ (t.module m).recov = true ∧ (t.module m).lastFrame = s.cc ∧
      ∀ p ∈ s.groupMembers m, s.takesPart p = true → ∃ f ∈ (t.module p).air, frType f = 0 ∧ frField f 102 1 = 1 ∧
        frField f 128 64 = ((s.module m).lampc + 1).toNat

/-! ### Trust -/

/-- The SPDM exchange of a requester with a module (R410 to R412). Each supported request is answered and the exchange comes so far; an
attesting leader goes on with the next one, and a measurement counts where its signature verifies and its digest is the expected one. An
unsupported request, a second KEY_EXCHANGE too, is answered with ERROR, which ends an attestation; so is a FINISH without a KEY_EXCHANGE, or of a
requester whose chain the module cannot verify. FINISH of an attestation admits a module whose chain verifies
and whose four measurements count, by a re-key that takes in its slot, and refuses any other.
It rests on choices of the model too (assumptions 100, 115). -/
def Obligations.SpdmExchange : Prop :=
  ∀ (s : State) (m peer : Nat), (s.module m).trustUp = true →
    let x := s.session peer m
    let goes := fun (i : Instr) (stage : Nat) (next : Instr) => ∃ t y, exec i s = .next t ∧ t.session peer m = y ∧ y.error = false ∧
      y.stage = max x.stage stage ∧ (s.attesting m peer = true → t.Expects (s.cc + 1) next) ∧
      (stage ≠ 7 → y.measured = x.measured) ∧ (stage = 8 → y.keyed = true) ∧
      (stage = 2 → ∀ c, c ∈ y.caps ↔ c ∈ [SpdmCap.cert, .meas, .chal, .keyEx, .mutAuth, .encrypt, .mac, .chunk]) ∧ (∀ n, n ≠ m → t.session peer n = s.session peer n) ∧
      t.boughs = s.boughs ∧ t.mem = s.mem
    let fails := fun i : Instr => ∃ t, exec i s = .next t ∧ (t.session peer m).error = true ∧ (t.session peer m).stage = x.stage ∧
      (s.attesting m peer = true → (t.module m).tstate = 4)
    goes (.getVersion m peer 0x14) 1 (.getCapabilities m peer 0) ∧ goes (.getCapabilities m peer 0) 2 (.negotiateAlgorithms m peer 1) ∧
    goes (.negotiateAlgorithms m peer 1) 3 (.getDigests m peer 0) ∧ goes (.getDigests m peer 0) 4 (.getCertificate m peer 0) ∧
    goes (.getCertificate m peer 0) 5 (.challenge m peer 0) ∧ goes (.challenge m peer 0) 6 (.getMeasurements m peer 1) ∧
    (∀ n, 1 ≤ n → n ≤ 4 → goes (.getMeasurements m peer n) 7 (if n = 4 then .keyExchange m peer 0 else .getMeasurements m peer (n + 1)) ∧
      ∃ t, exec (.getMeasurements m peer n) s = .next t ∧ (∀ k, k ≠ n → (k ∈ (t.session peer m).measured ↔ k ∈ x.measured)) ∧
        (x.measured.Nodup → (n ∈ (t.session peer m).measured ↔ s.measures m peer n = true))) ∧
    (3 ≤ x.stage → x.keyed = false → goes (.keyExchange m peer 0) 8 (.finish m peer 0)) ∧
    (∀ n, (n ≠ 0x14 → fails (.getVersion m peer n)) ∧ (2 ^ 32 ≤ n → fails (.getCapabilities m peer n)) ∧
      (n ≠ 1 → fails (.negotiateAlgorithms m peer n)) ∧ (n ≠ 0 → fails (.getDigests m peer n) ∧ fails (.getCertificate m peer n) ∧
        fails (.challenge m peer n) ∧ fails (.keyExchange m peer n)) ∧ (n = 0 ∨ 4 < n → fails (.getMeasurements m peer n))) ∧
    (x.stage < 3 ∨ x.keyed = true → fails (.keyExchange m peer 0)) ∧
    (x.keyed = false ∨ leaderKnown peer = false → fails (.finish m peer 0)) ∧
    (s.attesting m peer = false → x.keyed = true → leaderKnown peer = true → ∃ t, exec (.finish m peer 0) s = .next t ∧
      t.session peer m = { x with stage := max x.stage 9, error := false, secured := true }) ∧
    (s.attesting m peer = true → x.keyed = true → leaderKnown peer = true → (s.module peer).rekey = none →
      let slot := (s.module m).slot
      let fit := x.certOk = true ∧ (∀ n ∈ [1, 2, 3, 4], n ∈ x.measured) ∧ (s.module peer).slots.getLsbD slot = false
      (fit → ∃ t r, exec (.finish m peer 0) s = .next t ∧ (t.module peer).rekey = some r ∧ (t.module peer).tstate = 3 ∧
        r.epoch = nextEpoch (s.module peer).epoch ∧ (∀ i < 64, r.slots.getLsbD i = ((s.module peer).slots.getLsbD i || i == slot)) ∧
        (tget (t.module peer).keys r.epoch).isSome = true ∧
        (m ≠ peer → (s.module peer).domain = (s.module m).tdom → t.Expects (s.cc + 1) (.vendorDefinedRequest m peer))) ∧
      (¬ fit → ∃ t, exec (.finish m peer 0) s = .next t ∧ (t.module m).tstate = 4)) ∧
    ((s.module m).domain = 0 → ∃ t, exec (.endSession m peer) s = .next t ∧ t.session peer m = Session.none ∧
      (∀ n, n ≠ m → t.session peer n = s.session peer n) ∧ t.boughs = s.boughs ∧ t.mem = s.mem)

/-- Epochs, keys and domains (R407, R412 to R415, R418, R419, R421). A re-key starts the next epoch with a new key for a set of slots; the
leader delivers the key in each member's session; a member outside the set, or whose key fails its check, leaves, and the others take
the new numbering and send their BAR frame once what they sent under the old epoch is acknowledged; members that have not by the limit are
evicted. A TSEQ that reaches 2^53 has the leader start a re-key with its present members, once none is in progress. A write of TCFG forms a domain, attests to one, or leaves it.
It rests on choices of the model too (assumptions 47, 99, 100, 115). -/
def Obligations.TrustKeys : Prop :=
  let starts := fun (s t : State) (m : Nat) (slots : Nat → Bool) => ∃ r, (t.module m).rekey = some r ∧ (t.module m).tstate = 3 ∧
    r.epoch = nextEpoch (s.module m).settle.epoch ∧ (∀ i < 64, r.slots.getLsbD i = slots i) ∧ r.got = false ∧
    (tget (t.module m).keys r.epoch).isSome = true
  let left := fun (t : State) (m : Nat) => (t.module m).domain = 0 ∧ (t.module m).keys = [] ∧ (t.module m).formed = false
  (∀ (s : State) (m : Nat) (slots : BitVec 64), (s.module m).leads = true → (s.module m).domain ≠ 0 → (s.module m).rekey = none →
    slots.getLsbD (s.module m).slot = true →
      (slots &&& ~~~(s.module m).slots = 0 → ∃ t, exec (.rekeyStart m slots) s = .next t ∧ starts s t m slots.getLsbD) ∧
      (slots &&& ~~~(s.module m).slots ≠ 0 → exec (.rekeyStart m slots) s = .next s)) ∧
  (∀ (s : State) (m peer : Nat), (s.module m).domain ≠ 0 → s.leaderOf (s.module m).domain = some peer →
    (s.module m).tcfg.getLsbD 0 = false ∨ (s.module m).tdom ≠ (s.module m).domain → (s.module peer).rekey = none → ∃ t, exec (.endSession m peer) s = .next t ∧
      starts s t peer fun i => (s.module peer).slots.getLsbD i && i != (s.module m).slot) ∧
  (∀ (s : State) (m peer : Nat) (r : Rekey), (s.module peer).rekey = some r → r.got = false → m ∈ s.rekeyTargets peer r.slots →
    (s.module m).trustUp = true → ∃ t, exec (.vendorDefinedRequest m peer) s = .next t ∧
      tget (t.module m).keys r.epoch = some (tgetD (s.module peer).keys r.epoch 0) ∧ (t.module peer).rekey = some r) ∧
  (∀ (s : State) (m : Nat) (f : BitVec 512) (key : BitVec 256), (s.module m).rekeyFrame = some f → (s.module m).domain ≠ 0 →
    tget (s.module m).keys (frField f 96 16) = some key →
      let slots : BitVec 64 := BitVec.ofNat 64 (frField f 128 64)
      ∃ t, exec (.rekeyReceive m) s = .next t ∧ (slots.getLsbD (s.module m).slot = false → left t m) ∧
        (slots.getLsbD (s.module m).slot = true →
          (keyCheck key ≠ frField f 192 32 → left t m) ∧
          (keyCheck key = frField f 192 32 → t.Expects (s.cc + 1) (.rekeyDrainDone m) ∧ (t.module m).tstate = 3 ∧ (t.module m).slots = slots ∧
            (t.module m).bN = ((List.range 64).filter fun i => slots.getLsbD i).length ∧
            (t.module m).member = ((List.range (s.module m).slot).filter fun i => slots.getLsbD i).length ∧
            ∃ r, (t.module m).rekey = some r ∧ r.epoch = frField f 96 16 ∧ r.got = true ∧ r.seq = frSeq f))) ∧
  (∀ (s : State) (m : Nat) (r : Rekey), (s.module m).rekey = some r →
    (r.got = true → r.barSent = false → s.drained m r = true → (s.module m).bcfg.getLsbD 0 = true →
      ∃ t q, exec (.rekeyDrainDone m) s = .next t ∧ t = { s with modules := t.modules } ∧
        t.module m = { s.module m with sendQ := (s.module m).sendQ ++ [q], rekey := some { r with barSent := true } } ∧ q.type = 2 ∧
        q.payload.toNat = packFields [(0xFFF, 0, 12), ((s.module m).bN, 32, 16)]) ∧
    (∀ n, r.appliedCc = some n → (s.module m).leads = true → n + (s.module m).drainCc ≤ s.cc → (s.die (32 * m)).closed ≠ (s.module m).epoch →
      ∃ t, exec (.drainTimeout m) s = .next t ∧
        starts s t m fun i => r.slots.getLsbD i && (i == (s.module m).slot || r.arrived.contains i))) ∧
  (∀ (s : State) (d l c : Nat), s.leaderOf (s.module (moduleOf d)).domain = some l → c < 4 →
    2 ^ 53 ≤ tgetD (s.die d).tseq (4 * s.sendEpoch d + c) 0 →
      ((s.module l).rekey = none → ∃ t, exec (.tseqExhaustion d) s = .next t ∧ starts s t l (s.module l).slots.getLsbD) ∧
      ((s.module l).rekey ≠ none → exec (.tseqExhaustion d) s = .next s)) ∧
  ∀ (s : State) (m : Nat) (v : DWord), (s.module m).answers true = true →
    let x := s.module m
    (tcfgOk x.tcfg v = true → x.tcfg.getLsbD 0 = false → v.getLsbD 0 = true → v.toNat / 2 ^ 48 ≠ 0 → x.domain = 0 →
      (v.getLsbD 1 = true → ∃ t, exec (.tcfgJoin m v) s = .next t ∧ (t.module m).tcfg = v ∧
        (t.module m).tstate = (if identityOk m then 2 else 4) ∧ (identityOk m = true → (t.module m).epoch = 1 ∧
          (t.module m).keys.map (·.1) = [1] ∧ (t.module m).slots = BitVec.ofNat 64 (2 ^ bitsOf v.toNat 8 6) ∧ (t.module m).bN = 1 ∧
          (t.module m).formed = true)) ∧
      (v.getLsbD 1 = false → ∃ t, exec (.tcfgJoin m v) s = .next t ∧ (t.module m).tcfg = v ∧
        (t.module m).tstate = (if identityOk m then 1 else 4) ∧
        ∀ l, l ≠ m → s.leaderOf (v.toNat / 2 ^ 48) = some l → identityOk m = true → t.Expects (s.cc + 1) (.getVersion m l 0x14))) ∧
    (tcfgOk x.tcfg v = true → x.tcfg.getLsbD 0 = true → v.getLsbD 0 = false →
      (x.domain = 0 → ∃ t, exec (.tcfgLeave m v) s = .next t ∧ (t.module m).tcfg = v ∧
        (t.module m).tstate = if x.tstate = 1 then 0 else x.tstate) ∧
      (∀ l, x.domain ≠ 0 → s.leaderOf x.domain = some l → ∃ t, exec (.tcfgLeave m v) s = .next t ∧ (t.module m).tcfg = v ∧
        (l = m → left t m) ∧ (l ≠ m → t.Expects (s.cc + 1) (.endSession m l) ∧ (t.module m).tstate = x.tstate))) ∧
    (tcfgOk x.tcfg v = false → exec (.tcfgJoin m v) s = .next s ∧ exec (.tcfgLeave m v) s = .next s)

/-! ### Records, debugging and freezing -/

/-- The log ring, the trace buffer and debugging from the host (R424, R425, R427, R433, R436 to R438, R443, R446, R447). A write that
enables the log empties its ring and puts a CLOCK record first; LOGRD moves with the host and a gap ends once a quarter is free; a wrap of
the clock puts a CLOCK record. A trace record goes to TRWR, and one whose page faults is counted and leaves TRWR at the next 64 KiB
boundary. DBGRUN resumes the stopped boughs that it names, or all. A freeze stops every clock of the module and its neighbours lose
its light; the debug port then gives what it is asked for.
It rests on choices of the model too (assumptions 48, 104, 105, 106, 107, 112). -/
def Obligations.RecordEngine : Prop :=
  (∀ (s : State) (d : Nat) (v : DWord), (s.module (moduleOf d)).answers false = true → s.memoryWf = true →
    let x := s.die d
    let clock := logRecord 0x0A 0 0 (s.cc % 2 ^ 64) s.cc
    (x.logctlOk v = true → v.getLsbD 0 = true → x.logOn = false → ∃ t, exec (.logctlEnable d v) s = .next t ∧ (t.die d).logCtl = v ∧
      (t.die d).logWr = 32 ∧ (t.die d).logRd = 0 ∧ (t.die d).lostCnt = 0 ∧ (t.die d).gap = false ∧ (t.die d).reserve = [] ∧
      readNum t.mem x.logBase.toNat 32 = clock ∧
      (s.writes = [] → ∀ a, (a < x.logBase.toNat ∨ x.logBase.toNat + 32 ≤ a) → readByte t.mem a = readByte s.mem a) ∧ t.boughs = s.boughs ∧ t.groves = s.groves) ∧
    (x.logctlOk v = false → exec (.logctlEnable d v) s = .next s) ∧
    (∃ t, exec (.logrdWrite d v) s = .next t ∧ (t.die d).logRd = v.toNat / 32 * 32 % x.logSize ∧ (x.gap = false → t = { s with dies := t.dies }) ∧
      (x.gap = true → x.logSize / 4 ≤ Die.logFree { x with logRd := v.toNat / 32 * 32 % x.logSize } →
        (t.die d).gap = false ∧ (t.die d).logWr = (x.logWr + 32) % x.logSize ∧
        readNum t.mem (x.logBase.toNat + x.logWr) 32 = logRecord 0x09 0 0 x.gapLost s.cc)) ∧
    (s.cc % 2 ^ 40 = 0 → x.logOn = true → 64 ≤ x.logFree → ∃ t, exec (.logClockWrap d) s = .next t ∧
      (t.die d).logWr = (x.logWr + 32) % x.logSize ∧ readNum t.mem (x.logBase.toNat + x.logWr) 32 = clock ∧
      t.boughs = s.boughs ∧ t.groves = s.groves) ∧
    (trctlOk v = true → ∃ t, exec (.trctlWrite d v) s = .next t ∧ t = { s with dies := t.dies } ∧ (∀ k, k ≠ d → t.die k = s.die k) ∧
      t.die d = { x with trCtl := v, trWr := 0, trLost := 0, pgLost := false, bufDrop := false, lossDue := false }) ∧
    (trctlOk v = false → exec (.trctlWrite d v) s = .next s)) ∧
  (∀ (s : State) (d : Nat) (r : TraceRec) (rest : List TraceRec), (s.die d).pending = r :: rest → s.clocked (64 * d) = true →
    (s.die d).lossDue = false →
      let x := s.die d
      let u := s.onDie d fun y => { y with pending := rest }
      let put := u.writeVa d x.trAsid (x.trBase.toNat + x.trWr) (bytesOfNat 32 r.bits.toNat)
      (∀ w, put = .ok w → ∃ t, exec (.traceRecordWrite d) s = .next t ∧ t.mem = w.mem ∧ (t.die d).pending = rest ∧
        (t.die d).trWr = (x.trWr + 32) % x.trSize ∧ (t.die d).trLost = x.trLost) ∧
      (∀ f, put = .error f → ∃ t, exec (.traceRecordWrite d) s = .next t ∧ t.mem = s.mem ∧ (t.die d).pending = rest ∧
        (t.die d).trLost = min (x.trLost + 1) (2 ^ 32 - 1) ∧ (t.die d).pgLost = true ∧ (t.die d).lossDue = true ∧
        (t.die d).trWr = ((x.trBase.toNat + x.trWr) / 2 ^ 16 * 2 ^ 16 + 2 ^ 16 - x.trBase.toNat) % x.trSize)) ∧
  (∀ (s : State) (d k : Nat) (v : DWord) (b : Bough) (g : Grove), dbgrunOk v = true → (s.module (moduleOf d)).answers false = true →
    s.bough? k = some b → s.grove? b.grove = some g → g.core = 64 * d + v.toNat % 64 → g.life = .placed → b.status = .debug →
    v.getLsbD 17 = true ∨ b.ctx = v.toNat / 256 % 16 →
      ∀ i ∈ [Instr.dbgrunResume d v, .dbgrunStep d v, .dbgrunAll d v], ∃ t, exec i s = .next t ∧
        t = { s with boughs := t.boughs, dies := t.dies } ∧
        t.bough? k = some { b with status := .ready, eligSince := s.cc, dbgCause := 0, dbgSkip := true, dbgStep := v.getLsbD 16 }) ∧
  ∀ (s : State) (m : Nat), (s.module m).clocked = true →
    let dark := fun t : State => (t.module m).frozenAt = some s.cc ∧ (t.module m).mstate = 3 ∧ t.boughs = s.boughs ∧ t.mem = s.mem ∧
      ∀ f < 6, ∀ j < 8, ∀ g < 4, ∃ n, s.cc ≤ n ∧ (n, .lossOfLight (peerEnd (portKey m f j)) g) ∈ t.agenda
    (∃ t, exec (.freezePin m) s = .next t ∧ dark t) ∧
    (∀ v, mctlOk v = true → v.getLsbD 63 = false → v.getLsbD 8 = true → ∃ t, exec (.mctlFreeze m v) s = .next t ∧ dark t) ∧
    ∀ (u : State) (f sel : Nat) (bs : List Byte), (u.module m).frozenAt = some f → u.portBytes m sel f = some bs →
      ∃ t, exec (.debugPortRead m sel) u = .next t ∧ t = { u with modules := t.modules } ∧
        t.module m = { u.module m with hostData := bs, hostPoisoned := false }

/-! ### The host link -/

/-- Reset, firmware, power and temperature (R465, R466, R470, R471). A reset discards all state of its module and its memory reads zero;
the boot ROM goes on at a write of FWLEN once FWADDR has been written, and the firmware is measured and runs, or FWERR says why not (3 for a read of
the host's memory that fails; for a misaligned address it is assumption 50); the power state asked for comes once no launch is placed; a die too hot steps the
clock down, one that has cooled up, and at 115 degrees every clock of the module stops.
That a module, its dies, cores and links then hold what `Module.initial` and its like give is the model's choice where the spec names no value.
It rests on choices of the model too (assumptions 5, 7, 9, 49, 110, 112, 115). -/
def Obligations.ResetAndPower : Prop :=
  (∀ (s : State) (m : Nat),
    let fresh := fun t : State => t.module m = { Module.initial with hostMem := (s.module m).hostMem } ∧
      (∀ a, a / 2 ^ 45 = m → readByte t.mem a = 0) ∧ (∀ d, d / 32 = m → t.die d = Die.initial) ∧
      (∀ c, c / 64 / 32 = m → t.core c = Core.initial) ∧ (∀ k, linkModule k = m → t.link k = Link.initial) ∧
      (∀ p, p ≠ m → t.module p = { s.module p with sessions := tdel (s.module p).sessions m }) ∧ (∀ k ∈ s.grovesOn m, t.grove? k = none) ∧ t.cc = s.cc ∧
      (s.grovesOn m = [] → (∀ a, a / 2 ^ 45 ≠ m → readByte t.mem a = readByte s.mem a) ∧ ∀ d, d / 32 ≠ m → t.die d = s.die d)
    (∃ t, exec (.pcieFundamentalReset m) s = .next t ∧ fresh t) ∧
    ∀ v, mctlOk v = true → v.getLsbD 63 = true → ∃ t, exec (.mctlReset m v) s = .next t ∧ fresh t) ∧
  (∀ (s : State) (m : Nat) (v : DWord), (s.module m).clocked = true →
    let x := s.module m
    let becomes := fun (t : State) (y : Module) => t.module m = y ∧ (∀ p, p ≠ m → t.module p = s.module p) ∧ t.boughs = s.boughs ∧ t.mem = s.mem
    (x.mstate = 0 → ∃ t, exec (.fwlenWrite m v) s = .next t ∧ becomes t { x with fwLen := v } ∧
      (x.fwGiven = true → t.Expects (s.cc + 1) (.firmwareVerify m)) ∧ (x.fwGiven = false → t.agenda = s.agenda)) ∧
    (x.mstate = 0 → ∃ t, exec (.firmwareVerify m) s = .next t ∧
      let image := readBytes x.hostMem x.fwAddr.toNat x.fwLen.toNat
      becomes t (if x.fwLen = 0 ∨ 2 ^ 26 < x.fwLen.toNat then { x with mstate := 2, fwErr := 2 }
        else if x.fwAddr.toNat % 4096 ≠ 0 ∨ Config.hostReadError s.free = true then { x with mstate := 2, fwErr := 3 }
        else if Config.slhVerify Config.vendorKey image = true then { x with mstate := 1, fwErr := 0, fwDigest := Config.shake256 image 64 }
        else { x with mstate := 2, fwErr := 1 })) ∧
    (mctlOk v = true → v.getLsbD 63 = false → v.getLsbD 8 = false → ∃ t, exec (.mctlPreq m v) s = .next t ∧
      becomes t { x with preq := v.extractLsb' 0 2, compDis := v.extractLsb' 32 24 } ∧
      (v.toNat % 4 ≠ x.pstate → t.Expects (s.cc + 1) (.powerStateChange m))) ∧
    (s.launchPlaced m = false → x.preq ≠ 3 → ∃ t, exec (.powerStateChange m) s = .next t ∧ becomes t { x with pstate := x.preq.toNat } ∧
      (x.preq = 0 → t.Expects (s.cc + 1) (.launchPlacement m)))) ∧
  ∀ (s : State) (d : Nat) (temp : BitVec 16) (power : BitVec 32), (s.module (moduleOf d)).clocked = true →
    let m := moduleOf d
    let u := s.reading d temp power
    let n := (s.module m).clkStep
    let steps := fun (i : Instr) (k : Nat) => ∃ t, exec i s = .next t ∧ (t.module m).clkStep = k ∧ (t.module m).throt = decide (0 < k) ∧
      (t.die d).temp = temp ∧ (t.die d).power = power ∧ t.boughs = s.boughs ∧ t.mem = s.mem
    (u.tooHot m = true → n < 3 → steps (.clockStepDown d temp power) (n + 1)) ∧
    (u.tooHot m = false → 0 < n → steps (.clockStepUp d temp power) (n - 1)) ∧
    (1680 ≤ temp.toNat → d % 32 < 24 → u.tooHot m = true) ∧
    (1840 ≤ temp.toNat → ∃ t, exec (.thermalTrip d temp power) s = .next t ∧ (t.module m).tripped = true ∧ (t.module m).mstate = 4 ∧
      (t.module m).clocked = false ∧ (t.die d).temp = temp ∧ t.boughs = s.boughs ∧ t.mem = s.mem)

/-- Translation, the memory window, the event ring and the map of registers (R128, R464, R465, R467, R468, R473). An invalidation waits for what was
translated before it, drops the translations of its range and the L1 lines of its address space, and the root in force is the one written.
The window reads and writes the bytes at its address; a write waits behind the host's writes before it and behind a copy that owns the line. A
register keeps what is written to it; one whose write is an event acts as that
event; an offset that names no register changes nothing.
It rests on choices of the model too (assumptions 31, 39, 108, 112). -/
def Obligations.HostAccess : Prop :=
  (∀ (s : State) (m : Nat) (v : DWord), (s.module m).answers false = true →
    let x := s.module m
    (v.toNat < 2 ^ 16 → x.invals.length < 8 → ∃ t, exec (.tigo m v) s = .next t ∧
      t = { s with modules := t.modules, agenda := t.agenda, free := t.free } ∧
      t.module m = { x with invals := x.invals ++ [(v.toNat, x.tiBase.toNat, x.tiLen.toNat)] } ∧ t.Expects (s.cc + 1) (.tinvDone m)) ∧
    (8 ≤ x.invals.length → exec (.tigo m v) s = .next s) ∧
    (∀ asid base len rest, x.invals = (asid, base, len) :: rest → s.translatedOut m asid base len = false →
      ∃ t, exec (.tinvDone m) s = .next t ∧ (t.module m).invals = rest ∧ tgetD (t.module m).rootsLive asid 0 = tgetD x.roots asid 0 ∧
        (∀ d ∈ moduleDies m, ∀ e, e ∈ (t.die d).tlb ↔ e ∈ (s.die d).tlb ∧ ¬ (e.asid = asid ∧ inRange base len e.va e.size = true)) ∧
        (∀ c, moduleOf (dieOf c) = m → ∀ e ∈ (t.core c).l1, e.asid ≠ asid) ∧ t.boughs = s.boughs ∧ t.groves = s.groves ∧ t.mem = s.mem) ∧
    (∃ t, exec (.eqrdWrite m v) s = .next t ∧ t = { s with modules := t.modules } ∧ (t.module m).eqRd = v.toNat ∧
      (x.waiting = [] → t.module m = { x with eqRd := v.toNat }))) ∧
  (∀ (s : State) (m offset n : Nat), Sys2Proof.Machine.windowOk offset n = true →
    let x := s.module m
    let pa := x.windowPa m offset
    (x.frozenAt = none → x.windowOn = true → s.windowHeld pa = false → ∃ t, exec (.windowRead m offset n) s = .next t ∧ t = { s with modules := t.modules } ∧
      t.module m = { x with hostData := readBytes s.mem pa n, hostPoisoned := s.poisoned pa }) ∧
    (x.frozenAt = none → x.windowOn = false → ∃ t, exec (.windowRead m offset n) s = .next t ∧ t = { s with modules := t.modules } ∧
      t.module m = { x with hostData := List.replicate n 0, hostPoisoned := false }) ∧
    ∀ bytes : List Byte, bytes.length = n → s.memoryWf = true →
      let behind := s.windowHeld pa = true ∨ ∃ w ∈ s.writes, w.2.bough = hostKey m ∧ w.2.order = 0
      (x.windowOn = true → behind → ∃ t, exec (.windowWrite m offset bytes) s = .next t ∧
        t = { s with nextOp := s.nextOp + 1, writes := t.writes, agenda := t.agenda } ∧ (s.cc + 1, .homeAccess s.nextOp 0 false) ∈ t.agenda) ∧
      (x.windowOn = true → ¬ behind → ∃ t, exec (.windowWrite m offset bytes) s = .next t ∧ t.boughs = s.boughs ∧ t.groves = s.groves ∧
        ∀ a, readByte t.mem a = if pa ≤ a ∧ a < pa + n then bytes.getD (a - pa) 0 else readByte s.mem a) ∧
      (x.windowOn = false → exec (.windowWrite m offset bytes) s = .next s)) ∧
  ∀ (s : State) (m : Nat) (v : DWord),
    let write := fun off : Nat => exec (.registerWrite m off v) s
    ((s.module m).answers false = true →
      (∀ off ∈ [0x10, 0x20, 0x58, 0x1010, 0x1018] ++ (if v.toNat < 2 ^ 51 then [0x50] else []), ∃ t, write off = .next t ∧ t = { s with modules := t.modules } ∧
        (∀ p, p ≠ m → t.module p = s.module p) ∧ t.readRegister m off = v) ∧
      (v.toNat < 2 ^ 48 → ∃ t, write 0x20008 = .next t ∧ t = { s with modules := t.modules } ∧ t.module m = { s.module m with btim := v }) ∧
      (∀ d < 24, ∃ t, write (0x30000 + 256 * d + 0x38) = .next t ∧ t = { s with dies := t.dies } ∧
        t.die (32 * m + d) = { s.die (32 * m + d) with trBase := v }) ∧
      write 0x1020 = exec (.tigo m v) s) ∧
    write 0x08 = exec (.mctlPreq m v) s ∧ write 0x18 = exec (.fwlenWrite m v) s ∧ write 0x38 = exec (.eqrdWrite m v) s ∧
    write 0x48 = exec (.lqdoorSubmit m v) s ∧ (v.toNat % 4 = 1 → write 0x60 = exec (.preemptLaunch m v) s) ∧
    (v.toNat % 4 = 2 → write 0x60 = exec (.preemptGrove m v) s) ∧ (v.toNat % 4 = 3 → write 0x60 = exec (.kill m v) s) ∧
    (∀ f < 6, ∀ j < 8, write (0x10000 + 256 * (8 * f + j)) = exec (.lctlPark (portKey m f j) v) s) ∧
    (∀ off, off % 8 ≠ 0 ∨ 0x40000 + 8 * 24 ≤ off → write off = .next s) ∧ (2 ^ 51 ≤ v.toNat → write 0x50 = .next s) ∧ write 0x00 = .next s ∧ write 0x30 = .next s

/-! ### Fields, patterns and groups of lanes -/

/-- Operations on fields and sub-elements, and across lanes, by value. Bit fields (R247): bfe and bfi, in words, uniform forms and pairs.
Sub-elements (R272 to R275): extr, ins, unpk, pack of two words into halves, cvt between words, and mulq (R460). Lane masks (R260, R261): ballot and pcnt.
Groups (R263, R265 to R268): xcmpk of every type, and under .i32 and .u32 xred, xscan and xseg, a sum without SAT. Draws (R296): rng. In the forms
that go by spans the stage's item width is one that divides 64 (R11). -/
def Obligations.PatternValues : Prop :=
  (∀ (s : State) (c : Ctx) (a : VSlot),
    let field := fun (w : Nat) (f : Nat) =>
      if w ≤ f % 64 ∨ f / 256 % 128 = 0 then 0 else min (f / 256 % 128) (w - f % 64)
    let bfe := fun (w x f : Nat) => x / 2 ^ (f % 64) % 2 ^ field w f
    let bfi := fun (w x y f : Nat) =>
      x % 2 ^ (f % 64) + 2 ^ (f % 64) * (y % 2 ^ field w f) + 2 ^ (f % 64 + field w f) * (x / 2 ^ (f % 64 + field w f))
    ((a.ty = .i32 ∨ a.ty = .u32) →
      (s.Issues c (.bfe a) → s.WordResult c (.bfe a) a fun x f _ =>
        let n := field 32 f.toNat
        let y := bfe 32 x.toNat f.toNat
        if a.ty = .i32 ∧ 0 < n ∧ 2 ^ (n - 1) ≤ y then BitVec.ofInt 32 ((y : Int) - 2 ^ n) else BitVec.ofNat 32 y) ∧
      (s.Issues c (.bfi a) → s.WordResult c (.bfi a) a fun x y f => BitVec.ofNat 32 (bfi 32 x.toNat y.toNat f.toNat))) ∧
    (a.ty = .d → a.u = false →
      (s.Issues c (.bfe a) → s.PairResult c (.bfe a) a fun l =>
        BitVec.ofNat 64 (bfe 64 (c.val1 (.bfe a) l).toNat (c.word2 (.bfe a) l).toNat)) ∧
      (s.Issues c (.bfi a) → s.PairResult c (.bfi a) a fun l =>
        BitVec.ofNat 64 (bfi 64 (c.val1 (.bfi a) l).toNat (c.val2 (.bfi a) l).toNat (c.word3 (.bfi a) l).toNat)))) ∧
  (∀ (s : State) (c : Ctx) (a : VSlot),
    let n := tyWidth a.ty
    let m := tyCount a.ty
    let j := a.imm9.toNat % 8
    (s.Issues c (.extr a) → s.LaneResult c (.extr a) a 0 fun l =>
      let x := subAt n (c.word1 (.extr a) l) j
      if (a.ty = .h2 ∨ a.ty = .b4 ∨ a.ty = .s5 ∨ a.ty = .n8) ∧ 2 ^ (n - 1) ≤ x then BitVec.ofInt 32 ((x : Int) - 2 ^ n)
      else BitVec.ofNat 32 x) ∧
    (s.Issues c (.ins a) → s.LaneResult c (.ins a) a 0 fun l =>
      wordOfSubs n m fun k => if k = j then (c.word2 (.ins a) l).toNat % 2 ^ n else subAt n (c.word1 (.ins a) l) k) ∧
    (s.Issues c (.unpk a) → s.LaneResult c (.unpk a) a 0 fun l =>
      wordOfSubs n m fun k =>
        subAt n (if k % 2 = 0 then c.word1 (.unpk a) l else c.word2 (.unpk a) l) (a.imm9.toNat % 2 * m / 2 + k / 2)) ∧
    (s.Issues c (.pack a) → (a.ty = .h2 ∨ a.ty = .uh2) → (convSrc a = .i32 ∨ convSrc a = .u32) →
      let fit := fun w => let y := intOfWord (convSrc a) w
        BitVec.ofInt 16 (if a.sat = false then y else if a.ty = .h2 then max (-(2 ^ 15)) (min (2 ^ 15 - 1) y) else max 0 (min (2 ^ 16 - 1) y))
      s.LaneResult c (.pack a) a 0 fun l => fit (c.word2 (.pack a) l) ++ fit (c.word1 (.pack a) l)) ∧
    (s.Issues c (.cvt a) → a.u = false → (a.ty = .i32 ∨ a.ty = .u32) → (convSrc a = .i32 ∨ convSrc a = .u32) →
      s.LaneResult c (.cvt a) a 0 fun l => wordOfInt a.ty a.sat (intOfWord (convSrc a) (c.word1 (.cvt a) l))) ∧
    (s.Issues c (.mulq a) → s.LaneResult c (.mulq a) a 0 fun l =>
      let y := fun k => ((c.word1 (.mulq a) l).extractLsb' (16 * k) 16).toInt * ((c.word2 (.mulq a) l).extractLsb' (16 * k) 16).toInt
      let fit := fun z : Int => BitVec.ofInt 16 (max (-(2 ^ 15)) (min (2 ^ 15 - 1) ((z + 2 ^ 14) / 2 ^ 15)))
      fit (y 1) ++ fit (y 0))) ∧
  (∀ (s : State) (c : Ctx) (a : VSlot),
    let m := c.actLanes a.pr &&& c.b.pred (a.sa.toNat % 8)
    let spanned := a.imm9.getLsbD 8
    let own := fun l : Nat => (m.toNat / 2 ^ (c.width * (l / c.width)) % 2 ^ c.width)
    (s.Issues c (.ballot a) →
      (a.u = false → a.ty = .d → s.PairResult c (.ballot a) a fun l => if spanned then BitVec.ofNat 64 (own l.val) else m) ∧
      (a.u = false → a.ty = .u32 → s.LaneResult c (.ballot a) a 0 fun l => BitVec.ofNat 32 (own l.val)) ∧
      ∀ n, a.u = true → uniformActs a.pr = true → classOf a.dst = .scalar n → s.UniResult c (.ballot a) n m) ∧
    (s.Issues c (.pcnt a) → 0 < c.width → c.width ∣ 64 →
      (a.u = false → s.LaneResult c (.pcnt a) a 0 fun l => BitVec.ofNat 32
        ((List.range 64).countP fun k => m.getLsbD k && (!spanned || k / c.width == l.val / c.width))) ∧
      ∀ n, a.u = true → uniformActs a.pr = true → classOf a.dst = .scalar n →
        s.UniResult c (.pcnt a) n (BitVec.ofNat 64 ((List.range 64).countP fun k => m.getLsbD k)))) ∧
  (∀ (s : State) (c : Ctx) (a : VSlot), 0 < c.width → c.width ∣ 64 →
    let x := fun k : Nat => laneOf (c.read a.ty a.imm9 a.sa) k
    let fill := fun k : Nat => laneOf (c.readFill a.ty a.imm9 a.sc) k
    let word := fun k : Nat => (x k).setWidth 32
    let moved := fun l : Fin 64 =>
      let first := if a.imm9.getLsbD 8 then l.val / c.width * c.width else 0
      match ((c.contributors a l.val).filter fun k => (c.b.pred (a.sb.toNat % 8)).getLsbD k)[l.val - first]? with
      | some k => x k
      | none => fill l.val
    let keyOf := fun k : Nat => (laneOf (c.srcB (.xseg a) a) k).setWidth 32
    let run := fun l : Nat => (c.contributors a l).filter fun k =>
      decide (k ≤ l) && (c.contributors a l).all fun j => decide (j < k) || decide (l < j) || keyOf j == keyOf l
    let op := a.imm9.toNat % 8
    (s.Issues c (.xcmpk a) →
      (a.ty ≠ .d → s.LaneResult c (.xcmpk a) a 0 fun l => (moved l).setWidth 32) ∧ (a.ty = .d → s.PairResult c (.xcmpk a) a moved)) ∧
    ((a.ty = .i32 ∨ a.ty = .u32) → (op = 0 → a.sat = false) →
      (s.Issues c (.xred a) → s.LaneResult c (.xred a) a 0 fun l => foldWords op a.ty ((c.contributors a l.val).map word)) ∧
      (s.Issues c (.xscan a) → s.LaneResult c (.xscan a) a 0 fun l => foldWords op a.ty
        (((c.contributors a l.val).filter fun k => if a.imm9.getLsbD 3 then decide (k < l.val) else decide (k ≤ l.val)).map word)) ∧
      (s.Issues c (.xseg a) → s.LaneResult c (.xseg a) a 0 fun l => foldWords op a.ty ((run l.val).map word)))) ∧
  ∀ (s : State) (c : Ctx) (a : VSlot), s.Issues c (.rng a) →
    let z := fun l : Fin 64 => drawOf c.l.seed (c.b.iid.toArray.getD (l.val / c.width) 0) l.val c.b.pc ((c.val1 (.rng a) l).toNat % 2 ^ 24)
    (a.u = false → a.ty = .u32 → s.LaneResult c (.rng a) a 0 fun l => (z l).extractLsb' 32 32) ∧
      (a.u = false → a.ty = .d → s.PairResult c (.rng a) a z) ∧
      ∀ n, a.u = true → uniformActs a.pr = true → classOf a.dst = .scalar n →
        s.UniResult c (.rng a) n (drawOf c.l.seed 0 64 c.b.pc ((c.readUni a.ty a.imm9 a.sa).toNat % 2 ^ 24))
end

