-- ==== Sys2Proof/Laws/State.lean ====
section
/-!
SUPPORT. One lemma for each field of the state and each of its updates, and for the registers of a bough: what an update
leaves, and what it sets. Every one holds by unfolding the update.
-/
namespace Sys2Proof.Machine

/-! ### The lifters -/

@[simp] theorem State.onBough_cc (s : State) (k : Nat) (f : Bough → Bough) : (s.onBough k f).cc = s.cc := rfl
@[simp] theorem State.onBough_moduleCount (s : State) (k : Nat) (f : Bough → Bough) : (s.onBough k f).moduleCount = s.moduleCount := rfl
@[simp] theorem State.onBough_mem (s : State) (k : Nat) (f : Bough → Bough) : (s.onBough k f).mem = s.mem := rfl
@[simp] theorem State.onBough_poison (s : State) (k : Nat) (f : Bough → Bough) : (s.onBough k f).poison = s.poison := rfl
@[simp] theorem State.onBough_modules (s : State) (k : Nat) (f : Bough → Bough) : (s.onBough k f).modules = s.modules := rfl
@[simp] theorem State.onBough_dies (s : State) (k : Nat) (f : Bough → Bough) : (s.onBough k f).dies = s.dies := rfl
@[simp] theorem State.onBough_cores (s : State) (k : Nat) (f : Bough → Bough) : (s.onBough k f).cores = s.cores := rfl
@[simp] theorem State.onBough_links (s : State) (k : Nat) (f : Bough → Bough) : (s.onBough k f).links = s.links := rfl
@[simp] theorem State.onBough_launches (s : State) (k : Nat) (f : Bough → Bough) : (s.onBough k f).launches = s.launches := rfl
@[simp] theorem State.onBough_groves (s : State) (k : Nat) (f : Bough → Bough) : (s.onBough k f).groves = s.groves := rfl
@[simp] theorem State.onBough_ops (s : State) (k : Nat) (f : Bough → Bough) : (s.onBough k f).ops = s.ops := rfl
@[simp] theorem State.onBough_copies (s : State) (k : Nat) (f : Bough → Bough) : (s.onBough k f).copies = s.copies := rfl
@[simp] theorem State.onBough_writes (s : State) (k : Nat) (f : Bough → Bough) : (s.onBough k f).writes = s.writes := rfl
@[simp] theorem State.onBough_msgs (s : State) (k : Nat) (f : Bough → Bough) : (s.onBough k f).msgs = s.msgs := rfl
@[simp] theorem State.onBough_nextOp (s : State) (k : Nat) (f : Bough → Bough) : (s.onBough k f).nextOp = s.nextOp := rfl
@[simp] theorem State.onBough_nextOrder (s : State) (k : Nat) (f : Bough → Bough) : (s.onBough k f).nextOrder = s.nextOrder := rfl
@[simp] theorem State.onBough_free (s : State) (k : Nat) (f : Bough → Bough) : (s.onBough k f).free = s.free := rfl
@[simp] theorem State.onBough_agenda (s : State) (k : Nat) (f : Bough → Bough) : (s.onBough k f).agenda = s.agenda := rfl
@[simp] theorem State.onBough_cur (s : State) (k : Nat) (f : Bough → Bough) : (s.onBough k f).cur = s.cur := rfl

@[simp] theorem State.onGrove_cc (s : State) (k : Nat) (f : Grove → Grove) : (s.onGrove k f).cc = s.cc := rfl
@[simp] theorem State.onGrove_moduleCount (s : State) (k : Nat) (f : Grove → Grove) : (s.onGrove k f).moduleCount = s.moduleCount := rfl
@[simp] theorem State.onGrove_mem (s : State) (k : Nat) (f : Grove → Grove) : (s.onGrove k f).mem = s.mem := rfl
@[simp] theorem State.onGrove_poison (s : State) (k : Nat) (f : Grove → Grove) : (s.onGrove k f).poison = s.poison := rfl
@[simp] theorem State.onGrove_modules (s : State) (k : Nat) (f : Grove → Grove) : (s.onGrove k f).modules = s.modules := rfl
@[simp] theorem State.onGrove_dies (s : State) (k : Nat) (f : Grove → Grove) : (s.onGrove k f).dies = s.dies := rfl
@[simp] theorem State.onGrove_cores (s : State) (k : Nat) (f : Grove → Grove) : (s.onGrove k f).cores = s.cores := rfl
@[simp] theorem State.onGrove_links (s : State) (k : Nat) (f : Grove → Grove) : (s.onGrove k f).links = s.links := rfl
@[simp] theorem State.onGrove_launches (s : State) (k : Nat) (f : Grove → Grove) : (s.onGrove k f).launches = s.launches := rfl
@[simp] theorem State.onGrove_boughs (s : State) (k : Nat) (f : Grove → Grove) : (s.onGrove k f).boughs = s.boughs := rfl
@[simp] theorem State.onGrove_ops (s : State) (k : Nat) (f : Grove → Grove) : (s.onGrove k f).ops = s.ops := rfl
@[simp] theorem State.onGrove_copies (s : State) (k : Nat) (f : Grove → Grove) : (s.onGrove k f).copies = s.copies := rfl
@[simp] theorem State.onGrove_writes (s : State) (k : Nat) (f : Grove → Grove) : (s.onGrove k f).writes = s.writes := rfl
@[simp] theorem State.onGrove_msgs (s : State) (k : Nat) (f : Grove → Grove) : (s.onGrove k f).msgs = s.msgs := rfl
@[simp] theorem State.onGrove_nextOp (s : State) (k : Nat) (f : Grove → Grove) : (s.onGrove k f).nextOp = s.nextOp := rfl
@[simp] theorem State.onGrove_nextOrder (s : State) (k : Nat) (f : Grove → Grove) : (s.onGrove k f).nextOrder = s.nextOrder := rfl
@[simp] theorem State.onGrove_free (s : State) (k : Nat) (f : Grove → Grove) : (s.onGrove k f).free = s.free := rfl
@[simp] theorem State.onGrove_agenda (s : State) (k : Nat) (f : Grove → Grove) : (s.onGrove k f).agenda = s.agenda := rfl
@[simp] theorem State.onGrove_cur (s : State) (k : Nat) (f : Grove → Grove) : (s.onGrove k f).cur = s.cur := rfl

@[simp] theorem State.onCore_cc (s : State) (k : Nat) (f : Core → Core) : (s.onCore k f).cc = s.cc := rfl
@[simp] theorem State.onCore_moduleCount (s : State) (k : Nat) (f : Core → Core) : (s.onCore k f).moduleCount = s.moduleCount := rfl
@[simp] theorem State.onCore_mem (s : State) (k : Nat) (f : Core → Core) : (s.onCore k f).mem = s.mem := rfl
@[simp] theorem State.onCore_poison (s : State) (k : Nat) (f : Core → Core) : (s.onCore k f).poison = s.poison := rfl
@[simp] theorem State.onCore_modules (s : State) (k : Nat) (f : Core → Core) : (s.onCore k f).modules = s.modules := rfl
@[simp] theorem State.onCore_dies (s : State) (k : Nat) (f : Core → Core) : (s.onCore k f).dies = s.dies := rfl
@[simp] theorem State.onCore_links (s : State) (k : Nat) (f : Core → Core) : (s.onCore k f).links = s.links := rfl
@[simp] theorem State.onCore_launches (s : State) (k : Nat) (f : Core → Core) : (s.onCore k f).launches = s.launches := rfl
@[simp] theorem State.onCore_groves (s : State) (k : Nat) (f : Core → Core) : (s.onCore k f).groves = s.groves := rfl
@[simp] theorem State.onCore_boughs (s : State) (k : Nat) (f : Core → Core) : (s.onCore k f).boughs = s.boughs := rfl
@[simp] theorem State.onCore_ops (s : State) (k : Nat) (f : Core → Core) : (s.onCore k f).ops = s.ops := rfl
@[simp] theorem State.onCore_copies (s : State) (k : Nat) (f : Core → Core) : (s.onCore k f).copies = s.copies := rfl
@[simp] theorem State.onCore_writes (s : State) (k : Nat) (f : Core → Core) : (s.onCore k f).writes = s.writes := rfl
@[simp] theorem State.onCore_msgs (s : State) (k : Nat) (f : Core → Core) : (s.onCore k f).msgs = s.msgs := rfl
@[simp] theorem State.onCore_nextOp (s : State) (k : Nat) (f : Core → Core) : (s.onCore k f).nextOp = s.nextOp := rfl
@[simp] theorem State.onCore_nextOrder (s : State) (k : Nat) (f : Core → Core) : (s.onCore k f).nextOrder = s.nextOrder := rfl
@[simp] theorem State.onCore_free (s : State) (k : Nat) (f : Core → Core) : (s.onCore k f).free = s.free := rfl
@[simp] theorem State.onCore_agenda (s : State) (k : Nat) (f : Core → Core) : (s.onCore k f).agenda = s.agenda := rfl
@[simp] theorem State.onCore_cur (s : State) (k : Nat) (f : Core → Core) : (s.onCore k f).cur = s.cur := rfl

@[simp] theorem State.onDie_cc (s : State) (k : Nat) (f : Die → Die) : (s.onDie k f).cc = s.cc := rfl
@[simp] theorem State.onDie_moduleCount (s : State) (k : Nat) (f : Die → Die) : (s.onDie k f).moduleCount = s.moduleCount := rfl
@[simp] theorem State.onDie_mem (s : State) (k : Nat) (f : Die → Die) : (s.onDie k f).mem = s.mem := rfl
@[simp] theorem State.onDie_poison (s : State) (k : Nat) (f : Die → Die) : (s.onDie k f).poison = s.poison := rfl
@[simp] theorem State.onDie_modules (s : State) (k : Nat) (f : Die → Die) : (s.onDie k f).modules = s.modules := rfl
@[simp] theorem State.onDie_cores (s : State) (k : Nat) (f : Die → Die) : (s.onDie k f).cores = s.cores := rfl
@[simp] theorem State.onDie_links (s : State) (k : Nat) (f : Die → Die) : (s.onDie k f).links = s.links := rfl
@[simp] theorem State.onDie_launches (s : State) (k : Nat) (f : Die → Die) : (s.onDie k f).launches = s.launches := rfl
@[simp] theorem State.onDie_groves (s : State) (k : Nat) (f : Die → Die) : (s.onDie k f).groves = s.groves := rfl
@[simp] theorem State.onDie_boughs (s : State) (k : Nat) (f : Die → Die) : (s.onDie k f).boughs = s.boughs := rfl
@[simp] theorem State.onDie_ops (s : State) (k : Nat) (f : Die → Die) : (s.onDie k f).ops = s.ops := rfl
@[simp] theorem State.onDie_copies (s : State) (k : Nat) (f : Die → Die) : (s.onDie k f).copies = s.copies := rfl
@[simp] theorem State.onDie_writes (s : State) (k : Nat) (f : Die → Die) : (s.onDie k f).writes = s.writes := rfl
@[simp] theorem State.onDie_msgs (s : State) (k : Nat) (f : Die → Die) : (s.onDie k f).msgs = s.msgs := rfl
@[simp] theorem State.onDie_nextOp (s : State) (k : Nat) (f : Die → Die) : (s.onDie k f).nextOp = s.nextOp := rfl
@[simp] theorem State.onDie_nextOrder (s : State) (k : Nat) (f : Die → Die) : (s.onDie k f).nextOrder = s.nextOrder := rfl
@[simp] theorem State.onDie_free (s : State) (k : Nat) (f : Die → Die) : (s.onDie k f).free = s.free := rfl
@[simp] theorem State.onDie_agenda (s : State) (k : Nat) (f : Die → Die) : (s.onDie k f).agenda = s.agenda := rfl
@[simp] theorem State.onDie_cur (s : State) (k : Nat) (f : Die → Die) : (s.onDie k f).cur = s.cur := rfl

@[simp] theorem State.onModule_cc (s : State) (k : Nat) (f : Module → Module) : (s.onModule k f).cc = s.cc := rfl
@[simp] theorem State.onModule_moduleCount (s : State) (k : Nat) (f : Module → Module) : (s.onModule k f).moduleCount = s.moduleCount := rfl
@[simp] theorem State.onModule_mem (s : State) (k : Nat) (f : Module → Module) : (s.onModule k f).mem = s.mem := rfl
@[simp] theorem State.onModule_poison (s : State) (k : Nat) (f : Module → Module) : (s.onModule k f).poison = s.poison := rfl
@[simp] theorem State.onModule_dies (s : State) (k : Nat) (f : Module → Module) : (s.onModule k f).dies = s.dies := rfl
@[simp] theorem State.onModule_cores (s : State) (k : Nat) (f : Module → Module) : (s.onModule k f).cores = s.cores := rfl
@[simp] theorem State.onModule_links (s : State) (k : Nat) (f : Module → Module) : (s.onModule k f).links = s.links := rfl
@[simp] theorem State.onModule_launches (s : State) (k : Nat) (f : Module → Module) : (s.onModule k f).launches = s.launches := rfl
@[simp] theorem State.onModule_groves (s : State) (k : Nat) (f : Module → Module) : (s.onModule k f).groves = s.groves := rfl
@[simp] theorem State.onModule_boughs (s : State) (k : Nat) (f : Module → Module) : (s.onModule k f).boughs = s.boughs := rfl
@[simp] theorem State.onModule_ops (s : State) (k : Nat) (f : Module → Module) : (s.onModule k f).ops = s.ops := rfl
@[simp] theorem State.onModule_copies (s : State) (k : Nat) (f : Module → Module) : (s.onModule k f).copies = s.copies := rfl
@[simp] theorem State.onModule_writes (s : State) (k : Nat) (f : Module → Module) : (s.onModule k f).writes = s.writes := rfl
@[simp] theorem State.onModule_msgs (s : State) (k : Nat) (f : Module → Module) : (s.onModule k f).msgs = s.msgs := rfl
@[simp] theorem State.onModule_nextOp (s : State) (k : Nat) (f : Module → Module) : (s.onModule k f).nextOp = s.nextOp := rfl
@[simp] theorem State.onModule_nextOrder (s : State) (k : Nat) (f : Module → Module) : (s.onModule k f).nextOrder = s.nextOrder := rfl
@[simp] theorem State.onModule_free (s : State) (k : Nat) (f : Module → Module) : (s.onModule k f).free = s.free := rfl
@[simp] theorem State.onModule_agenda (s : State) (k : Nat) (f : Module → Module) : (s.onModule k f).agenda = s.agenda := rfl
@[simp] theorem State.onModule_cur (s : State) (k : Nat) (f : Module → Module) : (s.onModule k f).cur = s.cur := rfl

@[simp] theorem State.onLink_cc (s : State) (k : Nat) (f : Link → Link) : (s.onLink k f).cc = s.cc := rfl
@[simp] theorem State.onLink_moduleCount (s : State) (k : Nat) (f : Link → Link) : (s.onLink k f).moduleCount = s.moduleCount := rfl
@[simp] theorem State.onLink_mem (s : State) (k : Nat) (f : Link → Link) : (s.onLink k f).mem = s.mem := rfl
@[simp] theorem State.onLink_poison (s : State) (k : Nat) (f : Link → Link) : (s.onLink k f).poison = s.poison := rfl
@[simp] theorem State.onLink_modules (s : State) (k : Nat) (f : Link → Link) : (s.onLink k f).modules = s.modules := rfl
@[simp] theorem State.onLink_dies (s : State) (k : Nat) (f : Link → Link) : (s.onLink k f).dies = s.dies := rfl
@[simp] theorem State.onLink_cores (s : State) (k : Nat) (f : Link → Link) : (s.onLink k f).cores = s.cores := rfl
@[simp] theorem State.onLink_launches (s : State) (k : Nat) (f : Link → Link) : (s.onLink k f).launches = s.launches := rfl
@[simp] theorem State.onLink_groves (s : State) (k : Nat) (f : Link → Link) : (s.onLink k f).groves = s.groves := rfl
@[simp] theorem State.onLink_boughs (s : State) (k : Nat) (f : Link → Link) : (s.onLink k f).boughs = s.boughs := rfl
@[simp] theorem State.onLink_ops (s : State) (k : Nat) (f : Link → Link) : (s.onLink k f).ops = s.ops := rfl
@[simp] theorem State.onLink_copies (s : State) (k : Nat) (f : Link → Link) : (s.onLink k f).copies = s.copies := rfl
@[simp] theorem State.onLink_writes (s : State) (k : Nat) (f : Link → Link) : (s.onLink k f).writes = s.writes := rfl
@[simp] theorem State.onLink_msgs (s : State) (k : Nat) (f : Link → Link) : (s.onLink k f).msgs = s.msgs := rfl
@[simp] theorem State.onLink_nextOp (s : State) (k : Nat) (f : Link → Link) : (s.onLink k f).nextOp = s.nextOp := rfl
@[simp] theorem State.onLink_nextOrder (s : State) (k : Nat) (f : Link → Link) : (s.onLink k f).nextOrder = s.nextOrder := rfl
@[simp] theorem State.onLink_free (s : State) (k : Nat) (f : Link → Link) : (s.onLink k f).free = s.free := rfl
@[simp] theorem State.onLink_agenda (s : State) (k : Nat) (f : Link → Link) : (s.onLink k f).agenda = s.agenda := rfl
@[simp] theorem State.onLink_cur (s : State) (k : Nat) (f : Link → Link) : (s.onLink k f).cur = s.cur := rfl

@[simp] theorem State.onCopy_cc (s : State) (k : Nat) (f : CopyOp → CopyOp) : (s.onCopy k f).cc = s.cc := rfl
@[simp] theorem State.onCopy_moduleCount (s : State) (k : Nat) (f : CopyOp → CopyOp) : (s.onCopy k f).moduleCount = s.moduleCount := rfl
@[simp] theorem State.onCopy_mem (s : State) (k : Nat) (f : CopyOp → CopyOp) : (s.onCopy k f).mem = s.mem := rfl
@[simp] theorem State.onCopy_poison (s : State) (k : Nat) (f : CopyOp → CopyOp) : (s.onCopy k f).poison = s.poison := rfl
@[simp] theorem State.onCopy_modules (s : State) (k : Nat) (f : CopyOp → CopyOp) : (s.onCopy k f).modules = s.modules := rfl
@[simp] theorem State.onCopy_dies (s : State) (k : Nat) (f : CopyOp → CopyOp) : (s.onCopy k f).dies = s.dies := rfl
@[simp] theorem State.onCopy_cores (s : State) (k : Nat) (f : CopyOp → CopyOp) : (s.onCopy k f).cores = s.cores := rfl
@[simp] theorem State.onCopy_links (s : State) (k : Nat) (f : CopyOp → CopyOp) : (s.onCopy k f).links = s.links := rfl
@[simp] theorem State.onCopy_launches (s : State) (k : Nat) (f : CopyOp → CopyOp) : (s.onCopy k f).launches = s.launches := rfl
@[simp] theorem State.onCopy_groves (s : State) (k : Nat) (f : CopyOp → CopyOp) : (s.onCopy k f).groves = s.groves := rfl
@[simp] theorem State.onCopy_boughs (s : State) (k : Nat) (f : CopyOp → CopyOp) : (s.onCopy k f).boughs = s.boughs := rfl
@[simp] theorem State.onCopy_ops (s : State) (k : Nat) (f : CopyOp → CopyOp) : (s.onCopy k f).ops = s.ops := rfl
@[simp] theorem State.onCopy_writes (s : State) (k : Nat) (f : CopyOp → CopyOp) : (s.onCopy k f).writes = s.writes := rfl
@[simp] theorem State.onCopy_msgs (s : State) (k : Nat) (f : CopyOp → CopyOp) : (s.onCopy k f).msgs = s.msgs := rfl
@[simp] theorem State.onCopy_nextOp (s : State) (k : Nat) (f : CopyOp → CopyOp) : (s.onCopy k f).nextOp = s.nextOp := rfl
@[simp] theorem State.onCopy_nextOrder (s : State) (k : Nat) (f : CopyOp → CopyOp) : (s.onCopy k f).nextOrder = s.nextOrder := rfl
@[simp] theorem State.onCopy_free (s : State) (k : Nat) (f : CopyOp → CopyOp) : (s.onCopy k f).free = s.free := rfl
@[simp] theorem State.onCopy_agenda (s : State) (k : Nat) (f : CopyOp → CopyOp) : (s.onCopy k f).agenda = s.agenda := rfl
@[simp] theorem State.onCopy_cur (s : State) (k : Nat) (f : CopyOp → CopyOp) : (s.onCopy k f).cur = s.cur := rfl

@[simp] theorem State.onWrite_cc (s : State) (k : Nat) (f : Write → Write) : (s.onWrite k f).cc = s.cc := rfl
@[simp] theorem State.onWrite_moduleCount (s : State) (k : Nat) (f : Write → Write) : (s.onWrite k f).moduleCount = s.moduleCount := rfl
@[simp] theorem State.onWrite_mem (s : State) (k : Nat) (f : Write → Write) : (s.onWrite k f).mem = s.mem := rfl
@[simp] theorem State.onWrite_poison (s : State) (k : Nat) (f : Write → Write) : (s.onWrite k f).poison = s.poison := rfl
@[simp] theorem State.onWrite_modules (s : State) (k : Nat) (f : Write → Write) : (s.onWrite k f).modules = s.modules := rfl
@[simp] theorem State.onWrite_dies (s : State) (k : Nat) (f : Write → Write) : (s.onWrite k f).dies = s.dies := rfl
@[simp] theorem State.onWrite_cores (s : State) (k : Nat) (f : Write → Write) : (s.onWrite k f).cores = s.cores := rfl
@[simp] theorem State.onWrite_links (s : State) (k : Nat) (f : Write → Write) : (s.onWrite k f).links = s.links := rfl
@[simp] theorem State.onWrite_launches (s : State) (k : Nat) (f : Write → Write) : (s.onWrite k f).launches = s.launches := rfl
@[simp] theorem State.onWrite_groves (s : State) (k : Nat) (f : Write → Write) : (s.onWrite k f).groves = s.groves := rfl
@[simp] theorem State.onWrite_boughs (s : State) (k : Nat) (f : Write → Write) : (s.onWrite k f).boughs = s.boughs := rfl
@[simp] theorem State.onWrite_ops (s : State) (k : Nat) (f : Write → Write) : (s.onWrite k f).ops = s.ops := rfl
@[simp] theorem State.onWrite_copies (s : State) (k : Nat) (f : Write → Write) : (s.onWrite k f).copies = s.copies := rfl
@[simp] theorem State.onWrite_msgs (s : State) (k : Nat) (f : Write → Write) : (s.onWrite k f).msgs = s.msgs := rfl
@[simp] theorem State.onWrite_nextOp (s : State) (k : Nat) (f : Write → Write) : (s.onWrite k f).nextOp = s.nextOp := rfl
@[simp] theorem State.onWrite_nextOrder (s : State) (k : Nat) (f : Write → Write) : (s.onWrite k f).nextOrder = s.nextOrder := rfl
@[simp] theorem State.onWrite_free (s : State) (k : Nat) (f : Write → Write) : (s.onWrite k f).free = s.free := rfl
@[simp] theorem State.onWrite_agenda (s : State) (k : Nat) (f : Write → Write) : (s.onWrite k f).agenda = s.agenda := rfl
@[simp] theorem State.onWrite_cur (s : State) (k : Nat) (f : Write → Write) : (s.onWrite k f).cur = s.cur := rfl

@[simp] theorem State.onLaunch_cc (s : State) (k : Nat) (f : Launch → Launch) : (s.onLaunch k f).cc = s.cc := rfl
@[simp] theorem State.onLaunch_moduleCount (s : State) (k : Nat) (f : Launch → Launch) : (s.onLaunch k f).moduleCount = s.moduleCount := rfl
@[simp] theorem State.onLaunch_mem (s : State) (k : Nat) (f : Launch → Launch) : (s.onLaunch k f).mem = s.mem := rfl
@[simp] theorem State.onLaunch_poison (s : State) (k : Nat) (f : Launch → Launch) : (s.onLaunch k f).poison = s.poison := rfl
@[simp] theorem State.onLaunch_modules (s : State) (k : Nat) (f : Launch → Launch) : (s.onLaunch k f).modules = s.modules := rfl
@[simp] theorem State.onLaunch_dies (s : State) (k : Nat) (f : Launch → Launch) : (s.onLaunch k f).dies = s.dies := rfl
@[simp] theorem State.onLaunch_cores (s : State) (k : Nat) (f : Launch → Launch) : (s.onLaunch k f).cores = s.cores := rfl
@[simp] theorem State.onLaunch_links (s : State) (k : Nat) (f : Launch → Launch) : (s.onLaunch k f).links = s.links := rfl
@[simp] theorem State.onLaunch_groves (s : State) (k : Nat) (f : Launch → Launch) : (s.onLaunch k f).groves = s.groves := rfl
@[simp] theorem State.onLaunch_boughs (s : State) (k : Nat) (f : Launch → Launch) : (s.onLaunch k f).boughs = s.boughs := rfl
@[simp] theorem State.onLaunch_ops (s : State) (k : Nat) (f : Launch → Launch) : (s.onLaunch k f).ops = s.ops := rfl
@[simp] theorem State.onLaunch_copies (s : State) (k : Nat) (f : Launch → Launch) : (s.onLaunch k f).copies = s.copies := rfl
@[simp] theorem State.onLaunch_writes (s : State) (k : Nat) (f : Launch → Launch) : (s.onLaunch k f).writes = s.writes := rfl
@[simp] theorem State.onLaunch_msgs (s : State) (k : Nat) (f : Launch → Launch) : (s.onLaunch k f).msgs = s.msgs := rfl
@[simp] theorem State.onLaunch_nextOp (s : State) (k : Nat) (f : Launch → Launch) : (s.onLaunch k f).nextOp = s.nextOp := rfl
@[simp] theorem State.onLaunch_nextOrder (s : State) (k : Nat) (f : Launch → Launch) : (s.onLaunch k f).nextOrder = s.nextOrder := rfl
@[simp] theorem State.onLaunch_free (s : State) (k : Nat) (f : Launch → Launch) : (s.onLaunch k f).free = s.free := rfl
@[simp] theorem State.onLaunch_agenda (s : State) (k : Nat) (f : Launch → Launch) : (s.onLaunch k f).agenda = s.agenda := rfl
@[simp] theorem State.onLaunch_cur (s : State) (k : Nat) (f : Launch → Launch) : (s.onLaunch k f).cur = s.cur := rfl

@[simp] theorem State.onOp_cc (s : State) (k : Nat) (f : GOp → GOp) : (s.onOp k f).cc = s.cc := rfl
@[simp] theorem State.onOp_moduleCount (s : State) (k : Nat) (f : GOp → GOp) : (s.onOp k f).moduleCount = s.moduleCount := rfl
@[simp] theorem State.onOp_mem (s : State) (k : Nat) (f : GOp → GOp) : (s.onOp k f).mem = s.mem := rfl
@[simp] theorem State.onOp_poison (s : State) (k : Nat) (f : GOp → GOp) : (s.onOp k f).poison = s.poison := rfl
@[simp] theorem State.onOp_modules (s : State) (k : Nat) (f : GOp → GOp) : (s.onOp k f).modules = s.modules := rfl
@[simp] theorem State.onOp_dies (s : State) (k : Nat) (f : GOp → GOp) : (s.onOp k f).dies = s.dies := rfl
@[simp] theorem State.onOp_cores (s : State) (k : Nat) (f : GOp → GOp) : (s.onOp k f).cores = s.cores := rfl
@[simp] theorem State.onOp_links (s : State) (k : Nat) (f : GOp → GOp) : (s.onOp k f).links = s.links := rfl
@[simp] theorem State.onOp_launches (s : State) (k : Nat) (f : GOp → GOp) : (s.onOp k f).launches = s.launches := rfl
@[simp] theorem State.onOp_groves (s : State) (k : Nat) (f : GOp → GOp) : (s.onOp k f).groves = s.groves := rfl
@[simp] theorem State.onOp_boughs (s : State) (k : Nat) (f : GOp → GOp) : (s.onOp k f).boughs = s.boughs := rfl
@[simp] theorem State.onOp_copies (s : State) (k : Nat) (f : GOp → GOp) : (s.onOp k f).copies = s.copies := rfl
@[simp] theorem State.onOp_writes (s : State) (k : Nat) (f : GOp → GOp) : (s.onOp k f).writes = s.writes := rfl
@[simp] theorem State.onOp_msgs (s : State) (k : Nat) (f : GOp → GOp) : (s.onOp k f).msgs = s.msgs := rfl
@[simp] theorem State.onOp_nextOp (s : State) (k : Nat) (f : GOp → GOp) : (s.onOp k f).nextOp = s.nextOp := rfl
@[simp] theorem State.onOp_nextOrder (s : State) (k : Nat) (f : GOp → GOp) : (s.onOp k f).nextOrder = s.nextOrder := rfl
@[simp] theorem State.onOp_free (s : State) (k : Nat) (f : GOp → GOp) : (s.onOp k f).free = s.free := rfl
@[simp] theorem State.onOp_agenda (s : State) (k : Nat) (f : GOp → GOp) : (s.onOp k f).agenda = s.agenda := rfl
@[simp] theorem State.onOp_cur (s : State) (k : Nat) (f : GOp → GOp) : (s.onOp k f).cur = s.cur := rfl

@[simp] theorem State.atTime_cc (s : State) (n : Nat) (i : Instr) : (s.atTime n i).cc = s.cc := rfl
@[simp] theorem State.atTime_moduleCount (s : State) (n : Nat) (i : Instr) : (s.atTime n i).moduleCount = s.moduleCount := rfl
@[simp] theorem State.atTime_mem (s : State) (n : Nat) (i : Instr) : (s.atTime n i).mem = s.mem := rfl
@[simp] theorem State.atTime_poison (s : State) (n : Nat) (i : Instr) : (s.atTime n i).poison = s.poison := rfl
@[simp] theorem State.atTime_modules (s : State) (n : Nat) (i : Instr) : (s.atTime n i).modules = s.modules := rfl
@[simp] theorem State.atTime_dies (s : State) (n : Nat) (i : Instr) : (s.atTime n i).dies = s.dies := rfl
@[simp] theorem State.atTime_cores (s : State) (n : Nat) (i : Instr) : (s.atTime n i).cores = s.cores := rfl
@[simp] theorem State.atTime_links (s : State) (n : Nat) (i : Instr) : (s.atTime n i).links = s.links := rfl
@[simp] theorem State.atTime_launches (s : State) (n : Nat) (i : Instr) : (s.atTime n i).launches = s.launches := rfl
@[simp] theorem State.atTime_groves (s : State) (n : Nat) (i : Instr) : (s.atTime n i).groves = s.groves := rfl
@[simp] theorem State.atTime_boughs (s : State) (n : Nat) (i : Instr) : (s.atTime n i).boughs = s.boughs := rfl
@[simp] theorem State.atTime_ops (s : State) (n : Nat) (i : Instr) : (s.atTime n i).ops = s.ops := rfl
@[simp] theorem State.atTime_copies (s : State) (n : Nat) (i : Instr) : (s.atTime n i).copies = s.copies := rfl
@[simp] theorem State.atTime_writes (s : State) (n : Nat) (i : Instr) : (s.atTime n i).writes = s.writes := rfl
@[simp] theorem State.atTime_msgs (s : State) (n : Nat) (i : Instr) : (s.atTime n i).msgs = s.msgs := rfl
@[simp] theorem State.atTime_nextOp (s : State) (n : Nat) (i : Instr) : (s.atTime n i).nextOp = s.nextOp := rfl
@[simp] theorem State.atTime_nextOrder (s : State) (n : Nat) (i : Instr) : (s.atTime n i).nextOrder = s.nextOrder := rfl
@[simp] theorem State.atTime_free (s : State) (n : Nat) (i : Instr) : (s.atTime n i).free = s.free := rfl
@[simp] theorem State.atTime_cur (s : State) (n : Nat) (i : Instr) : (s.atTime n i).cur = s.cur := rfl

@[simp] theorem State.later_cc (s : State) (n : Nat) (i : Instr) : (s.later n i).cc = s.cc := rfl
@[simp] theorem State.later_moduleCount (s : State) (n : Nat) (i : Instr) : (s.later n i).moduleCount = s.moduleCount := rfl
@[simp] theorem State.later_mem (s : State) (n : Nat) (i : Instr) : (s.later n i).mem = s.mem := rfl
@[simp] theorem State.later_poison (s : State) (n : Nat) (i : Instr) : (s.later n i).poison = s.poison := rfl
@[simp] theorem State.later_modules (s : State) (n : Nat) (i : Instr) : (s.later n i).modules = s.modules := rfl
@[simp] theorem State.later_dies (s : State) (n : Nat) (i : Instr) : (s.later n i).dies = s.dies := rfl
@[simp] theorem State.later_cores (s : State) (n : Nat) (i : Instr) : (s.later n i).cores = s.cores := rfl
@[simp] theorem State.later_links (s : State) (n : Nat) (i : Instr) : (s.later n i).links = s.links := rfl
@[simp] theorem State.later_launches (s : State) (n : Nat) (i : Instr) : (s.later n i).launches = s.launches := rfl
@[simp] theorem State.later_groves (s : State) (n : Nat) (i : Instr) : (s.later n i).groves = s.groves := rfl
@[simp] theorem State.later_boughs (s : State) (n : Nat) (i : Instr) : (s.later n i).boughs = s.boughs := rfl
@[simp] theorem State.later_ops (s : State) (n : Nat) (i : Instr) : (s.later n i).ops = s.ops := rfl
@[simp] theorem State.later_copies (s : State) (n : Nat) (i : Instr) : (s.later n i).copies = s.copies := rfl
@[simp] theorem State.later_writes (s : State) (n : Nat) (i : Instr) : (s.later n i).writes = s.writes := rfl
@[simp] theorem State.later_msgs (s : State) (n : Nat) (i : Instr) : (s.later n i).msgs = s.msgs := rfl
@[simp] theorem State.later_nextOp (s : State) (n : Nat) (i : Instr) : (s.later n i).nextOp = s.nextOp := rfl
@[simp] theorem State.later_nextOrder (s : State) (n : Nat) (i : Instr) : (s.later n i).nextOrder = s.nextOrder := rfl
@[simp] theorem State.later_cur (s : State) (n : Nat) (i : Instr) : (s.later n i).cur = s.cur := rfl
@[simp] theorem State.later_free (s : State) (n : Nat) (i : Instr) : (s.later n i).free = s.free + 1 := rfl
@[simp] theorem State.later_agenda (s : State) (n : Nat) (i : Instr) :
    (s.later n i).agenda = s.agenda ++ [(n + Config.delay s.free, i)] := rfl
@[simp] theorem State.atTime_agenda (s : State) (n : Nat) (i : Instr) : (s.atTime n i).agenda = s.agenda ++ [(n, i)] := rfl

/-! ### What a lifter sets -/

@[simp] theorem State.onBough_boughs (s : State) (k : Nat) (f : Bough → Bough) :
    (s.onBough k f).boughs = tmod s.boughs k f := rfl
@[simp] theorem State.onGrove_groves (s : State) (k : Nat) (f : Grove → Grove) :
    (s.onGrove k f).groves = tmod s.groves k f := rfl
@[simp] theorem State.onCore_cores (s : State) (k : Nat) (f : Core → Core) :
    (s.onCore k f).cores = tupd s.cores k Core.initial f := rfl
@[simp] theorem State.onDie_dies (s : State) (k : Nat) (f : Die → Die) :
    (s.onDie k f).dies = tupd s.dies k Die.initial f := rfl
@[simp] theorem State.onModule_modules (s : State) (k : Nat) (f : Module → Module) :
    (s.onModule k f).modules = tupd s.modules k Module.initial f := rfl
@[simp] theorem State.onLink_links (s : State) (k : Nat) (f : Link → Link) :
    (s.onLink k f).links = tupd s.links k Link.initial f := rfl
@[simp] theorem State.onCopy_copies (s : State) (k : Nat) (f : CopyOp → CopyOp) :
    (s.onCopy k f).copies = tmod s.copies k f := rfl
@[simp] theorem State.onWrite_writes (s : State) (k : Nat) (f : Write → Write) :
    (s.onWrite k f).writes = tmod s.writes k f := rfl
@[simp] theorem State.onLaunch_launches (s : State) (k : Nat) (f : Launch → Launch) :
    (s.onLaunch k f).launches = tmod s.launches k f := rfl
@[simp] theorem State.onOp_ops (s : State) (k : Nat) (f : GOp → GOp) : (s.onOp k f).ops = tmod s.ops k f := rfl

/-! ### Registers of a bough -/

@[simp] theorem Bough.setV_grove (b : Bough) (n : Nat) (x : Lanes) : (b.setV n x).grove = b.grove := rfl
@[simp] theorem Bough.setV_bnum (b : Bough) (n : Nat) (x : Lanes) : (b.setV n x).bnum = b.bnum := rfl
@[simp] theorem Bough.setV_ctx (b : Bough) (n : Nat) (x : Lanes) : (b.setV n x).ctx = b.ctx := rfl
@[simp] theorem Bough.setV_pc (b : Bough) (n : Nat) (x : Lanes) : (b.setV n x).pc = b.pc := rfl
@[simp] theorem Bough.setV_o (b : Bough) (n : Nat) (x : Lanes) : (b.setV n x).o = b.o := rfl
@[simp] theorem Bough.setV_p (b : Bough) (n : Nat) (x : Lanes) : (b.setV n x).p = b.p := rfl
@[simp] theorem Bough.setV_s (b : Bough) (n : Nat) (x : Lanes) : (b.setV n x).s = b.s := rfl
@[simp] theorem Bough.setV_lv0 (b : Bough) (n : Nat) (x : Lanes) : (b.setV n x).lv0 = b.lv0 := rfl
@[simp] theorem Bough.setV_lv1 (b : Bough) (n : Nat) (x : Lanes) : (b.setV n x).lv1 = b.lv1 := rfl
@[simp] theorem Bough.setV_lm0 (b : Bough) (n : Nat) (x : Lanes) : (b.setV n x).lm0 = b.lm0 := rfl
@[simp] theorem Bough.setV_lf0 (b : Bough) (n : Nat) (x : Lanes) : (b.setV n x).lf0 = b.lf0 := rfl
@[simp] theorem Bough.setV_results (b : Bough) (n : Nat) (x : Lanes) : (b.setV n x).results = b.results := rfl
@[simp] theorem Bough.setV_seq (b : Bough) (n : Nat) (x : Lanes) : (b.setV n x).seq = b.seq := rfl
@[simp] theorem Bough.setV_loops (b : Bough) (n : Nat) (x : Lanes) : (b.setV n x).loops = b.loops := rfl
@[simp] theorem Bough.setV_steps (b : Bough) (n : Nat) (x : Lanes) : (b.setV n x).steps = b.steps := rfl
@[simp] theorem Bough.setV_dsLeft (b : Bough) (n : Nat) (x : Lanes) : (b.setV n x).dsLeft = b.dsLeft := rfl
@[simp] theorem Bough.setV_dsTarget (b : Bough) (n : Nat) (x : Lanes) : (b.setV n x).dsTarget = b.dsTarget := rfl
@[simp] theorem Bough.setV_vserved (b : Bough) (n : Nat) (x : Lanes) : (b.setV n x).vserved = b.vserved := rfl
@[simp] theorem Bough.setV_vmask (b : Bough) (n : Nat) (x : Lanes) : (b.setV n x).vmask = b.vmask := rfl
@[simp] theorem Bough.setV_vsite (b : Bough) (n : Nat) (x : Lanes) : (b.setV n x).vsite = b.vsite := rfl
@[simp] theorem Bough.setV_active (b : Bough) (n : Nat) (x : Lanes) : (b.setV n x).active = b.active := rfl
@[simp] theorem Bough.setV_iid (b : Bough) (n : Nat) (x : Lanes) : (b.setV n x).iid = b.iid := rfl
@[simp] theorem Bough.setV_iage (b : Bough) (n : Nat) (x : Lanes) : (b.setV n x).iage = b.iage := rfl
@[simp] theorem Bough.setV_refc (b : Bough) (n : Nat) (x : Lanes) : (b.setV n x).refc = b.refc := rfl
@[simp] theorem Bough.setV_prio (b : Bough) (n : Nat) (x : Lanes) : (b.setV n x).prio = b.prio := rfl
@[simp] theorem Bough.setV_raised (b : Bough) (n : Nat) (x : Lanes) : (b.setV n x).raised = b.raised := rfl
@[simp] theorem Bough.setV_eligSince (b : Bough) (n : Nat) (x : Lanes) : (b.setV n x).eligSince = b.eligSince := rfl
@[simp] theorem Bough.setV_status (b : Bough) (n : Nat) (x : Lanes) : (b.setV n x).status = b.status := rfl
@[simp] theorem Bough.setV_phase (b : Bough) (n : Nat) (x : Lanes) : (b.setV n x).phase = b.phase := rfl
@[simp] theorem Bough.setV_grantCc (b : Bough) (n : Nat) (x : Lanes) : (b.setV n x).grantCc = b.grantCc := rfl
@[simp] theorem Bough.setV_earliest (b : Bough) (n : Nat) (x : Lanes) : (b.setV n x).earliest = b.earliest := rfl
@[simp] theorem Bough.setV_stretchEnd (b : Bough) (n : Nat) (x : Lanes) : (b.setV n x).stretchEnd = b.stretchEnd := rfl
@[simp] theorem Bough.setV_presented (b : Bough) (n : Nat) (x : Lanes) : (b.setV n x).presented = b.presented := rfl
@[simp] theorem Bough.setV_compatAt (b : Bough) (n : Nat) (x : Lanes) : (b.setV n x).compatAt = b.compatAt := rfl
@[simp] theorem Bough.setV_holds (b : Bough) (n : Nat) (x : Lanes) : (b.setV n x).holds = b.holds := rfl
@[simp] theorem Bough.setV_fflags (b : Bough) (n : Nat) (x : Lanes) : (b.setV n x).fflags = b.fflags := rfl
@[simp] theorem Bough.setV_tvec (b : Bough) (n : Nat) (x : Lanes) : (b.setV n x).tvec = b.tvec := rfl
@[simp] theorem Bough.setV_cause (b : Bough) (n : Nat) (x : Lanes) : (b.setV n x).cause = b.cause := rfl
@[simp] theorem Bough.setV_epc (b : Bough) (n : Nat) (x : Lanes) : (b.setV n x).epc = b.epc := rfl
@[simp] theorem Bough.setV_tval (b : Bough) (n : Nat) (x : Lanes) : (b.setV n x).tval = b.tval := rfl
@[simp] theorem Bough.setV_frec (b : Bough) (n : Nat) (x : Lanes) : (b.setV n x).frec = b.frec := rfl
@[simp] theorem Bough.setV_tstatIn (b : Bough) (n : Nat) (x : Lanes) : (b.setV n x).tstatIn = b.tstatIn := rfl
@[simp] theorem Bough.setV_tstatDsn (b : Bough) (n : Nat) (x : Lanes) : (b.setV n x).tstatDsn = b.tstatDsn := rfl
@[simp] theorem Bough.setV_tdst (b : Bough) (n : Nat) (x : Lanes) : (b.setV n x).tdst = b.tdst := rfl
@[simp] theorem Bough.setV_tvmask (b : Bough) (n : Nat) (x : Lanes) : (b.setV n x).tvmask = b.tvmask := rfl
@[simp] theorem Bough.setV_bars (b : Bough) (n : Nat) (x : Lanes) : (b.setV n x).bars = b.bars := rfl
@[simp] theorem Bough.setV_pend (b : Bough) (n : Nat) (x : Lanes) : (b.setV n x).pend = b.pend := rfl
@[simp] theorem Bough.setV_opseq (b : Bough) (n : Nat) (x : Lanes) : (b.setV n x).opseq = b.opseq := rfl
@[simp] theorem Bough.setV_stopAsked (b : Bough) (n : Nat) (x : Lanes) : (b.setV n x).stopAsked = b.stopAsked := rfl
@[simp] theorem Bough.setV_dbgSkip (b : Bough) (n : Nat) (x : Lanes) : (b.setV n x).dbgSkip = b.dbgSkip := rfl
@[simp] theorem Bough.setV_dbgStep (b : Bough) (n : Nat) (x : Lanes) : (b.setV n x).dbgStep = b.dbgStep := rfl
@[simp] theorem Bough.setV_dbgCause (b : Bough) (n : Nat) (x : Lanes) : (b.setV n x).dbgCause = b.dbgCause := rfl
@[simp] theorem Bough.setV_needClock (b : Bough) (n : Nat) (x : Lanes) : (b.setV n x).needClock = b.needClock := rfl
@[simp] theorem Bough.setV_needFrame (b : Bough) (n : Nat) (x : Lanes) : (b.setV n x).needFrame = b.needFrame := rfl
@[simp] theorem Bough.setV_needWrites (b : Bough) (n : Nat) (x : Lanes) : (b.setV n x).needWrites = b.needWrites := rfl
@[simp] theorem Bough.setV_held (b : Bough) (n : Nat) (x : Lanes) : (b.setV n x).held = b.held := rfl
@[simp] theorem Bough.setV_aged (b : Bough) (n : Nat) (x : Lanes) : (b.setV n x).aged = b.aged := rfl
@[simp] theorem Bough.setV_resumeFrom (b : Bough) (n : Nat) (x : Lanes) : (b.setV n x).resumeFrom = b.resumeFrom := rfl
@[simp] theorem Bough.setV_grants (b : Bough) (n : Nat) (x : Lanes) : (b.setV n x).grants = b.grants := rfl

@[simp] theorem Bough.setO_grove (b : Bough) (n : Nat) (x : Lanes) : (b.setO n x).grove = b.grove := rfl
@[simp] theorem Bough.setO_bnum (b : Bough) (n : Nat) (x : Lanes) : (b.setO n x).bnum = b.bnum := rfl
@[simp] theorem Bough.setO_ctx (b : Bough) (n : Nat) (x : Lanes) : (b.setO n x).ctx = b.ctx := rfl
@[simp] theorem Bough.setO_pc (b : Bough) (n : Nat) (x : Lanes) : (b.setO n x).pc = b.pc := rfl
@[simp] theorem Bough.setO_v (b : Bough) (n : Nat) (x : Lanes) : (b.setO n x).v = b.v := rfl
@[simp] theorem Bough.setO_p (b : Bough) (n : Nat) (x : Lanes) : (b.setO n x).p = b.p := rfl
@[simp] theorem Bough.setO_s (b : Bough) (n : Nat) (x : Lanes) : (b.setO n x).s = b.s := rfl
@[simp] theorem Bough.setO_lv0 (b : Bough) (n : Nat) (x : Lanes) : (b.setO n x).lv0 = b.lv0 := rfl
@[simp] theorem Bough.setO_lv1 (b : Bough) (n : Nat) (x : Lanes) : (b.setO n x).lv1 = b.lv1 := rfl
@[simp] theorem Bough.setO_lm0 (b : Bough) (n : Nat) (x : Lanes) : (b.setO n x).lm0 = b.lm0 := rfl
@[simp] theorem Bough.setO_lf0 (b : Bough) (n : Nat) (x : Lanes) : (b.setO n x).lf0 = b.lf0 := rfl
@[simp] theorem Bough.setO_results (b : Bough) (n : Nat) (x : Lanes) : (b.setO n x).results = b.results := rfl
@[simp] theorem Bough.setO_seq (b : Bough) (n : Nat) (x : Lanes) : (b.setO n x).seq = b.seq := rfl
@[simp] theorem Bough.setO_loops (b : Bough) (n : Nat) (x : Lanes) : (b.setO n x).loops = b.loops := rfl
@[simp] theorem Bough.setO_steps (b : Bough) (n : Nat) (x : Lanes) : (b.setO n x).steps = b.steps := rfl
@[simp] theorem Bough.setO_dsLeft (b : Bough) (n : Nat) (x : Lanes) : (b.setO n x).dsLeft = b.dsLeft := rfl
@[simp] theorem Bough.setO_dsTarget (b : Bough) (n : Nat) (x : Lanes) : (b.setO n x).dsTarget = b.dsTarget := rfl
@[simp] theorem Bough.setO_vserved (b : Bough) (n : Nat) (x : Lanes) : (b.setO n x).vserved = b.vserved := rfl
@[simp] theorem Bough.setO_vmask (b : Bough) (n : Nat) (x : Lanes) : (b.setO n x).vmask = b.vmask := rfl
@[simp] theorem Bough.setO_vsite (b : Bough) (n : Nat) (x : Lanes) : (b.setO n x).vsite = b.vsite := rfl
@[simp] theorem Bough.setO_active (b : Bough) (n : Nat) (x : Lanes) : (b.setO n x).active = b.active := rfl
@[simp] theorem Bough.setO_iid (b : Bough) (n : Nat) (x : Lanes) : (b.setO n x).iid = b.iid := rfl
@[simp] theorem Bough.setO_iage (b : Bough) (n : Nat) (x : Lanes) : (b.setO n x).iage = b.iage := rfl
@[simp] theorem Bough.setO_refc (b : Bough) (n : Nat) (x : Lanes) : (b.setO n x).refc = b.refc := rfl
@[simp] theorem Bough.setO_prio (b : Bough) (n : Nat) (x : Lanes) : (b.setO n x).prio = b.prio := rfl
@[simp] theorem Bough.setO_raised (b : Bough) (n : Nat) (x : Lanes) : (b.setO n x).raised = b.raised := rfl
@[simp] theorem Bough.setO_eligSince (b : Bough) (n : Nat) (x : Lanes) : (b.setO n x).eligSince = b.eligSince := rfl
@[simp] theorem Bough.setO_status (b : Bough) (n : Nat) (x : Lanes) : (b.setO n x).status = b.status := rfl
@[simp] theorem Bough.setO_phase (b : Bough) (n : Nat) (x : Lanes) : (b.setO n x).phase = b.phase := rfl
@[simp] theorem Bough.setO_grantCc (b : Bough) (n : Nat) (x : Lanes) : (b.setO n x).grantCc = b.grantCc := rfl
@[simp] theorem Bough.setO_earliest (b : Bough) (n : Nat) (x : Lanes) : (b.setO n x).earliest = b.earliest := rfl
@[simp] theorem Bough.setO_stretchEnd (b : Bough) (n : Nat) (x : Lanes) : (b.setO n x).stretchEnd = b.stretchEnd := rfl
@[simp] theorem Bough.setO_presented (b : Bough) (n : Nat) (x : Lanes) : (b.setO n x).presented = b.presented := rfl
@[simp] theorem Bough.setO_compatAt (b : Bough) (n : Nat) (x : Lanes) : (b.setO n x).compatAt = b.compatAt := rfl
@[simp] theorem Bough.setO_holds (b : Bough) (n : Nat) (x : Lanes) : (b.setO n x).holds = b.holds := rfl
@[simp] theorem Bough.setO_fflags (b : Bough) (n : Nat) (x : Lanes) : (b.setO n x).fflags = b.fflags := rfl
@[simp] theorem Bough.setO_tvec (b : Bough) (n : Nat) (x : Lanes) : (b.setO n x).tvec = b.tvec := rfl
@[simp] theorem Bough.setO_cause (b : Bough) (n : Nat) (x : Lanes) : (b.setO n x).cause = b.cause := rfl
@[simp] theorem Bough.setO_epc (b : Bough) (n : Nat) (x : Lanes) : (b.setO n x).epc = b.epc := rfl
@[simp] theorem Bough.setO_tval (b : Bough) (n : Nat) (x : Lanes) : (b.setO n x).tval = b.tval := rfl
@[simp] theorem Bough.setO_frec (b : Bough) (n : Nat) (x : Lanes) : (b.setO n x).frec = b.frec := rfl
@[simp] theorem Bough.setO_tstatIn (b : Bough) (n : Nat) (x : Lanes) : (b.setO n x).tstatIn = b.tstatIn := rfl
@[simp] theorem Bough.setO_tstatDsn (b : Bough) (n : Nat) (x : Lanes) : (b.setO n x).tstatDsn = b.tstatDsn := rfl
@[simp] theorem Bough.setO_tdst (b : Bough) (n : Nat) (x : Lanes) : (b.setO n x).tdst = b.tdst := rfl
@[simp] theorem Bough.setO_tvmask (b : Bough) (n : Nat) (x : Lanes) : (b.setO n x).tvmask = b.tvmask := rfl
@[simp] theorem Bough.setO_bars (b : Bough) (n : Nat) (x : Lanes) : (b.setO n x).bars = b.bars := rfl
@[simp] theorem Bough.setO_pend (b : Bough) (n : Nat) (x : Lanes) : (b.setO n x).pend = b.pend := rfl
@[simp] theorem Bough.setO_opseq (b : Bough) (n : Nat) (x : Lanes) : (b.setO n x).opseq = b.opseq := rfl
@[simp] theorem Bough.setO_stopAsked (b : Bough) (n : Nat) (x : Lanes) : (b.setO n x).stopAsked = b.stopAsked := rfl
@[simp] theorem Bough.setO_dbgSkip (b : Bough) (n : Nat) (x : Lanes) : (b.setO n x).dbgSkip = b.dbgSkip := rfl
@[simp] theorem Bough.setO_dbgStep (b : Bough) (n : Nat) (x : Lanes) : (b.setO n x).dbgStep = b.dbgStep := rfl
@[simp] theorem Bough.setO_dbgCause (b : Bough) (n : Nat) (x : Lanes) : (b.setO n x).dbgCause = b.dbgCause := rfl
@[simp] theorem Bough.setO_needClock (b : Bough) (n : Nat) (x : Lanes) : (b.setO n x).needClock = b.needClock := rfl
@[simp] theorem Bough.setO_needFrame (b : Bough) (n : Nat) (x : Lanes) : (b.setO n x).needFrame = b.needFrame := rfl
@[simp] theorem Bough.setO_needWrites (b : Bough) (n : Nat) (x : Lanes) : (b.setO n x).needWrites = b.needWrites := rfl
@[simp] theorem Bough.setO_held (b : Bough) (n : Nat) (x : Lanes) : (b.setO n x).held = b.held := rfl
@[simp] theorem Bough.setO_aged (b : Bough) (n : Nat) (x : Lanes) : (b.setO n x).aged = b.aged := rfl
@[simp] theorem Bough.setO_resumeFrom (b : Bough) (n : Nat) (x : Lanes) : (b.setO n x).resumeFrom = b.resumeFrom := rfl
@[simp] theorem Bough.setO_grants (b : Bough) (n : Nat) (x : Lanes) : (b.setO n x).grants = b.grants := rfl

@[simp] theorem Bough.addResult_grove (b : Bough) (r : Result) : (b.addResult r).grove = b.grove := rfl
@[simp] theorem Bough.addResult_bnum (b : Bough) (r : Result) : (b.addResult r).bnum = b.bnum := rfl
@[simp] theorem Bough.addResult_ctx (b : Bough) (r : Result) : (b.addResult r).ctx = b.ctx := rfl
@[simp] theorem Bough.addResult_pc (b : Bough) (r : Result) : (b.addResult r).pc = b.pc := rfl
@[simp] theorem Bough.addResult_v (b : Bough) (r : Result) : (b.addResult r).v = b.v := rfl
@[simp] theorem Bough.addResult_o (b : Bough) (r : Result) : (b.addResult r).o = b.o := rfl
@[simp] theorem Bough.addResult_p (b : Bough) (r : Result) : (b.addResult r).p = b.p := rfl
@[simp] theorem Bough.addResult_s (b : Bough) (r : Result) : (b.addResult r).s = b.s := rfl
@[simp] theorem Bough.addResult_lv0 (b : Bough) (r : Result) : (b.addResult r).lv0 = b.lv0 := rfl
@[simp] theorem Bough.addResult_lv1 (b : Bough) (r : Result) : (b.addResult r).lv1 = b.lv1 := rfl
@[simp] theorem Bough.addResult_lm0 (b : Bough) (r : Result) : (b.addResult r).lm0 = b.lm0 := rfl
@[simp] theorem Bough.addResult_lf0 (b : Bough) (r : Result) : (b.addResult r).lf0 = b.lf0 := rfl
@[simp] theorem Bough.addResult_seq (b : Bough) (r : Result) : (b.addResult r).seq = b.seq := rfl
@[simp] theorem Bough.addResult_loops (b : Bough) (r : Result) : (b.addResult r).loops = b.loops := rfl
@[simp] theorem Bough.addResult_steps (b : Bough) (r : Result) : (b.addResult r).steps = b.steps := rfl
@[simp] theorem Bough.addResult_dsLeft (b : Bough) (r : Result) : (b.addResult r).dsLeft = b.dsLeft := rfl
@[simp] theorem Bough.addResult_dsTarget (b : Bough) (r : Result) : (b.addResult r).dsTarget = b.dsTarget := rfl
@[simp] theorem Bough.addResult_vserved (b : Bough) (r : Result) : (b.addResult r).vserved = b.vserved := rfl
@[simp] theorem Bough.addResult_vmask (b : Bough) (r : Result) : (b.addResult r).vmask = b.vmask := rfl
@[simp] theorem Bough.addResult_vsite (b : Bough) (r : Result) : (b.addResult r).vsite = b.vsite := rfl
@[simp] theorem Bough.addResult_active (b : Bough) (r : Result) : (b.addResult r).active = b.active := rfl
@[simp] theorem Bough.addResult_iid (b : Bough) (r : Result) : (b.addResult r).iid = b.iid := rfl
@[simp] theorem Bough.addResult_iage (b : Bough) (r : Result) : (b.addResult r).iage = b.iage := rfl
@[simp] theorem Bough.addResult_refc (b : Bough) (r : Result) : (b.addResult r).refc = b.refc := rfl
@[simp] theorem Bough.addResult_prio (b : Bough) (r : Result) : (b.addResult r).prio = b.prio := rfl
@[simp] theorem Bough.addResult_raised (b : Bough) (r : Result) : (b.addResult r).raised = b.raised := rfl
@[simp] theorem Bough.addResult_eligSince (b : Bough) (r : Result) : (b.addResult r).eligSince = b.eligSince := rfl
@[simp] theorem Bough.addResult_status (b : Bough) (r : Result) : (b.addResult r).status = b.status := rfl
@[simp] theorem Bough.addResult_phase (b : Bough) (r : Result) : (b.addResult r).phase = b.phase := rfl
@[simp] theorem Bough.addResult_grantCc (b : Bough) (r : Result) : (b.addResult r).grantCc = b.grantCc := rfl
@[simp] theorem Bough.addResult_earliest (b : Bough) (r : Result) : (b.addResult r).earliest = b.earliest := rfl
@[simp] theorem Bough.addResult_stretchEnd (b : Bough) (r : Result) : (b.addResult r).stretchEnd = b.stretchEnd := rfl
@[simp] theorem Bough.addResult_presented (b : Bough) (r : Result) : (b.addResult r).presented = b.presented := rfl
@[simp] theorem Bough.addResult_compatAt (b : Bough) (r : Result) : (b.addResult r).compatAt = b.compatAt := rfl
@[simp] theorem Bough.addResult_holds (b : Bough) (r : Result) : (b.addResult r).holds = b.holds := rfl
@[simp] theorem Bough.addResult_fflags (b : Bough) (r : Result) : (b.addResult r).fflags = b.fflags := rfl
@[simp] theorem Bough.addResult_tvec (b : Bough) (r : Result) : (b.addResult r).tvec = b.tvec := rfl
@[simp] theorem Bough.addResult_cause (b : Bough) (r : Result) : (b.addResult r).cause = b.cause := rfl
@[simp] theorem Bough.addResult_epc (b : Bough) (r : Result) : (b.addResult r).epc = b.epc := rfl
@[simp] theorem Bough.addResult_tval (b : Bough) (r : Result) : (b.addResult r).tval = b.tval := rfl
@[simp] theorem Bough.addResult_frec (b : Bough) (r : Result) : (b.addResult r).frec = b.frec := rfl
@[simp] theorem Bough.addResult_tstatIn (b : Bough) (r : Result) : (b.addResult r).tstatIn = b.tstatIn := rfl
@[simp] theorem Bough.addResult_tstatDsn (b : Bough) (r : Result) : (b.addResult r).tstatDsn = b.tstatDsn := rfl
@[simp] theorem Bough.addResult_tdst (b : Bough) (r : Result) : (b.addResult r).tdst = b.tdst := rfl
@[simp] theorem Bough.addResult_tvmask (b : Bough) (r : Result) : (b.addResult r).tvmask = b.tvmask := rfl
@[simp] theorem Bough.addResult_bars (b : Bough) (r : Result) : (b.addResult r).bars = b.bars := rfl
@[simp] theorem Bough.addResult_pend (b : Bough) (r : Result) : (b.addResult r).pend = b.pend := rfl
@[simp] theorem Bough.addResult_opseq (b : Bough) (r : Result) : (b.addResult r).opseq = b.opseq := rfl
@[simp] theorem Bough.addResult_stopAsked (b : Bough) (r : Result) : (b.addResult r).stopAsked = b.stopAsked := rfl
@[simp] theorem Bough.addResult_dbgSkip (b : Bough) (r : Result) : (b.addResult r).dbgSkip = b.dbgSkip := rfl
@[simp] theorem Bough.addResult_dbgStep (b : Bough) (r : Result) : (b.addResult r).dbgStep = b.dbgStep := rfl
@[simp] theorem Bough.addResult_dbgCause (b : Bough) (r : Result) : (b.addResult r).dbgCause = b.dbgCause := rfl
@[simp] theorem Bough.addResult_needClock (b : Bough) (r : Result) : (b.addResult r).needClock = b.needClock := rfl
@[simp] theorem Bough.addResult_needFrame (b : Bough) (r : Result) : (b.addResult r).needFrame = b.needFrame := rfl
@[simp] theorem Bough.addResult_needWrites (b : Bough) (r : Result) : (b.addResult r).needWrites = b.needWrites := rfl
@[simp] theorem Bough.addResult_held (b : Bough) (r : Result) : (b.addResult r).held = b.held := rfl
@[simp] theorem Bough.addResult_aged (b : Bough) (r : Result) : (b.addResult r).aged = b.aged := rfl
@[simp] theorem Bough.addResult_resumeFrom (b : Bough) (r : Result) : (b.addResult r).resumeFrom = b.resumeFrom := rfl
@[simp] theorem Bough.addResult_grants (b : Bough) (r : Result) : (b.addResult r).grants = b.grants := rfl

@[simp] theorem Bough.release_grove (b : Bough) (st : Status) : (b.release st).grove = b.grove := rfl
@[simp] theorem Bough.release_bnum (b : Bough) (st : Status) : (b.release st).bnum = b.bnum := rfl
@[simp] theorem Bough.release_ctx (b : Bough) (st : Status) : (b.release st).ctx = b.ctx := rfl
@[simp] theorem Bough.release_pc (b : Bough) (st : Status) : (b.release st).pc = b.pc := rfl
@[simp] theorem Bough.release_v (b : Bough) (st : Status) : (b.release st).v = b.v := rfl
@[simp] theorem Bough.release_o (b : Bough) (st : Status) : (b.release st).o = b.o := rfl
@[simp] theorem Bough.release_p (b : Bough) (st : Status) : (b.release st).p = b.p := rfl
@[simp] theorem Bough.release_s (b : Bough) (st : Status) : (b.release st).s = b.s := rfl
@[simp] theorem Bough.release_lv0 (b : Bough) (st : Status) : (b.release st).lv0 = b.lv0 := rfl
@[simp] theorem Bough.release_lv1 (b : Bough) (st : Status) : (b.release st).lv1 = b.lv1 := rfl
@[simp] theorem Bough.release_lm0 (b : Bough) (st : Status) : (b.release st).lm0 = b.lm0 := rfl
@[simp] theorem Bough.release_lf0 (b : Bough) (st : Status) : (b.release st).lf0 = b.lf0 := rfl
@[simp] theorem Bough.release_results (b : Bough) (st : Status) : (b.release st).results = b.results := rfl
@[simp] theorem Bough.release_seq (b : Bough) (st : Status) : (b.release st).seq = b.seq := rfl
@[simp] theorem Bough.release_loops (b : Bough) (st : Status) : (b.release st).loops = b.loops := rfl
@[simp] theorem Bough.release_steps (b : Bough) (st : Status) : (b.release st).steps = b.steps := rfl
@[simp] theorem Bough.release_dsLeft (b : Bough) (st : Status) : (b.release st).dsLeft = b.dsLeft := rfl
@[simp] theorem Bough.release_dsTarget (b : Bough) (st : Status) : (b.release st).dsTarget = b.dsTarget := rfl
@[simp] theorem Bough.release_vserved (b : Bough) (st : Status) : (b.release st).vserved = b.vserved := rfl
@[simp] theorem Bough.release_vmask (b : Bough) (st : Status) : (b.release st).vmask = b.vmask := rfl
@[simp] theorem Bough.release_vsite (b : Bough) (st : Status) : (b.release st).vsite = b.vsite := rfl
@[simp] theorem Bough.release_active (b : Bough) (st : Status) : (b.release st).active = b.active := rfl
@[simp] theorem Bough.release_iid (b : Bough) (st : Status) : (b.release st).iid = b.iid := rfl
@[simp] theorem Bough.release_iage (b : Bough) (st : Status) : (b.release st).iage = b.iage := rfl
@[simp] theorem Bough.release_refc (b : Bough) (st : Status) : (b.release st).refc = b.refc := rfl
@[simp] theorem Bough.release_prio (b : Bough) (st : Status) : (b.release st).prio = b.prio := rfl
@[simp] theorem Bough.release_raised (b : Bough) (st : Status) : (b.release st).raised = b.raised := rfl
@[simp] theorem Bough.release_eligSince (b : Bough) (st : Status) : (b.release st).eligSince = b.eligSince := rfl
@[simp] theorem Bough.release_grantCc (b : Bough) (st : Status) : (b.release st).grantCc = b.grantCc := rfl
@[simp] theorem Bough.release_earliest (b : Bough) (st : Status) : (b.release st).earliest = b.earliest := rfl
@[simp] theorem Bough.release_fflags (b : Bough) (st : Status) : (b.release st).fflags = b.fflags := rfl
@[simp] theorem Bough.release_tvec (b : Bough) (st : Status) : (b.release st).tvec = b.tvec := rfl
@[simp] theorem Bough.release_cause (b : Bough) (st : Status) : (b.release st).cause = b.cause := rfl
@[simp] theorem Bough.release_epc (b : Bough) (st : Status) : (b.release st).epc = b.epc := rfl
@[simp] theorem Bough.release_tval (b : Bough) (st : Status) : (b.release st).tval = b.tval := rfl
@[simp] theorem Bough.release_frec (b : Bough) (st : Status) : (b.release st).frec = b.frec := rfl
@[simp] theorem Bough.release_tstatIn (b : Bough) (st : Status) : (b.release st).tstatIn = b.tstatIn := rfl
@[simp] theorem Bough.release_tstatDsn (b : Bough) (st : Status) : (b.release st).tstatDsn = b.tstatDsn := rfl
@[simp] theorem Bough.release_tdst (b : Bough) (st : Status) : (b.release st).tdst = b.tdst := rfl
@[simp] theorem Bough.release_tvmask (b : Bough) (st : Status) : (b.release st).tvmask = b.tvmask := rfl
@[simp] theorem Bough.release_bars (b : Bough) (st : Status) : (b.release st).bars = b.bars := rfl
@[simp] theorem Bough.release_pend (b : Bough) (st : Status) : (b.release st).pend = b.pend := rfl
@[simp] theorem Bough.release_opseq (b : Bough) (st : Status) : (b.release st).opseq = b.opseq := rfl
@[simp] theorem Bough.release_stopAsked (b : Bough) (st : Status) : (b.release st).stopAsked = b.stopAsked := rfl
@[simp] theorem Bough.release_dbgSkip (b : Bough) (st : Status) : (b.release st).dbgSkip = b.dbgSkip := rfl
@[simp] theorem Bough.release_dbgStep (b : Bough) (st : Status) : (b.release st).dbgStep = b.dbgStep := rfl
@[simp] theorem Bough.release_dbgCause (b : Bough) (st : Status) : (b.release st).dbgCause = b.dbgCause := rfl
@[simp] theorem Bough.release_needClock (b : Bough) (st : Status) : (b.release st).needClock = b.needClock := rfl
@[simp] theorem Bough.release_needFrame (b : Bough) (st : Status) : (b.release st).needFrame = b.needFrame := rfl
@[simp] theorem Bough.release_needWrites (b : Bough) (st : Status) : (b.release st).needWrites = b.needWrites := rfl
@[simp] theorem Bough.release_held (b : Bough) (st : Status) : (b.release st).held = b.held := rfl
@[simp] theorem Bough.release_aged (b : Bough) (st : Status) : (b.release st).aged = b.aged := rfl
@[simp] theorem Bough.release_resumeFrom (b : Bough) (st : Status) : (b.release st).resumeFrom = b.resumeFrom := rfl
@[simp] theorem Bough.release_grants (b : Bough) (st : Status) : (b.release st).grants = b.grants := rfl

@[simp] theorem Bough.returnTrap_grove (b : Bough) : (b.returnTrap).grove = b.grove := rfl
@[simp] theorem Bough.returnTrap_bnum (b : Bough) : (b.returnTrap).bnum = b.bnum := rfl
@[simp] theorem Bough.returnTrap_ctx (b : Bough) : (b.returnTrap).ctx = b.ctx := rfl
@[simp] theorem Bough.returnTrap_v (b : Bough) : (b.returnTrap).v = b.v := rfl
@[simp] theorem Bough.returnTrap_o (b : Bough) : (b.returnTrap).o = b.o := rfl
@[simp] theorem Bough.returnTrap_p (b : Bough) : (b.returnTrap).p = b.p := rfl
@[simp] theorem Bough.returnTrap_s (b : Bough) : (b.returnTrap).s = b.s := rfl
@[simp] theorem Bough.returnTrap_lv0 (b : Bough) : (b.returnTrap).lv0 = b.lv0 := rfl
@[simp] theorem Bough.returnTrap_lv1 (b : Bough) : (b.returnTrap).lv1 = b.lv1 := rfl
@[simp] theorem Bough.returnTrap_lm0 (b : Bough) : (b.returnTrap).lm0 = b.lm0 := rfl
@[simp] theorem Bough.returnTrap_lf0 (b : Bough) : (b.returnTrap).lf0 = b.lf0 := rfl
@[simp] theorem Bough.returnTrap_results (b : Bough) : (b.returnTrap).results = b.results := rfl
@[simp] theorem Bough.returnTrap_seq (b : Bough) : (b.returnTrap).seq = b.seq := rfl
@[simp] theorem Bough.returnTrap_loops (b : Bough) : (b.returnTrap).loops = b.loops := rfl
@[simp] theorem Bough.returnTrap_steps (b : Bough) : (b.returnTrap).steps = b.steps := rfl
@[simp] theorem Bough.returnTrap_vserved (b : Bough) : (b.returnTrap).vserved = b.vserved := rfl
@[simp] theorem Bough.returnTrap_vsite (b : Bough) : (b.returnTrap).vsite = b.vsite := rfl
@[simp] theorem Bough.returnTrap_active (b : Bough) : (b.returnTrap).active = b.active := rfl
@[simp] theorem Bough.returnTrap_iid (b : Bough) : (b.returnTrap).iid = b.iid := rfl
@[simp] theorem Bough.returnTrap_iage (b : Bough) : (b.returnTrap).iage = b.iage := rfl
@[simp] theorem Bough.returnTrap_refc (b : Bough) : (b.returnTrap).refc = b.refc := rfl
@[simp] theorem Bough.returnTrap_prio (b : Bough) : (b.returnTrap).prio = b.prio := rfl
@[simp] theorem Bough.returnTrap_raised (b : Bough) : (b.returnTrap).raised = b.raised := rfl
@[simp] theorem Bough.returnTrap_eligSince (b : Bough) : (b.returnTrap).eligSince = b.eligSince := rfl
@[simp] theorem Bough.returnTrap_status (b : Bough) : (b.returnTrap).status = b.status := rfl
@[simp] theorem Bough.returnTrap_phase (b : Bough) : (b.returnTrap).phase = b.phase := rfl
@[simp] theorem Bough.returnTrap_grantCc (b : Bough) : (b.returnTrap).grantCc = b.grantCc := rfl
@[simp] theorem Bough.returnTrap_earliest (b : Bough) : (b.returnTrap).earliest = b.earliest := rfl
@[simp] theorem Bough.returnTrap_stretchEnd (b : Bough) : (b.returnTrap).stretchEnd = b.stretchEnd := rfl
@[simp] theorem Bough.returnTrap_presented (b : Bough) : (b.returnTrap).presented = b.presented := rfl
@[simp] theorem Bough.returnTrap_compatAt (b : Bough) : (b.returnTrap).compatAt = b.compatAt := rfl
@[simp] theorem Bough.returnTrap_holds (b : Bough) : (b.returnTrap).holds = b.holds := rfl
@[simp] theorem Bough.returnTrap_fflags (b : Bough) : (b.returnTrap).fflags = b.fflags := rfl
@[simp] theorem Bough.returnTrap_tvec (b : Bough) : (b.returnTrap).tvec = b.tvec := rfl
@[simp] theorem Bough.returnTrap_cause (b : Bough) : (b.returnTrap).cause = b.cause := rfl
@[simp] theorem Bough.returnTrap_epc (b : Bough) : (b.returnTrap).epc = b.epc := rfl
@[simp] theorem Bough.returnTrap_tval (b : Bough) : (b.returnTrap).tval = b.tval := rfl
@[simp] theorem Bough.returnTrap_frec (b : Bough) : (b.returnTrap).frec = b.frec := rfl
@[simp] theorem Bough.returnTrap_tstatDsn (b : Bough) : (b.returnTrap).tstatDsn = b.tstatDsn := rfl
@[simp] theorem Bough.returnTrap_tdst (b : Bough) : (b.returnTrap).tdst = b.tdst := rfl
@[simp] theorem Bough.returnTrap_tvmask (b : Bough) : (b.returnTrap).tvmask = b.tvmask := rfl
@[simp] theorem Bough.returnTrap_bars (b : Bough) : (b.returnTrap).bars = b.bars := rfl
@[simp] theorem Bough.returnTrap_pend (b : Bough) : (b.returnTrap).pend = b.pend := rfl
@[simp] theorem Bough.returnTrap_opseq (b : Bough) : (b.returnTrap).opseq = b.opseq := rfl
@[simp] theorem Bough.returnTrap_stopAsked (b : Bough) : (b.returnTrap).stopAsked = b.stopAsked := rfl
@[simp] theorem Bough.returnTrap_dbgSkip (b : Bough) : (b.returnTrap).dbgSkip = b.dbgSkip := rfl
@[simp] theorem Bough.returnTrap_dbgStep (b : Bough) : (b.returnTrap).dbgStep = b.dbgStep := rfl
@[simp] theorem Bough.returnTrap_dbgCause (b : Bough) : (b.returnTrap).dbgCause = b.dbgCause := rfl
@[simp] theorem Bough.returnTrap_needClock (b : Bough) : (b.returnTrap).needClock = b.needClock := rfl
@[simp] theorem Bough.returnTrap_needFrame (b : Bough) : (b.returnTrap).needFrame = b.needFrame := rfl
@[simp] theorem Bough.returnTrap_needWrites (b : Bough) : (b.returnTrap).needWrites = b.needWrites := rfl
@[simp] theorem Bough.returnTrap_held (b : Bough) : (b.returnTrap).held = b.held := rfl
@[simp] theorem Bough.returnTrap_aged (b : Bough) : (b.returnTrap).aged = b.aged := rfl
@[simp] theorem Bough.returnTrap_resumeFrom (b : Bough) : (b.returnTrap).resumeFrom = b.resumeFrom := rfl
@[simp] theorem Bough.returnTrap_grants (b : Bough) : (b.returnTrap).grants = b.grants := rfl

@[simp] theorem Bough.setP_grove (b : Bough) (n : Nat) (x : Mask) : (b.setP n x).grove = b.grove := by unfold Bough.setP; split <;> rfl
@[simp] theorem Bough.setP_bnum (b : Bough) (n : Nat) (x : Mask) : (b.setP n x).bnum = b.bnum := by unfold Bough.setP; split <;> rfl
@[simp] theorem Bough.setP_ctx (b : Bough) (n : Nat) (x : Mask) : (b.setP n x).ctx = b.ctx := by unfold Bough.setP; split <;> rfl
@[simp] theorem Bough.setP_pc (b : Bough) (n : Nat) (x : Mask) : (b.setP n x).pc = b.pc := by unfold Bough.setP; split <;> rfl
@[simp] theorem Bough.setP_v (b : Bough) (n : Nat) (x : Mask) : (b.setP n x).v = b.v := by unfold Bough.setP; split <;> rfl
@[simp] theorem Bough.setP_o (b : Bough) (n : Nat) (x : Mask) : (b.setP n x).o = b.o := by unfold Bough.setP; split <;> rfl
@[simp] theorem Bough.setP_s (b : Bough) (n : Nat) (x : Mask) : (b.setP n x).s = b.s := by unfold Bough.setP; split <;> rfl
@[simp] theorem Bough.setP_lv0 (b : Bough) (n : Nat) (x : Mask) : (b.setP n x).lv0 = b.lv0 := by unfold Bough.setP; split <;> rfl
@[simp] theorem Bough.setP_lv1 (b : Bough) (n : Nat) (x : Mask) : (b.setP n x).lv1 = b.lv1 := by unfold Bough.setP; split <;> rfl
@[simp] theorem Bough.setP_lm0 (b : Bough) (n : Nat) (x : Mask) : (b.setP n x).lm0 = b.lm0 := by unfold Bough.setP; split <;> rfl
@[simp] theorem Bough.setP_lf0 (b : Bough) (n : Nat) (x : Mask) : (b.setP n x).lf0 = b.lf0 := by unfold Bough.setP; split <;> rfl
@[simp] theorem Bough.setP_results (b : Bough) (n : Nat) (x : Mask) : (b.setP n x).results = b.results := by unfold Bough.setP; split <;> rfl
@[simp] theorem Bough.setP_seq (b : Bough) (n : Nat) (x : Mask) : (b.setP n x).seq = b.seq := by unfold Bough.setP; split <;> rfl
@[simp] theorem Bough.setP_loops (b : Bough) (n : Nat) (x : Mask) : (b.setP n x).loops = b.loops := by unfold Bough.setP; split <;> rfl
@[simp] theorem Bough.setP_steps (b : Bough) (n : Nat) (x : Mask) : (b.setP n x).steps = b.steps := by unfold Bough.setP; split <;> rfl
@[simp] theorem Bough.setP_dsLeft (b : Bough) (n : Nat) (x : Mask) : (b.setP n x).dsLeft = b.dsLeft := by unfold Bough.setP; split <;> rfl
@[simp] theorem Bough.setP_dsTarget (b : Bough) (n : Nat) (x : Mask) : (b.setP n x).dsTarget = b.dsTarget := by unfold Bough.setP; split <;> rfl
@[simp] theorem Bough.setP_vserved (b : Bough) (n : Nat) (x : Mask) : (b.setP n x).vserved = b.vserved := by unfold Bough.setP; split <;> rfl
@[simp] theorem Bough.setP_vmask (b : Bough) (n : Nat) (x : Mask) : (b.setP n x).vmask = b.vmask := by unfold Bough.setP; split <;> rfl
@[simp] theorem Bough.setP_vsite (b : Bough) (n : Nat) (x : Mask) : (b.setP n x).vsite = b.vsite := by unfold Bough.setP; split <;> rfl
@[simp] theorem Bough.setP_active (b : Bough) (n : Nat) (x : Mask) : (b.setP n x).active = b.active := by unfold Bough.setP; split <;> rfl
@[simp] theorem Bough.setP_iid (b : Bough) (n : Nat) (x : Mask) : (b.setP n x).iid = b.iid := by unfold Bough.setP; split <;> rfl
@[simp] theorem Bough.setP_iage (b : Bough) (n : Nat) (x : Mask) : (b.setP n x).iage = b.iage := by unfold Bough.setP; split <;> rfl
@[simp] theorem Bough.setP_refc (b : Bough) (n : Nat) (x : Mask) : (b.setP n x).refc = b.refc := by unfold Bough.setP; split <;> rfl
@[simp] theorem Bough.setP_prio (b : Bough) (n : Nat) (x : Mask) : (b.setP n x).prio = b.prio := by unfold Bough.setP; split <;> rfl
@[simp] theorem Bough.setP_raised (b : Bough) (n : Nat) (x : Mask) : (b.setP n x).raised = b.raised := by unfold Bough.setP; split <;> rfl
@[simp] theorem Bough.setP_eligSince (b : Bough) (n : Nat) (x : Mask) : (b.setP n x).eligSince = b.eligSince := by unfold Bough.setP; split <;> rfl
@[simp] theorem Bough.setP_status (b : Bough) (n : Nat) (x : Mask) : (b.setP n x).status = b.status := by unfold Bough.setP; split <;> rfl
@[simp] theorem Bough.setP_phase (b : Bough) (n : Nat) (x : Mask) : (b.setP n x).phase = b.phase := by unfold Bough.setP; split <;> rfl
@[simp] theorem Bough.setP_grantCc (b : Bough) (n : Nat) (x : Mask) : (b.setP n x).grantCc = b.grantCc := by unfold Bough.setP; split <;> rfl
@[simp] theorem Bough.setP_earliest (b : Bough) (n : Nat) (x : Mask) : (b.setP n x).earliest = b.earliest := by unfold Bough.setP; split <;> rfl
@[simp] theorem Bough.setP_stretchEnd (b : Bough) (n : Nat) (x : Mask) : (b.setP n x).stretchEnd = b.stretchEnd := by unfold Bough.setP; split <;> rfl
@[simp] theorem Bough.setP_presented (b : Bough) (n : Nat) (x : Mask) : (b.setP n x).presented = b.presented := by unfold Bough.setP; split <;> rfl
@[simp] theorem Bough.setP_compatAt (b : Bough) (n : Nat) (x : Mask) : (b.setP n x).compatAt = b.compatAt := by unfold Bough.setP; split <;> rfl
@[simp] theorem Bough.setP_holds (b : Bough) (n : Nat) (x : Mask) : (b.setP n x).holds = b.holds := by unfold Bough.setP; split <;> rfl
@[simp] theorem Bough.setP_fflags (b : Bough) (n : Nat) (x : Mask) : (b.setP n x).fflags = b.fflags := by unfold Bough.setP; split <;> rfl
@[simp] theorem Bough.setP_tvec (b : Bough) (n : Nat) (x : Mask) : (b.setP n x).tvec = b.tvec := by unfold Bough.setP; split <;> rfl
@[simp] theorem Bough.setP_cause (b : Bough) (n : Nat) (x : Mask) : (b.setP n x).cause = b.cause := by unfold Bough.setP; split <;> rfl
@[simp] theorem Bough.setP_epc (b : Bough) (n : Nat) (x : Mask) : (b.setP n x).epc = b.epc := by unfold Bough.setP; split <;> rfl
@[simp] theorem Bough.setP_tval (b : Bough) (n : Nat) (x : Mask) : (b.setP n x).tval = b.tval := by unfold Bough.setP; split <;> rfl
@[simp] theorem Bough.setP_frec (b : Bough) (n : Nat) (x : Mask) : (b.setP n x).frec = b.frec := by unfold Bough.setP; split <;> rfl
@[simp] theorem Bough.setP_tstatIn (b : Bough) (n : Nat) (x : Mask) : (b.setP n x).tstatIn = b.tstatIn := by unfold Bough.setP; split <;> rfl
@[simp] theorem Bough.setP_tstatDsn (b : Bough) (n : Nat) (x : Mask) : (b.setP n x).tstatDsn = b.tstatDsn := by unfold Bough.setP; split <;> rfl
@[simp] theorem Bough.setP_tdst (b : Bough) (n : Nat) (x : Mask) : (b.setP n x).tdst = b.tdst := by unfold Bough.setP; split <;> rfl
@[simp] theorem Bough.setP_tvmask (b : Bough) (n : Nat) (x : Mask) : (b.setP n x).tvmask = b.tvmask := by unfold Bough.setP; split <;> rfl
@[simp] theorem Bough.setP_bars (b : Bough) (n : Nat) (x : Mask) : (b.setP n x).bars = b.bars := by unfold Bough.setP; split <;> rfl
@[simp] theorem Bough.setP_pend (b : Bough) (n : Nat) (x : Mask) : (b.setP n x).pend = b.pend := by unfold Bough.setP; split <;> rfl
@[simp] theorem Bough.setP_opseq (b : Bough) (n : Nat) (x : Mask) : (b.setP n x).opseq = b.opseq := by unfold Bough.setP; split <;> rfl
@[simp] theorem Bough.setP_stopAsked (b : Bough) (n : Nat) (x : Mask) : (b.setP n x).stopAsked = b.stopAsked := by unfold Bough.setP; split <;> rfl
@[simp] theorem Bough.setP_dbgSkip (b : Bough) (n : Nat) (x : Mask) : (b.setP n x).dbgSkip = b.dbgSkip := by unfold Bough.setP; split <;> rfl
@[simp] theorem Bough.setP_dbgStep (b : Bough) (n : Nat) (x : Mask) : (b.setP n x).dbgStep = b.dbgStep := by unfold Bough.setP; split <;> rfl
@[simp] theorem Bough.setP_dbgCause (b : Bough) (n : Nat) (x : Mask) : (b.setP n x).dbgCause = b.dbgCause := by unfold Bough.setP; split <;> rfl
@[simp] theorem Bough.setP_needClock (b : Bough) (n : Nat) (x : Mask) : (b.setP n x).needClock = b.needClock := by unfold Bough.setP; split <;> rfl
@[simp] theorem Bough.setP_needFrame (b : Bough) (n : Nat) (x : Mask) : (b.setP n x).needFrame = b.needFrame := by unfold Bough.setP; split <;> rfl
@[simp] theorem Bough.setP_needWrites (b : Bough) (n : Nat) (x : Mask) : (b.setP n x).needWrites = b.needWrites := by unfold Bough.setP; split <;> rfl
@[simp] theorem Bough.setP_held (b : Bough) (n : Nat) (x : Mask) : (b.setP n x).held = b.held := by unfold Bough.setP; split <;> rfl
@[simp] theorem Bough.setP_aged (b : Bough) (n : Nat) (x : Mask) : (b.setP n x).aged = b.aged := by unfold Bough.setP; split <;> rfl
@[simp] theorem Bough.setP_resumeFrom (b : Bough) (n : Nat) (x : Mask) : (b.setP n x).resumeFrom = b.resumeFrom := by unfold Bough.setP; split <;> rfl
@[simp] theorem Bough.setP_grants (b : Bough) (n : Nat) (x : Mask) : (b.setP n x).grants = b.grants := by unfold Bough.setP; split <;> rfl

@[simp] theorem Bough.setS_grove (b : Bough) (n : Nat) (x : DWord) : (b.setS n x).grove = b.grove := by unfold Bough.setS; split <;> rfl
@[simp] theorem Bough.setS_bnum (b : Bough) (n : Nat) (x : DWord) : (b.setS n x).bnum = b.bnum := by unfold Bough.setS; split <;> rfl
@[simp] theorem Bough.setS_ctx (b : Bough) (n : Nat) (x : DWord) : (b.setS n x).ctx = b.ctx := by unfold Bough.setS; split <;> rfl
@[simp] theorem Bough.setS_pc (b : Bough) (n : Nat) (x : DWord) : (b.setS n x).pc = b.pc := by unfold Bough.setS; split <;> rfl
@[simp] theorem Bough.setS_v (b : Bough) (n : Nat) (x : DWord) : (b.setS n x).v = b.v := by unfold Bough.setS; split <;> rfl
@[simp] theorem Bough.setS_o (b : Bough) (n : Nat) (x : DWord) : (b.setS n x).o = b.o := by unfold Bough.setS; split <;> rfl
@[simp] theorem Bough.setS_p (b : Bough) (n : Nat) (x : DWord) : (b.setS n x).p = b.p := by unfold Bough.setS; split <;> rfl
@[simp] theorem Bough.setS_lv0 (b : Bough) (n : Nat) (x : DWord) : (b.setS n x).lv0 = b.lv0 := by unfold Bough.setS; split <;> rfl
@[simp] theorem Bough.setS_lv1 (b : Bough) (n : Nat) (x : DWord) : (b.setS n x).lv1 = b.lv1 := by unfold Bough.setS; split <;> rfl
@[simp] theorem Bough.setS_lm0 (b : Bough) (n : Nat) (x : DWord) : (b.setS n x).lm0 = b.lm0 := by unfold Bough.setS; split <;> rfl
@[simp] theorem Bough.setS_lf0 (b : Bough) (n : Nat) (x : DWord) : (b.setS n x).lf0 = b.lf0 := by unfold Bough.setS; split <;> rfl
@[simp] theorem Bough.setS_results (b : Bough) (n : Nat) (x : DWord) : (b.setS n x).results = b.results := by unfold Bough.setS; split <;> rfl
@[simp] theorem Bough.setS_seq (b : Bough) (n : Nat) (x : DWord) : (b.setS n x).seq = b.seq := by unfold Bough.setS; split <;> rfl
@[simp] theorem Bough.setS_loops (b : Bough) (n : Nat) (x : DWord) : (b.setS n x).loops = b.loops := by unfold Bough.setS; split <;> rfl
@[simp] theorem Bough.setS_steps (b : Bough) (n : Nat) (x : DWord) : (b.setS n x).steps = b.steps := by unfold Bough.setS; split <;> rfl
@[simp] theorem Bough.setS_dsLeft (b : Bough) (n : Nat) (x : DWord) : (b.setS n x).dsLeft = b.dsLeft := by unfold Bough.setS; split <;> rfl
@[simp] theorem Bough.setS_dsTarget (b : Bough) (n : Nat) (x : DWord) : (b.setS n x).dsTarget = b.dsTarget := by unfold Bough.setS; split <;> rfl
@[simp] theorem Bough.setS_vserved (b : Bough) (n : Nat) (x : DWord) : (b.setS n x).vserved = b.vserved := by unfold Bough.setS; split <;> rfl
@[simp] theorem Bough.setS_vmask (b : Bough) (n : Nat) (x : DWord) : (b.setS n x).vmask = b.vmask := by unfold Bough.setS; split <;> rfl
@[simp] theorem Bough.setS_vsite (b : Bough) (n : Nat) (x : DWord) : (b.setS n x).vsite = b.vsite := by unfold Bough.setS; split <;> rfl
@[simp] theorem Bough.setS_active (b : Bough) (n : Nat) (x : DWord) : (b.setS n x).active = b.active := by unfold Bough.setS; split <;> rfl
@[simp] theorem Bough.setS_iid (b : Bough) (n : Nat) (x : DWord) : (b.setS n x).iid = b.iid := by unfold Bough.setS; split <;> rfl
@[simp] theorem Bough.setS_iage (b : Bough) (n : Nat) (x : DWord) : (b.setS n x).iage = b.iage := by unfold Bough.setS; split <;> rfl
@[simp] theorem Bough.setS_refc (b : Bough) (n : Nat) (x : DWord) : (b.setS n x).refc = b.refc := by unfold Bough.setS; split <;> rfl
@[simp] theorem Bough.setS_prio (b : Bough) (n : Nat) (x : DWord) : (b.setS n x).prio = b.prio := by unfold Bough.setS; split <;> rfl
@[simp] theorem Bough.setS_raised (b : Bough) (n : Nat) (x : DWord) : (b.setS n x).raised = b.raised := by unfold Bough.setS; split <;> rfl
@[simp] theorem Bough.setS_eligSince (b : Bough) (n : Nat) (x : DWord) : (b.setS n x).eligSince = b.eligSince := by unfold Bough.setS; split <;> rfl
@[simp] theorem Bough.setS_status (b : Bough) (n : Nat) (x : DWord) : (b.setS n x).status = b.status := by unfold Bough.setS; split <;> rfl
@[simp] theorem Bough.setS_phase (b : Bough) (n : Nat) (x : DWord) : (b.setS n x).phase = b.phase := by unfold Bough.setS; split <;> rfl
@[simp] theorem Bough.setS_grantCc (b : Bough) (n : Nat) (x : DWord) : (b.setS n x).grantCc = b.grantCc := by unfold Bough.setS; split <;> rfl
@[simp] theorem Bough.setS_earliest (b : Bough) (n : Nat) (x : DWord) : (b.setS n x).earliest = b.earliest := by unfold Bough.setS; split <;> rfl
@[simp] theorem Bough.setS_stretchEnd (b : Bough) (n : Nat) (x : DWord) : (b.setS n x).stretchEnd = b.stretchEnd := by unfold Bough.setS; split <;> rfl
@[simp] theorem Bough.setS_presented (b : Bough) (n : Nat) (x : DWord) : (b.setS n x).presented = b.presented := by unfold Bough.setS; split <;> rfl
@[simp] theorem Bough.setS_compatAt (b : Bough) (n : Nat) (x : DWord) : (b.setS n x).compatAt = b.compatAt := by unfold Bough.setS; split <;> rfl
@[simp] theorem Bough.setS_holds (b : Bough) (n : Nat) (x : DWord) : (b.setS n x).holds = b.holds := by unfold Bough.setS; split <;> rfl
@[simp] theorem Bough.setS_fflags (b : Bough) (n : Nat) (x : DWord) : (b.setS n x).fflags = b.fflags := by unfold Bough.setS; split <;> rfl
@[simp] theorem Bough.setS_tvec (b : Bough) (n : Nat) (x : DWord) : (b.setS n x).tvec = b.tvec := by unfold Bough.setS; split <;> rfl
@[simp] theorem Bough.setS_cause (b : Bough) (n : Nat) (x : DWord) : (b.setS n x).cause = b.cause := by unfold Bough.setS; split <;> rfl
@[simp] theorem Bough.setS_epc (b : Bough) (n : Nat) (x : DWord) : (b.setS n x).epc = b.epc := by unfold Bough.setS; split <;> rfl
@[simp] theorem Bough.setS_tval (b : Bough) (n : Nat) (x : DWord) : (b.setS n x).tval = b.tval := by unfold Bough.setS; split <;> rfl
@[simp] theorem Bough.setS_frec (b : Bough) (n : Nat) (x : DWord) : (b.setS n x).frec = b.frec := by unfold Bough.setS; split <;> rfl
@[simp] theorem Bough.setS_tstatIn (b : Bough) (n : Nat) (x : DWord) : (b.setS n x).tstatIn = b.tstatIn := by unfold Bough.setS; split <;> rfl
@[simp] theorem Bough.setS_tstatDsn (b : Bough) (n : Nat) (x : DWord) : (b.setS n x).tstatDsn = b.tstatDsn := by unfold Bough.setS; split <;> rfl
@[simp] theorem Bough.setS_tdst (b : Bough) (n : Nat) (x : DWord) : (b.setS n x).tdst = b.tdst := by unfold Bough.setS; split <;> rfl
@[simp] theorem Bough.setS_tvmask (b : Bough) (n : Nat) (x : DWord) : (b.setS n x).tvmask = b.tvmask := by unfold Bough.setS; split <;> rfl
@[simp] theorem Bough.setS_bars (b : Bough) (n : Nat) (x : DWord) : (b.setS n x).bars = b.bars := by unfold Bough.setS; split <;> rfl
@[simp] theorem Bough.setS_pend (b : Bough) (n : Nat) (x : DWord) : (b.setS n x).pend = b.pend := by unfold Bough.setS; split <;> rfl
@[simp] theorem Bough.setS_opseq (b : Bough) (n : Nat) (x : DWord) : (b.setS n x).opseq = b.opseq := by unfold Bough.setS; split <;> rfl
@[simp] theorem Bough.setS_stopAsked (b : Bough) (n : Nat) (x : DWord) : (b.setS n x).stopAsked = b.stopAsked := by unfold Bough.setS; split <;> rfl
@[simp] theorem Bough.setS_dbgSkip (b : Bough) (n : Nat) (x : DWord) : (b.setS n x).dbgSkip = b.dbgSkip := by unfold Bough.setS; split <;> rfl
@[simp] theorem Bough.setS_dbgStep (b : Bough) (n : Nat) (x : DWord) : (b.setS n x).dbgStep = b.dbgStep := by unfold Bough.setS; split <;> rfl
@[simp] theorem Bough.setS_dbgCause (b : Bough) (n : Nat) (x : DWord) : (b.setS n x).dbgCause = b.dbgCause := by unfold Bough.setS; split <;> rfl
@[simp] theorem Bough.setS_needClock (b : Bough) (n : Nat) (x : DWord) : (b.setS n x).needClock = b.needClock := by unfold Bough.setS; split <;> rfl
@[simp] theorem Bough.setS_needFrame (b : Bough) (n : Nat) (x : DWord) : (b.setS n x).needFrame = b.needFrame := by unfold Bough.setS; split <;> rfl
@[simp] theorem Bough.setS_needWrites (b : Bough) (n : Nat) (x : DWord) : (b.setS n x).needWrites = b.needWrites := by unfold Bough.setS; split <;> rfl
@[simp] theorem Bough.setS_held (b : Bough) (n : Nat) (x : DWord) : (b.setS n x).held = b.held := by unfold Bough.setS; split <;> rfl
@[simp] theorem Bough.setS_aged (b : Bough) (n : Nat) (x : DWord) : (b.setS n x).aged = b.aged := by unfold Bough.setS; split <;> rfl
@[simp] theorem Bough.setS_resumeFrom (b : Bough) (n : Nat) (x : DWord) : (b.setS n x).resumeFrom = b.resumeFrom := by unfold Bough.setS; split <;> rfl
@[simp] theorem Bough.setS_grants (b : Bough) (n : Nat) (x : DWord) : (b.setS n x).grants = b.grants := by unfold Bough.setS; split <;> rfl

@[simp] theorem Bough.enterTrap_grove (b : Bough) (c : Word) (e t : DWord) (r : BitVec 7) (n : Nat) : (b.enterTrap c e t r n).grove = b.grove := rfl
@[simp] theorem Bough.enterTrap_bnum (b : Bough) (c : Word) (e t : DWord) (r : BitVec 7) (n : Nat) : (b.enterTrap c e t r n).bnum = b.bnum := rfl
@[simp] theorem Bough.enterTrap_ctx (b : Bough) (c : Word) (e t : DWord) (r : BitVec 7) (n : Nat) : (b.enterTrap c e t r n).ctx = b.ctx := rfl
@[simp] theorem Bough.enterTrap_v (b : Bough) (c : Word) (e t : DWord) (r : BitVec 7) (n : Nat) : (b.enterTrap c e t r n).v = b.v := rfl
@[simp] theorem Bough.enterTrap_o (b : Bough) (c : Word) (e t : DWord) (r : BitVec 7) (n : Nat) : (b.enterTrap c e t r n).o = b.o := rfl
@[simp] theorem Bough.enterTrap_p (b : Bough) (c : Word) (e t : DWord) (r : BitVec 7) (n : Nat) : (b.enterTrap c e t r n).p = b.p := rfl
@[simp] theorem Bough.enterTrap_s (b : Bough) (c : Word) (e t : DWord) (r : BitVec 7) (n : Nat) : (b.enterTrap c e t r n).s = b.s := rfl
@[simp] theorem Bough.enterTrap_lv0 (b : Bough) (c : Word) (e t : DWord) (r : BitVec 7) (n : Nat) : (b.enterTrap c e t r n).lv0 = b.lv0 := rfl
@[simp] theorem Bough.enterTrap_lv1 (b : Bough) (c : Word) (e t : DWord) (r : BitVec 7) (n : Nat) : (b.enterTrap c e t r n).lv1 = b.lv1 := rfl
@[simp] theorem Bough.enterTrap_lm0 (b : Bough) (c : Word) (e t : DWord) (r : BitVec 7) (n : Nat) : (b.enterTrap c e t r n).lm0 = b.lm0 := rfl
@[simp] theorem Bough.enterTrap_lf0 (b : Bough) (c : Word) (e t : DWord) (r : BitVec 7) (n : Nat) : (b.enterTrap c e t r n).lf0 = b.lf0 := rfl
@[simp] theorem Bough.enterTrap_results (b : Bough) (c : Word) (e t : DWord) (r : BitVec 7) (n : Nat) : (b.enterTrap c e t r n).results = b.results := rfl
@[simp] theorem Bough.enterTrap_seq (b : Bough) (c : Word) (e t : DWord) (r : BitVec 7) (n : Nat) : (b.enterTrap c e t r n).seq = b.seq := rfl
@[simp] theorem Bough.enterTrap_loops (b : Bough) (c : Word) (e t : DWord) (r : BitVec 7) (n : Nat) : (b.enterTrap c e t r n).loops = b.loops := rfl
@[simp] theorem Bough.enterTrap_steps (b : Bough) (c : Word) (e t : DWord) (r : BitVec 7) (n : Nat) : (b.enterTrap c e t r n).steps = b.steps := rfl
@[simp] theorem Bough.enterTrap_vserved (b : Bough) (c : Word) (e t : DWord) (r : BitVec 7) (n : Nat) : (b.enterTrap c e t r n).vserved = b.vserved := rfl
@[simp] theorem Bough.enterTrap_vsite (b : Bough) (c : Word) (e t : DWord) (r : BitVec 7) (n : Nat) : (b.enterTrap c e t r n).vsite = b.vsite := rfl
@[simp] theorem Bough.enterTrap_active (b : Bough) (c : Word) (e t : DWord) (r : BitVec 7) (n : Nat) : (b.enterTrap c e t r n).active = b.active := rfl
@[simp] theorem Bough.enterTrap_iid (b : Bough) (c : Word) (e t : DWord) (r : BitVec 7) (n : Nat) : (b.enterTrap c e t r n).iid = b.iid := rfl
@[simp] theorem Bough.enterTrap_iage (b : Bough) (c : Word) (e t : DWord) (r : BitVec 7) (n : Nat) : (b.enterTrap c e t r n).iage = b.iage := rfl
@[simp] theorem Bough.enterTrap_refc (b : Bough) (c : Word) (e t : DWord) (r : BitVec 7) (n : Nat) : (b.enterTrap c e t r n).refc = b.refc := rfl
@[simp] theorem Bough.enterTrap_prio (b : Bough) (c : Word) (e t : DWord) (r : BitVec 7) (n : Nat) : (b.enterTrap c e t r n).prio = b.prio := rfl
@[simp] theorem Bough.enterTrap_raised (b : Bough) (c : Word) (e t : DWord) (r : BitVec 7) (n : Nat) : (b.enterTrap c e t r n).raised = b.raised := rfl
@[simp] theorem Bough.enterTrap_eligSince (b : Bough) (c : Word) (e t : DWord) (r : BitVec 7) (n : Nat) : (b.enterTrap c e t r n).eligSince = b.eligSince := rfl
@[simp] theorem Bough.enterTrap_grantCc (b : Bough) (c : Word) (e t : DWord) (r : BitVec 7) (n : Nat) : (b.enterTrap c e t r n).grantCc = b.grantCc := rfl
@[simp] theorem Bough.enterTrap_fflags (b : Bough) (c : Word) (e t : DWord) (r : BitVec 7) (n : Nat) : (b.enterTrap c e t r n).fflags = b.fflags := rfl
@[simp] theorem Bough.enterTrap_tvec (b : Bough) (c : Word) (e t : DWord) (r : BitVec 7) (n : Nat) : (b.enterTrap c e t r n).tvec = b.tvec := rfl
@[simp] theorem Bough.enterTrap_bars (b : Bough) (c : Word) (e t : DWord) (r : BitVec 7) (n : Nat) : (b.enterTrap c e t r n).bars = b.bars := rfl
@[simp] theorem Bough.enterTrap_pend (b : Bough) (c : Word) (e t : DWord) (r : BitVec 7) (n : Nat) : (b.enterTrap c e t r n).pend = b.pend := rfl
@[simp] theorem Bough.enterTrap_opseq (b : Bough) (c : Word) (e t : DWord) (r : BitVec 7) (n : Nat) : (b.enterTrap c e t r n).opseq = b.opseq := rfl
@[simp] theorem Bough.enterTrap_stopAsked (b : Bough) (c : Word) (e t : DWord) (r : BitVec 7) (n : Nat) : (b.enterTrap c e t r n).stopAsked = b.stopAsked := rfl
@[simp] theorem Bough.enterTrap_dbgStep (b : Bough) (c : Word) (e t : DWord) (r : BitVec 7) (n : Nat) : (b.enterTrap c e t r n).dbgStep = b.dbgStep := rfl
@[simp] theorem Bough.enterTrap_dbgCause (b : Bough) (c : Word) (e t : DWord) (r : BitVec 7) (n : Nat) : (b.enterTrap c e t r n).dbgCause = b.dbgCause := rfl
@[simp] theorem Bough.enterTrap_needClock (b : Bough) (c : Word) (e t : DWord) (r : BitVec 7) (n : Nat) : (b.enterTrap c e t r n).needClock = b.needClock := rfl
@[simp] theorem Bough.enterTrap_needFrame (b : Bough) (c : Word) (e t : DWord) (r : BitVec 7) (n : Nat) : (b.enterTrap c e t r n).needFrame = b.needFrame := rfl
@[simp] theorem Bough.enterTrap_needWrites (b : Bough) (c : Word) (e t : DWord) (r : BitVec 7) (n : Nat) : (b.enterTrap c e t r n).needWrites = b.needWrites := rfl
@[simp] theorem Bough.enterTrap_held (b : Bough) (c : Word) (e t : DWord) (r : BitVec 7) (n : Nat) : (b.enterTrap c e t r n).held = b.held := rfl
@[simp] theorem Bough.enterTrap_aged (b : Bough) (c : Word) (e t : DWord) (r : BitVec 7) (n : Nat) : (b.enterTrap c e t r n).aged = b.aged := rfl
@[simp] theorem Bough.enterTrap_resumeFrom (b : Bough) (c : Word) (e t : DWord) (r : BitVec 7) (n : Nat) : (b.enterTrap c e t r n).resumeFrom = b.resumeFrom := rfl
@[simp] theorem Bough.enterTrap_grants (b : Bough) (c : Word) (e t : DWord) (r : BitVec 7) (n : Nat) : (b.enterTrap c e t r n).grants = b.grants := rfl

/-- A write to s0 is discarded. -/
theorem Bough.setS_zero (b : Bough) (x : DWord) : b.setS 0 x = b := rfl
/-- A write to p0 is discarded. -/
theorem Bough.setP_zero (b : Bough) (x : Mask) : b.setP 0 x = b := rfl
/-- s0 reads zero. -/
@[simp] theorem Bough.sreg_zero (b : Bough) : b.sreg 0 = 0 := rfl
/-- p0 reads true in every lane. -/
@[simp] theorem Bough.pred_zero (b : Bough) : b.pred 0 = BitVec.allOnes 64 := rfl

end Sys2Proof.Machine
end

