-- ==== Sys2Proof/Laws/Table.lean ====
section
/-!
SUPPORT. Tables: what is found at a key after each operation, and that keys keep rising; and what the lookups of the state
find after each lifter.
-/
namespace Sys2Proof.Machine

variable {α : Type}

@[simp] theorem tget_nil (k : Nat) : tget ([] : Table α) k = none := rfl

theorem tget_cons (e : Nat × α) (t : Table α) (k : Nat) : tget (e :: t) k = if e.1 = k then some e.2 else tget t k := by
  obtain ⟨j, y⟩ := e
  unfold tget
  by_cases h : j = k
  · subst h; simp [List.lookup]
  · have : (k == j) = false := by simp; omega
    simp [List.lookup, this, h]

@[simp] theorem tget_tput_self (t : Table α) (k : Nat) (x : α) : tget (tput t k x) k = some x := by
  induction t with
  | nil => simp [tput, tget_cons]
  | cons e t ih =>
    obtain ⟨j, y⟩ := e
    unfold tput
    split
    · simp [tget_cons]
    · split
      · simp [tget_cons]
      · rw [tget_cons, if_neg (by dsimp; omega), ih]

theorem tget_tput_other (t : Table α) (k n : Nat) (x : α) (h : n ≠ k) : tget (tput t k x) n = tget t n := by
  induction t with
  | nil => simp [tput, tget_cons]; omega
  | cons e t ih =>
    obtain ⟨j, y⟩ := e
    unfold tput
    split
    · rw [tget_cons, if_neg (by dsimp; omega)]
    · split
      · rename_i h2; subst h2
        rw [tget_cons, tget_cons, if_neg (by dsimp; omega), if_neg (by dsimp; omega)]
      · rw [tget_cons, tget_cons, ih]

@[simp] theorem tget_tmod_self (t : Table α) (k : Nat) (f : α → α) : tget (tmod t k f) k = (tget t k).map f := by
  induction t with
  | nil => rfl
  | cons e t ih =>
    unfold tmod at ih ⊢
    simp only [List.map_cons]
    by_cases h : e.1 = k
    · simp [h, tget_cons]
    · simp [h, tget_cons, ih]

theorem tget_tmod_other (t : Table α) (k n : Nat) (f : α → α) (h : n ≠ k) : tget (tmod t k f) n = tget t n := by
  induction t with
  | nil => rfl
  | cons e t ih =>
    unfold tmod at ih ⊢
    simp only [List.map_cons]
    by_cases h1 : e.1 = k
    · have : ¬ k = n := fun h2 => h h2.symm
      simp [h1, tget_cons, ih, this]
    · simp [h1, tget_cons, ih]

theorem tget_tdel_self (t : Table α) (k : Nat) : tget (tdel t k) k = none := by
  induction t with
  | nil => rfl
  | cons e t ih =>
    unfold tdel at ih ⊢
    by_cases h1 : e.1 = k
    · simp [h1, ih]
    · simp [h1, tget_cons, ih]

theorem tget_tdel_other (t : Table α) (k n : Nat) (h : n ≠ k) : tget (tdel t k) n = tget t n := by
  induction t with
  | nil => rfl
  | cons e t ih =>
    unfold tdel at ih ⊢
    by_cases h1 : e.1 = k
    · have : ¬ k = n := fun h2 => h h2.symm
      simp [h1, tget_cons, ih, this]
    · simp [h1, tget_cons, ih]

@[simp] theorem tget_tupd_self (t : Table α) (k : Nat) (d : α) (f : α → α) : tget (tupd t k d f) k = some (f (tgetD t k d)) := by
  simp [tupd]

theorem tget_tupd_other (t : Table α) (k n : Nat) (d : α) (f : α → α) (h : n ≠ k) : tget (tupd t k d f) n = tget t n :=
  tget_tput_other _ _ _ _ h

@[simp] theorem tgetD_tupd_self (t : Table α) (k : Nat) (d : α) (f : α → α) : tgetD (tupd t k d f) k d = f (tgetD t k d) := by
  simp [tgetD, tupd]

theorem tgetD_tupd_other (t : Table α) (k n : Nat) (d : α) (f : α → α) (h : n ≠ k) :
    tgetD (tupd t k d f) n d = tgetD t n d := by
  simp [tgetD, tget_tupd_other _ _ _ _ _ h]

/-! ### Entries of a changed vector -/

@[simp] theorem vmod_getElem {n : Nat} (v : Vector α n) (k i : Nat) (f : α → α) (h : i < n) :
    (vmod v k f)[i] = if i = k then f v[i] else v[i] := by
  simp [vmod]

/-! ### Lookups of the state after a lifter -/

@[simp] theorem State.bough?_onBough_self (s : State) (k : Nat) (f : Bough → Bough) :
    (s.onBough k f).bough? k = (s.bough? k).map f := tget_tmod_self _ _ _
theorem State.bough?_onBough_other (s : State) (k n : Nat) (f : Bough → Bough) (h : n ≠ k) :
    (s.onBough k f).bough? n = s.bough? n := tget_tmod_other _ _ _ _ h
@[simp] theorem State.grove?_onGrove_self (s : State) (k : Nat) (f : Grove → Grove) :
    (s.onGrove k f).grove? k = (s.grove? k).map f := tget_tmod_self _ _ _
theorem State.grove?_onGrove_other (s : State) (k n : Nat) (f : Grove → Grove) (h : n ≠ k) :
    (s.onGrove k f).grove? n = s.grove? n := tget_tmod_other _ _ _ _ h
@[simp] theorem State.core_onCore_self (s : State) (k : Nat) (f : Core → Core) : (s.onCore k f).core k = f (s.core k) :=
  tgetD_tupd_self _ _ _ _
theorem State.core_onCore_other (s : State) (k n : Nat) (f : Core → Core) (h : n ≠ k) : (s.onCore k f).core n = s.core n :=
  tgetD_tupd_other _ _ _ _ _ h
@[simp] theorem State.die_onDie_self (s : State) (k : Nat) (f : Die → Die) : (s.onDie k f).die k = f (s.die k) :=
  tgetD_tupd_self _ _ _ _
theorem State.die_onDie_other (s : State) (k n : Nat) (f : Die → Die) (h : n ≠ k) : (s.onDie k f).die n = s.die n :=
  tgetD_tupd_other _ _ _ _ _ h
@[simp] theorem State.module_onModule_self (s : State) (k : Nat) (f : Module → Module) :
    (s.onModule k f).module k = f (s.module k) := tgetD_tupd_self _ _ _ _
theorem State.module_onModule_other (s : State) (k n : Nat) (f : Module → Module) (h : n ≠ k) :
    (s.onModule k f).module n = s.module n := tgetD_tupd_other _ _ _ _ _ h
@[simp] theorem State.link_onLink_self (s : State) (k : Nat) (f : Link → Link) : (s.onLink k f).link k = f (s.link k) :=
  tgetD_tupd_self _ _ _ _
theorem State.link_onLink_other (s : State) (k n : Nat) (f : Link → Link) (h : n ≠ k) : (s.onLink k f).link n = s.link n :=
  tgetD_tupd_other _ _ _ _ _ h

@[simp] theorem State.bough?_onGrove (s : State) (k n : Nat) (f : Grove → Grove) : (s.onGrove k f).bough? n = s.bough? n := rfl
@[simp] theorem State.grove?_onBough (s : State) (k n : Nat) (f : Bough → Bough) : (s.onBough k f).grove? n = s.grove? n := rfl
@[simp] theorem State.bough?_onCore (s : State) (k n : Nat) (f : Core → Core) : (s.onCore k f).bough? n = s.bough? n := rfl
@[simp] theorem State.grove?_onCore (s : State) (k n : Nat) (f : Core → Core) : (s.onCore k f).grove? n = s.grove? n := rfl
@[simp] theorem State.bough?_onDie (s : State) (k n : Nat) (f : Die → Die) : (s.onDie k f).bough? n = s.bough? n := rfl
@[simp] theorem State.grove?_onDie (s : State) (k n : Nat) (f : Die → Die) : (s.onDie k f).grove? n = s.grove? n := rfl
@[simp] theorem State.bough?_onModule (s : State) (k n : Nat) (f : Module → Module) : (s.onModule k f).bough? n = s.bough? n := rfl
@[simp] theorem State.grove?_onModule (s : State) (k n : Nat) (f : Module → Module) : (s.onModule k f).grove? n = s.grove? n := rfl
@[simp] theorem State.bough?_onLaunch (s : State) (k n : Nat) (f : Launch → Launch) : (s.onLaunch k f).bough? n = s.bough? n := rfl
@[simp] theorem State.grove?_onLaunch (s : State) (k n : Nat) (f : Launch → Launch) : (s.onLaunch k f).grove? n = s.grove? n := rfl
@[simp] theorem State.bough?_later (s : State) (k n : Nat) (i : Instr) : (s.later k i).bough? n = s.bough? n := rfl
@[simp] theorem State.grove?_later (s : State) (k n : Nat) (i : Instr) : (s.later k i).grove? n = s.grove? n := rfl
@[simp] theorem State.bough?_atTime (s : State) (k n : Nat) (i : Instr) : (s.atTime k i).bough? n = s.bough? n := rfl
@[simp] theorem State.grove?_atTime (s : State) (k n : Nat) (i : Instr) : (s.atTime k i).grove? n = s.grove? n := rfl

end Sys2Proof.Machine
end

