-- ==== Sys2Proof/Laws/Context.lean ====
section
/-!
SUPPORT. What a context is a context of, and what a slot operation does with it: the trap it meets, or its effect.
-/
namespace Sys2Proof.Machine

/-- What a context holds. -/
theorem State.ctxOf_some {s : State} {k : Nat} {bd : Bundle} {vx : BitVec 23} {mx : BitVec 16} {x : Bool} {c : Ctx}
    (h : s.ctxOf k bd vx mx x = some c) :
    c.key = k ∧ s.bough? k = some c.b ∧ s.grove? c.b.grove = some c.g ∧ s.launchOf c.g = some c.l ∧ c.t = s.bc ∧ c.cc = s.cc ∧
      c.vx = vx ∧ c.mx = mx ∧ c.hasXimm = x := by
  unfold State.ctxOf at h
  split at h
  · cases h
  · rename_i b hb
    split at h
    · cases h
    · rename_i g hg
      split at h
      · cases h
      · rename_i l hl
        cases h
        exact ⟨rfl, hb, hg, hl, rfl, rfl, rfl, rfl, rfl⟩

/-- The bough of the bundle under way. -/
theorem State.ctx?_bough {s : State} {c : Ctx} (h : s.ctx? = some c) : s.bough? c.key = some c.b := by
  have x := State.ctxOf_some h
  rw [x.1]; exact x.2.1

/-- The grove of the bundle under way. -/
theorem State.ctx?_grove {s : State} {c : Ctx} (h : s.ctx? = some c) : s.grove? c.b.grove = some c.g :=
  (State.ctxOf_some h).2.2.1

/-- The bough cycle of the bundle under way. -/
theorem State.ctx?_t {s : State} {c : Ctx} (h : s.ctx? = some c) : c.t = s.bc := (State.ctxOf_some h).2.2.2.2.1

/-- An operation that issues has its effect. -/
theorem State.guarded_issues {s : State} {c : Ctx} {i : Instr} (h : s.Issues c i) (eff : Ctx → State) :
    s.guarded i eff = .next (eff c) := by
  unfold State.guarded; rw [h.1]; simp [h.2]

/-- An operation that meets a trap takes it instead (R191, R194). -/
theorem State.guarded_traps {s : State} {c : Ctx} {i : Instr} {x : IssueTrap} (h : s.ctx? = some c) (ht : c.issueTrap i = some x)
    (eff : Ctx → State) : s.guarded i eff = .next (s.takeTrap c.key x.cause c.b.pc x.tval x.frec c.t) := by
  unfold State.guarded; rw [h]; simp [ht]

/-- A slot operation always answers a next state. -/
theorem State.guarded_next (s : State) (i : Instr) (eff : Ctx → State) : ∃ t, s.guarded i eff = .next t := by
  unfold State.guarded
  split
  · exact ⟨_, rfl⟩
  · split <;> exact ⟨_, rfl⟩

/-- An operation of the vector slot that issues puts its results in flight. -/
theorem vecExec_issues {s : State} {c : Ctx} {i : Instr} {v : VInfo} {a : VSlot} (h : s.Issues c i) (hv : vinfo i = some (v, a))
    (eff : Ctx → VInfo → VSlot → List Result) : vecExec i eff s = .next (s.issueVec c i (eff c v a)) := by
  unfold vecExec; rw [State.guarded_issues h]; simp [hv]

/-- Results are kept, whatever is inserted among them. -/
theorem mem_insertResult (xs : List Result) (r q : Result) : q ∈ insertResult xs r ↔ q = r ∨ q ∈ xs := by
  induction xs with
  | nil => simp [insertResult]
  | cons x xs ih =>
    unfold insertResult
    split
    · simp
    · simp only [List.mem_cons, ih]
      constructor
      · rintro (h | h | h)
        · exact .inr (.inl h)
        · exact .inl h
        · exact .inr (.inr h)
      · rintro (h | h | h)
        · exact .inr (.inl h)
        · exact .inl h
        · exact .inr (.inr h)

/-- Results put in flight change the results alone. -/
theorem Bough.addResults_eq (b : Bough) (rs : List Result) :
    rs.foldl Bough.addResult b = { b with results := (rs.foldl Bough.addResult b).results } := by
  induction rs generalizing b with
  | nil => rfl
  | cons r rs ih => rw [List.foldl_cons, ih]; rfl

/-- A result put in flight stays in flight. -/
theorem Bough.mem_addResults (b : Bough) (rs : List Result) (q : Result) :
    q ∈ (rs.foldl Bough.addResult b).results ↔ q ∈ rs ∨ q ∈ b.results := by
  induction rs generalizing b with
  | nil => simp
  | cons r rs ih =>
    rw [List.foldl_cons, ih]
    simp only [Bough.addResult, mem_insertResult, List.mem_cons]
    constructor
    · rintro (h | h | h)
      · exact .inl (.inr h)
      · exact .inl (.inl h)
      · exact .inr h
    · rintro ((h | h) | h)
      · exact .inr (.inl h)
      · exact .inl h
      · exact .inr (.inr h)

/-- What an operation of the vector slot leaves of its bough: its results, and those it puts in flight. -/
theorem State.issueVec_bough {s : State} {c : Ctx} (h : s.ctx? = some c) (i : Instr) (rs : List Result) :
    (s.issueVec c i rs).bough? c.key = some (rs.foldl Bough.addResult c.b) := by
  have hb := State.ctx?_bough h
  unfold State.issueVec
  split <;> simp [hb]

/-- Every result put in flight is in flight. -/
theorem State.issueVec_inFlight {s : State} {c : Ctx} (h : s.ctx? = some c) (i : Instr) (rs : List Result) (r : Result) (hr : r ∈ rs) :
    (s.issueVec c i rs).InFlight c.key r :=
  ⟨_, State.issueVec_bough h i rs, (Bough.mem_addResults _ _ _).2 (.inl hr)⟩

/-- An operation of the vector slot changes boughs and groves alone. -/
theorem State.issueVec_same (s : State) (c : Ctx) (i : Instr) (rs : List Result) : s.SameElsewhere (s.issueVec c i rs) := by
  unfold State.issueVec
  split <;> rfl

end Sys2Proof.Machine
end

