-- ==== Sys2Proof/Laws/Memory.lean ====
section
/-!
SUPPORT. Memory: a read after a write, and that every operation on memory keeps its canonical form (`Memory.wf`).
-/
namespace Sys2Proof.Machine

theorem readByte_cons (c : Host.Cell) (m : Memory) (a : Nat) : readByte (c :: m) a = if c.1 = a then c.2 else readByte m a := by
  obtain ⟨b, y⟩ := c
  unfold readByte
  by_cases h : b = a
  · subst h; simp [List.lookup]
  · have : (a == b) = false := by simp; omega
    simp [List.lookup, this, h]

@[simp] theorem readByte_nil (a : Nat) : readByte [] a = 0 := rfl

/-- The canonical form, cell by cell. -/
theorem memory_wf_cons (c : Host.Cell) (m : Memory) :
    Memory.wf (c :: m) = true ↔ c.2 ≠ 0 ∧ (∀ d ∈ m, c.1 < d.1) ∧ Memory.wf m = true := by
  simp only [Memory.wf, List.all_cons, List.pairwise_cons, Bool.and_eq_true, bne_iff_ne, decide_eq_true_eq, ne_eq]
  exact ⟨fun ⟨⟨a, b⟩, c, d⟩ => ⟨a, c, b, d⟩, fun ⟨a, c, b, d⟩ => ⟨⟨a, b⟩, c, d⟩⟩

/-- An address below every listed one reads as unlisted. -/
theorem readByte_below (m : Memory) (a : Nat) (h : ∀ d ∈ m, a < d.1) : readByte m a = 0 := by
  induction m with
  | nil => rfl
  | cons c m ih =>
    rw [readByte_cons, if_neg (by have := h c (by simp); omega)]
    exact ih fun d hd => h d (by simp [hd])

/-- Every cell of a written memory was there or is the one written. -/
theorem mem_writeByte (m : Memory) (a : Nat) (x : Byte) (d : Host.Cell) (h : d ∈ writeByte m a x) : d ∈ m ∨ d.1 = a := by
  induction m with
  | nil =>
    unfold writeByte at h
    split at h <;> simp_all
  | cons c m ih =>
    obtain ⟨b, y⟩ := c
    unfold writeByte at h
    split at h
    · split at h
      · exact .inl h
      · simp only [List.mem_cons] at h ⊢; rcases h with h | h | h
        · right; simp [h]
        · left; left; exact h
        · left; right; exact h
    · split at h
      · split at h
        · left; simp [h]
        · simp only [List.mem_cons] at h ⊢; rcases h with h | h
          · right; simp [h]
          · left; right; exact h
      · simp only [List.mem_cons] at h ⊢; rcases h with h | h
        · left; left; exact h
        · rcases ih h with h | h
          · left; right; exact h
          · right; exact h

/-- A byte written keeps the canonical form. -/
theorem writeByte_wf (m : Memory) (a : Nat) (x : Byte) (h : Memory.wf m = true) : Memory.wf (writeByte m a x) = true := by
  induction m with
  | nil =>
    unfold writeByte; split
    · exact h
    · rename_i hx; exact (memory_wf_cons _ _).2 ⟨hx, by simp, h⟩
  | cons c m ih =>
    obtain ⟨b, y⟩ := c
    have hc := (memory_wf_cons _ _).1 h
    unfold writeByte
    split
    · split
      · exact h
      · rename_i hab hx
        refine (memory_wf_cons _ _).2 ⟨hx, ?_, h⟩
        intro d hd
        simp only [List.mem_cons] at hd
        rcases hd with rfl | hd
        · exact hab
        · exact Nat.lt_trans hab (hc.2.1 d hd)
    · split
      · rename_i _ hab
        split
        · exact hc.2.2
        · rename_i hx
          exact (memory_wf_cons _ _).2 ⟨hx, fun d hd => by subst hab; exact hc.2.1 d hd, hc.2.2⟩
      · rename_i h1 h2
        refine (memory_wf_cons _ _).2 ⟨hc.1, ?_, ih hc.2.2⟩
        intro d hd
        rcases mem_writeByte m a x d hd with hd | hd
        · exact hc.2.1 d hd
        · have : b < a := by omega
          simpa [hd] using this

/-- A byte read after it is written. -/
theorem readByte_writeByte_self (m : Memory) (a : Nat) (x : Byte) (h : Memory.wf m = true) :
    readByte (writeByte m a x) a = x := by
  induction m with
  | nil => unfold writeByte; split <;> simp_all [readByte_cons]
  | cons c m ih =>
    obtain ⟨b, y⟩ := c
    have hc := (memory_wf_cons _ _).1 h
    unfold writeByte
    split
    · rename_i hab
      split
      · rename_i hx
        rw [readByte_below _ _ (fun d hd => ?_), hx]
        simp only [List.mem_cons] at hd
        rcases hd with rfl | hd
        · exact hab
        · exact Nat.lt_trans hab (hc.2.1 d hd)
      · simp [readByte_cons]
    · split
      · rename_i _ hab
        split
        · rename_i hx
          subst hab
          rw [readByte_below _ _ hc.2.1, hx]
        · simp [readByte_cons]
      · rename_i _ hab
        rw [readByte_cons, if_neg (by dsimp; omega), ih hc.2.2]

/-- A write leaves every other byte. -/
theorem readByte_writeByte_other (m : Memory) (a n : Nat) (x : Byte) (h : Memory.wf m = true) (hn : n ≠ a) :
    readByte (writeByte m a x) n = readByte m n := by
  induction m with
  | nil => unfold writeByte; split <;> simp_all [readByte_cons]; omega
  | cons c m ih =>
    obtain ⟨b, y⟩ := c
    have hc := (memory_wf_cons _ _).1 h
    unfold writeByte
    split
    · split
      · rfl
      · rw [readByte_cons, if_neg (by dsimp; omega)]
    · split
      · rename_i _ hab
        have hbn : ¬ b = n := by omega
        split
        · rw [readByte_cons, if_neg hbn]
        · rw [readByte_cons, readByte_cons, if_neg (by dsimp; omega), if_neg hbn]
      · rw [readByte_cons, readByte_cons, ih hc.2.2]

/-- Cells written one after another keep the canonical form. -/
theorem writeCells_wf (m : Memory) (cs : List Host.Cell) (h : Memory.wf m = true) : Memory.wf (writeCells m cs) = true := by
  unfold writeCells
  induction cs generalizing m with
  | nil => exact h
  | cons c cs ih => exact ih _ (writeByte_wf _ _ _ h)

/-- Bytes written from an address up keep the canonical form. -/
theorem writeBytes_wf (m : Memory) (a : Nat) (xs : List Byte) (h : Memory.wf m = true) :
    Memory.wf (writeBytes m a xs) = true := by
  induction xs generalizing m a with
  | nil => exact h
  | cons x xs ih => exact ih _ _ (writeByte_wf _ _ _ h)

/-- A part of a memory keeps the canonical form. -/
theorem memory_filter_wf (m : Memory) (p : Host.Cell → Bool) (h : Memory.wf m = true) : Memory.wf (m.filter p) = true := by
  induction m with
  | nil => exact h
  | cons c m ih =>
    have hc := (memory_wf_cons _ _).1 h
    rw [List.filter_cons]
    split
    · exact (memory_wf_cons _ _).2 ⟨hc.1, fun d hd => hc.2.1 d (List.mem_filter.1 hd).1, ih hc.2.2⟩
    · exact ih hc.2.2

end Sys2Proof.Machine
end

