-- ==== Sys2Proof/Laws/Frames.lean ====
section
/-!
SUPPORT. What the shared operations of the engines can change, once for each: each frame lemma names the fields of the state
that its operation may differ in.
-/
namespace Sys2Proof.Machine

/-! ### Folds -/

/-- A relation that each step of a fold keeps holds from its start to its end. -/
theorem foldl_keeps {α : Type} (K : State → State → Prop) (hr : ∀ s, K s s) (ht : ∀ s t u, K s t → K t u → K s u)
    (f : State → α → State) (hf : ∀ s x, K s (f s x)) (xs : List α) (s : State) : K s (xs.foldl f s) := by
  induction xs generalizing s with
  | nil => exact hr s
  | cons x xs ih => exact ht _ _ _ (hf s x) (ih _)

/-- A fold whose steps change only dies. -/
theorem foldl_dies {α : Type} (f : State → α → State) (hf : ∀ s x, ∃ ds, f s x = { s with dies := ds }) (xs : List α) (s : State) :
    ∃ ds, xs.foldl f s = { s with dies := ds } :=
  foldl_keeps (fun s t => ∃ ds, t = { s with dies := ds }) (fun _ => ⟨_, rfl⟩)
    (fun s t u ⟨_, h1⟩ ⟨b, h2⟩ => ⟨b, by rw [h2, h1]⟩) f hf xs s

/-! ### Memory and views -/

theorem State.touch_frame (s : State) (d asid va : Nat) : ∃ ds, s.touch d asid va = { s with dies := ds } := by
  unfold State.touch
  split
  · exact ⟨_, rfl⟩
  · split
    · exact ⟨_, rfl⟩
    · split <;> exact ⟨_, rfl⟩

theorem State.touchRange_frame (s : State) (d asid va n : Nat) : ∃ ds, s.touchRange d asid va n = { s with dies := ds } :=
  foldl_dies _ (fun _ _ => State.touch_frame _ _ _ _) _ _

/-- Two states that differ in memory, its order, its views and what is on its way alone, with the events that bring it. -/
def State.SameButMemory (s t : State) : Prop :=
  t = { s with mem := t.mem, poison := t.poison, nextOrder := t.nextOrder, dies := t.dies, writes := t.writes, ops := t.ops,
               nextOp := t.nextOp, agenda := t.agenda }

theorem State.SameButMemory.refl (s : State) : s.SameButMemory s := rfl

theorem State.SameButMemory.trans {s t u : State} (h : s.SameButMemory t) (k : t.SameButMemory u) : s.SameButMemory u := by
  unfold State.SameButMemory at *
  rw [k, h]

theorem State.SameButMemory.dies {s t : State} {ds : Table Die} (h : t = { s with dies := ds }) : s.SameButMemory t := by
  subst h; rfl

/-- A fold whose steps change memory alone, with what else it carries. -/
theorem foldl_memory {α β : Type} (f : State × β → α → State × β) (hf : ∀ (p : State × β) (x : α), p.1.SameButMemory (f p x).1) (xs : List α) (p : State × β) :
    p.1.SameButMemory (xs.foldl f p).1 := by
  induction xs generalizing p with
  | nil => exact .refl _
  | cons x xs ih => exact (hf p x).trans (ih _)

theorem foldl_sameButMemory {α : Type} (f : State → α → State) (hf : ∀ (s : State) (x : α), s.SameButMemory (f s x)) (xs : List α) (s : State) :
    s.SameButMemory (xs.foldl f s) :=
  foldl_keeps State.SameButMemory .refl (fun _ _ _ => .trans) f hf xs s

theorem State.retireWrite_memory (s : State) (id : Nat) : s.SameButMemory (s.retireWrite id) := by
  unfold State.retireWrite State.dropRep
  split
  · rfl
  · split
    · dsimp only
      split
      · rfl
      · refine .trans (t := { s with writes := tdel s.writes id }) rfl (foldl_sameButMemory _ (fun _ _ => ?_) _ _)
        rfl
    · rfl

theorem State.noteSwitches_memory (s : State) (d size launch : Nat) (xs : List Switch) : s.SameButMemory (s.noteSwitches d size launch xs) := by
  unfold State.noteSwitches
  dsimp only
  split <;> rfl

theorem State.performSent_memory (s : State) (id : Nat) : s.SameButMemory (s.performSent id) := by
  unfold State.performSent
  split
  · rfl
  · split
    · rfl
    · rename_i w _ _
      dsimp only
      have last : ∀ u : State, u.SameButMemory u.unpoisonStored := fun u => by unfold State.unpoisonStored; split <;> rfl
      refine .trans ?_ (.trans (t := { (State.noteSwitches (State.retireWrite _ id) w.origin w.size (launchOfKey w.bough) _) with ops := _ })
        rfl (last _))
      refine .trans ?_ (.trans (State.retireWrite_memory _ id) (State.noteSwitches_memory _ _ _ _ _))
      refine .trans ?_ (foldl_memory (β := List Switch) _ (fun p c => ?_) w.cells (_, []))
      · rfl
      · split
        · rfl
        · split
          · rfl
          · split <;> rfl

theorem State.applyReplica_memory (s : State) (d id : Nat) : s.SameButMemory (s.applyReplica d id) := by
  unfold State.applyReplica
  split
  · rfl
  · split
    · rfl
    · rename_i w _ _
      dsimp only
      refine .trans ?_ (.trans (State.retireWrite_memory _ id) (State.noteSwitches_memory _ _ _ _ _))
      refine .trans (foldl_memory (β := List Switch) _ (fun p c => ?_) w.cells (s, [])) rfl
      split
      · split <;> rfl
      · rfl

theorem State.setAll_memory (s : State) (cells : List Host.Cell) : s.SameButMemory (s.setAll cells) := by
  unfold State.setAll
  obtain ⟨ds, h⟩ := foldl_dies (fun (t : State) (c : Host.Cell) => (otherDies (paHome c.1)).foldl (fun t d =>
    t.setRep d c.1 { val := c.2, order := s.nextOrder, own := 0, src := paHome c.1 }) t)
    (fun s x => foldl_dies _ (fun _ _ => ⟨_, rfl⟩) _ s) (cells.filter fun c => s.writes.any fun w => (w.2.cells.lookup c.1).isSome)
    (s.homeTakes cells)
  exact .trans (t := s.homeTakes cells) rfl (.dies h)

/-- What a record of an engine that is written at once changes: memory, its order, its views, and what was on its way before it. -/
theorem State.putNow_memory (s : State) (d : Nat) (cells : List Host.Cell) : s.SameButMemory (s.putNow d cells) := by
  unfold State.putNow
  refine .trans (.trans (foldl_sameButMemory _ (fun t o => ?_) _ s) (State.setAll_memory _ cells)) (foldl_sameButMemory _ (fun t o => ?_) _ _)
  · unfold State.pushOut
    exact foldl_sameButMemory _ (fun t w => .trans (State.performSent_memory _ _)
      (foldl_sameButMemory _ (fun t d => State.applyReplica_memory _ _ _) _ _)) _ t
  · obtain ⟨ds, h⟩ := foldl_dies (fun (t : State) (e : Nat) => t.onDie e fun x => { x with clock := clockTick x.clock o })
      (fun _ _ => ⟨_, rfl⟩) (diesBeside o) t
    exact .dies h

/-- What a record of an engine changes, also where it waits for a copy. -/
theorem State.putEverywhere_memory (s : State) (d : Nat) (cells : List Host.Cell) : s.SameButMemory (s.putEverywhere d cells) := by
  unfold State.putEverywhere
  generalize (if s.copies.isEmpty then [] else s.owned) = lines
  dsimp only
  split
  · exact State.putNow_memory _ _ _
  · refine .trans ?_ (foldl_sameButMemory _ (fun t h => ?_) _ _)
    · split
      · rfl
      · exact State.putNow_memory _ _ _
    · rfl

/-- What a write by virtual address changes. -/
theorem State.writeVa_memory {s t : State} {d asid va : Nat} {bytes : List Byte} (h : s.writeVa d asid va bytes = .ok t) :
    s.SameButMemory t := by
  unfold State.writeVa at h
  split at h
  · cases h
  · cases h
    obtain ⟨ds, h1⟩ := s.touchRange_frame d asid va bytes.length
    exact .trans (.dies h1) (State.putEverywhere_memory _ _ _)

/-- What comes of a write by virtual address, performed or not. -/
theorem State.tryWrite_memory (s : State) (d asid va : Nat) (bytes : List Byte) : s.SameButMemory (s.tryWrite d asid va bytes).1 := by
  unfold State.tryWrite
  split
  · rename_i h; exact State.writeVa_memory h
  · obtain ⟨ds, h⟩ := s.touchRange_frame d asid va bytes.length
    exact .dies h

theorem State.storeWord_memory (s : State) (m asid evt word : Nat) : s.SameButMemory (s.storeWord m asid evt word) := by
  unfold State.storeWord
  split
  · rfl
  · exact State.tryWrite_memory _ _ _ _ _

theorem State.editImage_frame (s : State) (g : Grove) (off n : Nat) (f : List Byte → List Byte) :
    ∃ ls, State.SameButMemory { s with launches := ls } (s.editImage g off n f) := by
  unfold State.editImage
  split
  · rename_i l at_ _ _
    split
    · rename_i bytes _
      have h := State.tryWrite_memory s g.saveDie l.asid (at_.toNat + off) (f bytes)
      dsimp only
      split
      · exact ⟨s.launches, h⟩
      · refine ⟨((s.tryWrite g.saveDie l.asid (at_.toNat + off) (f bytes)).1.dropped g.launch).launches, ?_⟩
        generalize (s.tryWrite g.saveDie l.asid (at_.toNat + off) (f bytes)).1 = t at *
        rw [h]; rfl
    · obtain ⟨ds, h⟩ := s.touchRange_frame g.saveDie l.asid (at_.toNat + off) n
      rw [h]
      exact ⟨_, rfl⟩
  · exact ⟨s.launches, rfl⟩

theorem State.breakEnd_frame (s : State) (k n : Nat) :
    ∃ gs ls, State.SameButMemory { s with groves := gs, launches := ls } (s.breakEnd k n) := by
  unfold State.breakEnd
  split
  · exact ⟨s.groves, s.launches, rfl⟩
  · split
    · obtain ⟨ls, h⟩ := State.editImage_frame s _ (imageEndpoint n) 1 fun b => bytesOfNat 1 (natOfBytes b ||| 4)
      exact ⟨s.groves, ls, h⟩
    · exact ⟨(s.onGrove k fun g => g.onChan n fun e => { e with broken := true }).groves, s.launches, rfl⟩

/-! ### Events to the host -/

theorem Module.post_frame (m : Module) (src : Nat) (r : BitVec 512) : ∃ h w p x l q, m.post src r =
    { m with hostMem := h, eqWr := w, eqPhase := p, msix := x, eqLost := l, waiting := q } := by
  unfold Module.post
  split
  · exact ⟨_, _, _, _, _, _, rfl⟩
  · split
    · exact ⟨_, _, _, _, _, _, rfl⟩
    · exact ⟨_, _, _, _, _, _, rfl⟩

/-- A posted event changes the event ring of its module and nothing else. -/
theorem module_post (s : State) (m p src : Nat) (r : BitVec 512) : ∃ h w a x l q, (s.onModule m fun y => y.post src r).module p =
    { s.module p with hostMem := h, eqWr := w, eqPhase := a, msix := x, eqLost := l, waiting := q } := by
  by_cases hp : p = m
  · subst hp
    rw [State.module_onModule_self]
    exact Module.post_frame _ _ _
  · rw [State.module_onModule_other _ _ _ _ hp]
    exact ⟨_, _, _, _, _, _, rfl⟩

/-! ### The agenda -/

/-- Events of open time are added to those that stand there. -/
theorem State.laterAll_frame (s : State) (cc : Nat) (is : List Instr) : ∃ a f, s.laterAll cc is = { s with agenda := a, free := f } :=
  foldl_keeps (fun s t => ∃ a f, t = { s with agenda := a, free := f }) (fun _ => ⟨_, _, rfl⟩)
    (fun _ _ _ ⟨_, _, h1⟩ ⟨a, f, h2⟩ => ⟨a, f, by rw [h2, h1]⟩) _ (fun _ _ => ⟨_, _, rfl⟩) _ _

theorem State.mem_laterAll (s : State) (cc : Nat) (is : List Instr) (e : Nat × Instr) (h : e ∈ s.agenda) : e ∈ (s.laterAll cc is).agenda := by
  induction is generalizing s with
  | nil => exact h
  | cons i is ih => exact ih _ (by simp [State.later, h])

theorem State.expects_later (s : State) (cc : Nat) (i : Instr) : (s.later cc i).Expects cc i :=
  ⟨cc + Config.delay s.free, by omega, by simp [State.later]⟩

theorem State.expects_laterAll (s : State) (cc : Nat) (is : List Instr) (i : Instr) (h : i ∈ is) : (s.laterAll cc is).Expects cc i := by
  induction is generalizing s with
  | nil => cases h
  | cons j is ih =>
    rcases List.mem_cons.1 h with rfl | h
    · obtain ⟨n, hn, hm⟩ := s.expects_later cc i
      exact ⟨n, hn, State.mem_laterAll (s.later cc i) cc is _ hm⟩
    · exact ih _ h

end Sys2Proof.Machine
end

