-- ==== Sys2Proof/Laws/Vector.lean ====
section
/-!
SUPPORT. The operations of the vector slot: what one that applies a function lane by lane puts in flight, and what one that
writes a predicate does.
-/
namespace Sys2Proof.Machine

theorem vector_get_ofFn {α : Type} {n : Nat} (f : Fin n → α) (l : Fin n) : (Vector.ofFn f).get l = f l := by
  show (Vector.ofFn f)[l.val] = f l
  simp

theorem vector_get_map {α β : Type} {n : Nat} (v : Vector α n) (f : α → β) (l : Fin n) : (v.map f).get l = f (v.get l) := by
  show (v.map f)[l.val] = f v[l.val]
  simp

/-- No flags joined are no flags. -/
theorem orFlags_zero (xs : List Flags) (h : ∀ x ∈ xs, x = 0) : orFlags xs = 0 := by
  unfold orFlags
  induction xs with
  | nil => rfl
  | cons x xs ih =>
    rw [List.foldl_cons, h x (by simp)]
    exact ih fun y hy => h y (by simp [hy])

/-- What a lane function gives in the lanes in which an operation acts. -/
theorem Ctx.byLane_eq (c : Ctx) (i : Instr) (v : VInfo) (a : VSlot) (f : LaneFn) (hu : a.u = false) :
    ∃ rs : Vector (DWord × Flags) 64,
      (∀ l : Fin 64, (c.actLanes a.pr).getLsbD l.val = true →
        rs.get l = f ((c.srcA i v a).get l) ((c.srcB i a).get l) ((c.srcC i a).get l)) ∧
      (∀ l : Fin 64, (c.actLanes a.pr).getLsbD l.val = false → rs.get l = (0, 0)) ∧
      c.byLane i v a f = c.laneResults i v a (rs.map (·.1)) (orFlags (rs.toList.map (·.2))) := by
  refine ⟨Vector.ofFn fun l =>
    if (c.actLanes a.pr).getLsbD l then f ((c.srcA i v a).get l) ((c.srcB i a).get l) ((c.srcC i a).get l) else (0, 0), ?_, ?_, ?_⟩
  · intro l hl; rw [vector_get_ofFn, if_pos hl]
  · intro l hl; rw [vector_get_ofFn, if_neg (by rw [Bool.not_eq_true]; exact hl)]
  · unfold Ctx.byLane; rw [hu]; rfl

/-- The first result of a lane operation. -/
theorem Ctx.mem_laneResults (c : Ctx) (i : Instr) (v : VInfo) (a : VSlot) (vals : LaneVals) (fl : Flags) :
    { laneResult c.b v.path (destOf a.dst) (c.actLanes a.pr) (lowWords vals) (c.t + c.latency i v a) fl with cc := 4 * c.t + c.b.phase.getD 0 } ∈
      c.laneResults i v a vals fl := by
  unfold Ctx.laneResults
  exact List.mem_cons_self

/-- The second, for a pair. -/
theorem Ctx.mem_laneResults_pair (c : Ctx) (i : Instr) (v : VInfo) (a : VSlot) (vals : LaneVals) (fl : Flags)
    (h : a.ty = .d ∨ v.dst = .pair) :
    laneResult c.b .none (nextDest (destOf a.dst)) (c.actLanes a.pr) (highWords vals) (c.t + c.latency i v a) 0 ∈
      c.laneResults i v a vals fl := by
  have hc : (decide (a.ty = Ty.d) || v.dst == VDst.pair) = true := by rcases h with h | h <;> simp [h]
  simp only [Ctx.laneResults, hc, if_true]
  exact List.mem_cons_of_mem _ List.mem_cons_self

/-- An operation whose results are lanes leaves them in flight. -/
theorem State.laneResult_of {s : State} {c : Ctx} {i : Instr} {v : VInfo} {a : VSlot} (h : s.Issues c i) (vals : LaneVals)
    (fl : Flags) (he : exec i s = .next (s.issueVec c i (c.laneResults i v a vals fl))) (f : Fin 64 → Word)
    (hf : ∀ l : Fin 64, (c.actLanes a.pr).getLsbD l.val = true → (vals.get l).setWidth 32 = f l) : s.LaneResult c i a fl f := by
  refine ⟨_, { laneResult c.b v.path (destOf a.dst) (c.actLanes a.pr) (lowWords vals) (c.t + c.latency i v a) fl with cc := 4 * c.t + c.b.phase.getD 0 }, he,
    State.issueVec_inFlight h.1 i _ _ (Ctx.mem_laneResults ..), rfl, rfl, rfl, ?_⟩
  intro l hl
  show (lowWords vals).get l = f l
  unfold lowWords
  rw [vector_get_map]
  exact hf l hl

/-- The same for a pair. -/
theorem State.pairResult_of {s : State} {c : Ctx} {i : Instr} {v : VInfo} {a : VSlot} (h : s.Issues c i) (vals : LaneVals)
    (he : exec i s = .next (s.issueVec c i (c.laneResults i v a vals 0))) (hp : a.ty = .d ∨ v.dst = .pair) (f : Fin 64 → DWord)
    (hf : ∀ l : Fin 64, (c.actLanes a.pr).getLsbD l.val = true → vals.get l = f l) : s.PairResult c i a f := by
  refine ⟨_, { laneResult c.b v.path (destOf a.dst) (c.actLanes a.pr) (lowWords vals) (c.t + c.latency i v a) 0 with cc := 4 * c.t + c.b.phase.getD 0 },
    laneResult c.b .none (nextDest (destOf a.dst)) (c.actLanes a.pr) (highWords vals) (c.t + c.latency i v a) 0, he,
    State.issueVec_inFlight h.1 i _ _ (Ctx.mem_laneResults ..), State.issueVec_inFlight h.1 i _ _ (Ctx.mem_laneResults_pair _ _ _ _ _ _ hp),
    rfl, rfl, rfl, rfl, rfl, rfl, ?_⟩
  intro l hl
  have hl := hf l hl
  constructor
  · show (lowWords vals).get l = _
    unfold lowWords
    rw [vector_get_map, hl]
  · show (highWords vals).get l = _
    unfold highWords
    rw [vector_get_map, hl]

/-- An operation that applies a function without flags lane by lane (R105). -/
theorem State.laneResult_byLane {s : State} {c : Ctx} {i : Instr} {v : VInfo} {a : VSlot} (h : s.Issues c i)
    (hv : vinfo i = some (v, a)) (hu : a.u = false) (fn : Ctx → VSlot → LaneFn) (he : exec i s = laneExec i fn s)
    (h0 : ∀ x y z, (fn c a x y z).2 = 0) (f : Fin 64 → Word)
    (hf : ∀ l : Fin 64, (c.actLanes a.pr).getLsbD l.val = true →
      ((fn c a (c.val1 i l) (c.val2 i l) (c.val3 i l)).1).setWidth 32 = f l) : s.LaneResult c i a 0 f := by
  rw [laneExec, vecExec_issues h hv] at he
  obtain ⟨rs, h1, h2, h3⟩ := Ctx.byLane_eq c i v a (fn c a) hu
  rw [h3] at he
  have hz : orFlags (rs.toList.map (·.2)) = 0 := by
    apply orFlags_zero
    intro x hx
    simp only [List.mem_map, Vector.mem_toList_iff] at hx
    obtain ⟨p, hp, rfl⟩ := hx
    obtain ⟨n, hn, rfl⟩ := Vector.mem_iff_getElem.1 hp
    by_cases hl : (c.actLanes a.pr).getLsbD n = true
    · have := h1 ⟨n, hn⟩ hl
      have e : rs[n] = rs.get ⟨n, hn⟩ := rfl
      rw [e, this]; exact h0 _ _ _
    · have := h2 ⟨n, hn⟩ (by simpa using hl)
      have e : rs[n] = rs.get ⟨n, hn⟩ := rfl
      rw [e, this]
  rw [hz] at he
  refine State.laneResult_of h _ 0 he f fun l hl => ?_
  rw [vector_get_map, h1 l hl]
  simpa only [Ctx.val1, Ctx.val2, Ctx.val3, hv] using hf l hl

/-- The same for a pair. -/
theorem State.pairResult_byLane {s : State} {c : Ctx} {i : Instr} {v : VInfo} {a : VSlot} (h : s.Issues c i)
    (hv : vinfo i = some (v, a)) (hu : a.u = false) (fn : Ctx → VSlot → LaneFn) (he : exec i s = laneExec i fn s)
    (h0 : ∀ x y z, (fn c a x y z).2 = 0) (hp : a.ty = .d ∨ v.dst = .pair) (f : Fin 64 → DWord)
    (hf : ∀ l : Fin 64, (c.actLanes a.pr).getLsbD l.val = true → (fn c a (c.val1 i l) (c.val2 i l) (c.val3 i l)).1 = f l) :
    s.PairResult c i a f := by
  rw [laneExec, vecExec_issues h hv] at he
  obtain ⟨rs, h1, h2, h3⟩ := Ctx.byLane_eq c i v a (fn c a) hu
  rw [h3] at he
  have hz : orFlags (rs.toList.map (·.2)) = 0 := by
    apply orFlags_zero
    intro x hx
    simp only [List.mem_map, Vector.mem_toList_iff] at hx
    obtain ⟨p, hp, rfl⟩ := hx
    obtain ⟨n, hn, rfl⟩ := Vector.mem_iff_getElem.1 hp
    by_cases hl : (c.actLanes a.pr).getLsbD n = true
    · have := h1 ⟨n, hn⟩ hl
      have e : rs[n] = rs.get ⟨n, hn⟩ := rfl
      rw [e, this]; exact h0 _ _ _
    · have := h2 ⟨n, hn⟩ (by simpa using hl)
      have e : rs[n] = rs.get ⟨n, hn⟩ := rfl
      rw [e, this]
  rw [hz] at he
  refine State.pairResult_of h _ he hp f fun l hl => ?_
  rw [vector_get_map, h1 l hl]
  simpa only [Ctx.val1, Ctx.val2, Ctx.val3, hv] using hf l hl

/-- A uniform form that applies a function without flags. -/
theorem State.uniResult_byLane {s : State} {c : Ctx} {i : Instr} {v : VInfo} {a : VSlot} {n : Nat} (h : s.Issues c i)
    (hv : vinfo i = some (v, a)) (hu : a.u = true) (hp : uniformActs a.pr = true) (hd : classOf a.dst = .scalar n) (fn : Ctx → VSlot → LaneFn)
    (he : exec i s = laneExec i fn s) (h0 : ∀ x y z, (fn c a x y z).2 = 0) (hs : v.dst ≠ .pair)
    (hc : ∀ f, srcTy i a f = a.ty) (x : DWord)
    (hx : ∀ z, extendUni a.ty (fn c a (c.readUni a.ty a.imm9 a.sa) (c.readUni a.ty a.imm9 a.sb) z).1 = x) : s.UniResult c i n x := by
  rw [laneExec, vecExec_issues h hv] at he
  have hb : (v.dst == VDst.pair) = false := by simpa using hs
  simp only [Ctx.byLane, hu, if_true, Ctx.uniResults, hp, hd, hc, h0, hb, hx] at he
  refine ⟨_, _, he, State.issueVec_inFlight h.1 i _ _ List.mem_cons_self, rfl, ?_, rfl⟩
  simp [scalarResult]

/-- The low word of a masked value. -/
theorem laneMask_setWidth (ty : Ty) (x : DWord) : (laneMask ty x).setWidth 32 = x.setWidth 32 := by
  unfold laneMask
  split
  · rfl
  · apply BitVec.eq_of_toNat_eq
    rw [BitVec.toNat_setWidth, BitVec.toNat_setWidth, BitVec.toNat_and, show (0xFFFFFFFF#64).toNat = 2 ^ 32 - 1 from rfl, Nat.and_two_pow_sub_one_eq_mod,
      Nat.mod_mod]

/-- A mask from a test of lanes holds the test's answers. -/
theorem maskOf_getLsbD (f : Nat → Bool) (l : Nat) (h : l < 64) : (maskOf f).getLsbD l = f l := by
  have sum_range : ∀ (g : Nat → Bool) (m : Nat),
      ((List.range m).filter g).foldl (fun n l => n + 2 ^ l) 0 < 2 ^ m ∧
        ∀ j, j < m → (((List.range m).filter g).foldl (fun n l => n + 2 ^ l) 0).testBit j = g j := by
    intro g m
    induction m with
    | zero => simp
    | succ m ih =>
      rw [List.range_succ, List.filter_append, List.foldl_append]
      obtain ⟨ih1, ih2⟩ := ih
      have hp : 2 ^ (m + 1) = 2 ^ m + 2 ^ m := by rw [Nat.pow_succ]; omega
      by_cases hm : g m = true
      · simp only [List.filter_cons, hm, List.filter_nil, if_true, List.foldl_cons, List.foldl_nil]
        refine ⟨by omega, ?_⟩
        intro j hj
        rw [Nat.add_comm]
        by_cases hjm : j = m
        · subst hjm
          rw [Nat.testBit_two_pow_add_eq, Nat.testBit_lt_two_pow ih1, hm]; rfl
        · rw [Nat.testBit_two_pow_add_gt (by omega)]
          exact ih2 j (by omega)
      · simp only [List.filter_cons, hm, List.filter_nil]
        rw [if_neg (by simp), List.foldl_nil]
        refine ⟨by rw [hp]; exact Nat.lt_of_lt_of_le ih1 (by omega), ?_⟩
        intro j hj
        by_cases hjm : j = m
        · subst hjm
          simp only [Bool.not_eq_true] at hm
          rw [hm]; exact Nat.testBit_lt_two_pow ih1
        · exact ih2 j (by omega)
  unfold maskOf
  rw [BitVec.getLsbD_ofNat]
  simp [h, (sum_range f 64).2 l h]

/-- An operation whose first result is a predicate's leaves it in flight. -/
theorem State.predResult_of {s : State} {c : Ctx} {i : Instr} {v : VInfo} {a : VSlot} (h : s.Issues c i) (rs : List Result) (n : Nat)
    (path : Path) (m : Mask) (fl : Flags) (he : exec i s = .next (s.issueVec c i rs)) (hm : c.predResult i v a n path m fl ∈ rs)
    (f : Fin 64 → Bool) (hf : ∀ l : Fin 64, m.getLsbD l.val = f l) : s.PredResult c i a n f := by
  refine ⟨_, c.predResult i v a n path m fl, he, State.issueVec_inFlight h.1 i _ _ hm, rfl, rfl, ?_⟩
  intro l _
  show ((maskWords m).get l).getLsbD 0 = f l
  unfold maskWords
  rw [vector_get_ofFn, hf l]
  cases f l <;> rfl

end Sys2Proof.Machine
end

