-- ==== Sys2Proof/Tests/Slice0.lean ====
section
/-!
SUPPORT. Tests of our own: ill-formed terms that the check refuses, words written out from the spec's encodings, small steps whose
results the spec gives, and for each statement with hypotheses a state and operands that meet them.
-/
namespace Sys2Proof.Tests
open Sys2Proof.Machine
set_option Elab.async false

/-! ### Slots to build with -/

/-- A vector slot: lanes of TY from v1, v2 and v4 to v6, in every lane. -/
def vs (ty : Ty) : VSlot :=
  { ty := ty, u := false, dst := 6, sa := 2, sb := 4, sc := 8, pr := 0, rm := .rne, sat := false, xlm := .none, xlk := 0, imm9 := 0 }
/-- A memory slot: size SZ at s2 + v4, v6 its register. -/
def ms (sz : Sz) : MSlot := { sz := sz, q := false, dt := 6, ad := 4, sb := 2, pr := 0, sub := 0, kf := 3, imm18 := 0 }
/-- A copy form. -/
def cs : CSlot := { src := 2, dstb := 4, shp := 6, kf := 3, inc := 1, loc := 0, tag := 0, fsEn := false, fsSlot := 0, low := 0 }
/-- A matrix form on tile 0. -/
def xs : XSlot := { t := 0, fsa := 0, fsb := 0, fsc := 0, ba := 2, bb := 4, ix := 0, kf := 3, inc := 1, tag := 0, mod := 0 }
/-- A control slot. -/
def ks (x y : BitVec 5) (a b : BitVec 16) : KSlot := { x := x, y := y, a := a, b := b }

/-- The system about to present the bundle of an operation alone, with a change to its bough. -/
def poised (i : Instr) (f : Bough → Bough := id) : State :=
  (State.reset.load (bytesOfNat 32 (encode i).toNat)).onBough (boughKey (groveKey 1 0) 0) f
/-- The same with the bundle under way. -/
def started (i : Instr) (f : Bough → Bough := id) : State :=
  (poised i f).begin (boughKey (groveKey 1 0) 0) (decodeBundle (encode i))
/-- The operation issues there. -/
def issues (i : Instr) (f : Bough → Bough := id) : Bool := (started i f).issuesTest i

theorem issues_witness {i : Instr} {f : Bough → Bough} (h : issues i f = true) : ∃ (s : State) (c : Ctx), s.Issues c i := by
  unfold issues State.issuesTest at h
  split at h
  · rename_i c hc
    exact ⟨_, c, hc, by simpa using h⟩
  · cases h

/-! ### Ill-formed terms -/

theorem test_ill_formed_fences : (Instr.fenceAcq (ms .h)).wf = false ∧ (Instr.fenceRel (ms .w)).wf = false ∧
    (Instr.fenceFull (ms .b)).wf = false := by decide
theorem test_ill_formed_mtr : (Instr.mtr { xs with mod := 0x80 }).wf = false ∧ (Instr.mtrSp xs).wf = false := by decide
theorem test_ill_formed_dies : (Instr.phaseGrant (64 * 24) 0).wf = false ∧ (Instr.compatAccept 24).wf = false ∧
    (Instr.replicaApply 31 1).wf = false ∧ (Instr.pubFrameApply 24).wf = false ∧ (Instr.barFrameApply 24).wf = false ∧
    (Instr.rekeyFrameApply 24).wf = false := by decide
theorem test_ill_formed_phase : (Instr.phaseGrant 0 4).wf = false := by decide
theorem test_ill_formed_lane : (Instr.homeAccess 1 65536 false).wf = false := by decide
theorem test_ill_formed_queue : (Instr.predecessorRecheck 0 64).wf = false := by decide
theorem test_ill_formed_group : (Instr.lossOfLight 0 4).wf = false ∧ (Instr.lightBack 0 4).wf = false := by decide
theorem test_ill_formed_window : (Instr.windowRead 0 127 2).wf = false ∧ (Instr.windowWrite 0 0 []).wf = false := by decide

/-! ### Statements about encodings -/

theorem test_witness_decode_encode : (Instr.add (vs .i32)).isSlotOp = true ∧ (Instr.add (vs .i32)).wf = true ∧
    (Instr.fenceRel (ms .h)).isSlotOp = true ∧ (Instr.fenceRel (ms .h)).wf = true := by decide
theorem test_witness_bundle : (vecOp (.add (vs .i32))).isSome = true ∧ (memOp (.lds (ms .w))).isSome = true ∧ (Instr.lds (ms .w)).wf = true ∧
    (copyOp (.cpy cs)).isSome = true ∧ (matrixOp (.mma xs)).isSome = true ∧ (Instr.mma xs).wf = true ∧
    (ctlOp (.br (ks 0 0 1 0))).isSome = true := by decide
theorem test_witness_slots : decodeVec (encodeVec (.add (vs .i32))) = .ok (.add (vs .i32)) ∧
    decodeMem (encodeMem (.lds (ms .w))) = .ok (.lds (ms .w)) ∧ decodeEng (encodeEng (.mma xs)) = .ok (.mma xs) ∧
    decodeCtl (encodeCtl (.br (ks 0 0 1 0))) = .ok (.br (ks 0 0 1 0)) := by decide +kernel

/-! ### Words written out from the spec

The words of the spec's own worked examples, in its own hexadecimal digits. -/

/-- 02_bundles.md, "Encoding a bundle": the 32 bytes in memory and the bundle they are. -/
theorem test_word_bundle : decodeBundle (BitVec.ofNat 256 (natOfBytes (List.replicate 14 0 ++ [0x40, 0x00, 0x00, 0x80, 0x18, 0xC0, 0x80, 0x02,
    0x00, 0x00, 0x04, 0xA2, 0x04, 0x08, 0x08, 0x90, 0x21, 0x20]))) =
  { d := false, gap := 2, form := 0, rsv := 0, imm64 := 0,
    vec := .ok (.fma { vs .f32 with dst := 4, sa := 8, sb := 9, sc := 0x88, pr := 1 }),
    mem := .ok (.lds { ms .w with dt := 12, ad := 3, sb := 2, kf := 0, imm18 := 64 }), eng := .ok .enop, ctl := .ok .nop } := by decide +kernel
/-- 07_vector_engine.md and 08_function_unit.md, 16_loading.md: vector slots. -/
theorem test_words_vector :
    decodeVec 0x00_800C_0702_0000_0000#72 = .ok (.add { vs .i32 with dst := 6, sa := 7, sb := 4, sc := 0 }) ∧
    decodeVec 0x50_9014_0400_0000_0101#72 = .ok (.xswp { vs .f32 with dst := 10, sa := 4, sb := 0, sc := 0, imm9 := 0x101 }) ∧
    decodeVec 0x21_9004_0C0A_A200_0000#72 = .ok (.fma { vs .f32 with dst := 2, sa := 12, sb := 21, sc := 0x88 }) ∧
    decodeVec 0x80_0812_084A_0000_0000#72 = .ok (.mulhi { vs .u32 with dst := 9, sa := 8, sb := 0x94, sc := 0 }) ∧
    decodeVec 0x85_9020_1400_0000_0000#72 = .ok (.sincos { vs .f32 with dst := 16, sa := 20, sb := 0, sc := 0 }) ∧
    decodeVec 0x86_9050_0C00_0000_0003#72 = .ok (.qnt { vs .f32 with dst := 40, sa := 12, sb := 0, sc := 0, imm9 := 3 }) ∧
    decodeVec 0x0D_880A_0000_0000_0056#72 = .ok (.li { vs .u32 with dst := 5, sa := 0, sb := 0, sc := 0, imm9 := 0x56 }) := by
  decide +kernel
/-- 06_memory_engine.md and 13_beacon.md: memory slots. -/
theorem test_words_memory :
    decodeMem 0x2280_6011_0014_0008#64 = .ok (.atomg { ms .w with dt := 6, ad := 2, sb := 4, kf := 5, imm18 := 8 }) ∧
    decodeMem 0x2480_6011_0094_0000#64 = .ok (.red { ms .w with dt := 6, ad := 2, sb := 4, sub := 1, kf := 5 }) ∧
    decodeMem 0x3040_0000_010C_0000#64 = .ok (.fenceRel { ms .h with dt := 0, ad := 0, sb := 0, sub := 2, kf := 3 }) ∧
    decodeMem 0x32C9_7000_C098_0005#64 = .ok (.bpub { ms .d with dt := 0x97, ad := 0, sb := 3, sub := 1, kf := 6, imm18 := 5 }) := by
  decide +kernel
/-- 09_copy_engine.md and 10_matrix_engine.md: engine slots. -/
theorem test_words_engine :
    decodeEng 0x0263_A862_0210_0000#64 = .ok (.cpy { cs with src := 6, dstb := 7, shp := 10, kf := 3, inc := 4, tag := 0x21 }) ∧
    decodeEng 0x8214_1090_1841_00C0#64 =
      .ok (.mmag { t := 0, fsa := 1, fsb := 2, fsc := 0, ba := 8, bb := 9, ix := 3, kf := 1, inc := 1, tag := 0, mod := 0xC0 }) ∧
    decodeEng 0x8C00_1600_1841_0080#64 =
      .ok (.mtrSp { t := 0, fsa := 0, fsb := 0, fsc := 0, ba := 11, bb := 0, ix := 3, kf := 1, inc := 1, tag := 0, mod := 0x80 }) ∧
    decodeEng 0x8939_4C70_0182_0099#64 =
      .ok (.mmap { t := 2, fsa := 3, fsb := 4, fsc := 5, ba := 6, bb := 7, ix := 0, kf := 6, inc := 2, tag := 0, mod := 0x99 }) := by
  decide +kernel
/-- 05_sequencer.md, 13_beacon.md and 16_loading.md: control slots. -/
theorem test_words_control :
    decodeCtl 0x0840_0005_0000#48 = .ok (.brc (ks 2 0 5 0)) ∧ decodeCtl 0x2080_0003_0000#48 = .ok (.loop (ks 4 0 3 0)) ∧
    decodeCtl 0x0400_FFFC_0000#48 = .ok (.br (ks 0 0 0xFFFC 0)) ∧ decodeCtl 0x7C60_0007_0101#48 = .ok (.bbar (ks 3 0 7 257)) ∧
    decodeCtl 0x6800_091A_0000#48 = .ok (.ximm (ks 0 0 0x091A 0)) := by
  decide +kernel

/-- Every OP code of Table 2.10 and Table 16.5, with each field of Table 2.2 at a value of its own. -/
def everyField : VSlot :=
  { ty := .b4, u := true, dst := 0x155, sa := 0x0AB, sb := 0x137, sc := 0x0C9, pr := 0xD, rm := .rup, sat := true, xlm := .sxor, xlk := 3, imm9 := 0x11D }
def vecWord (op : Nat) : BitVec 72 := BitVec.ofNat 72 (op * 2 ^ 63 + 7 * 2 ^ 59 + 2 ^ 58 + 0x155 * 2 ^ 49 + 0x0AB * 2 ^ 40 + 0x137 * 2 ^ 31 +
  0x0C9 * 2 ^ 22 + 0xD * 2 ^ 18 + 3 * 2 ^ 16 + 2 ^ 15 + 5 * 2 ^ 12 + 3 * 2 ^ 9 + 0x11D)
theorem test_codes_vector_integer : [(0x001, Instr.add), (0x002, .sub), (0x003, .addx), (0x004, .mul), (0x005, .mad), (0x006, .min), (0x007, .max),
    (0x008, .abs), (0x009, .neg), (0x00A, .absd), (0x00B, .avg), (0x00C, .dot4), (0x00D, .and), (0x00E, .or), (0x00F, .xor), (0x010, .andn),
    (0x011, .not), (0x012, .shl), (0x013, .shr), (0x014, .sar), (0x015, .rol), (0x016, .popc), (0x017, .clz), (0x018, .brev), (0x019, .bfe),
    (0x01A, .bfi), (0x01B, .li), (0x01C, .sad), (0x01D, .mulq), (0x01E, .fexp), (0x01F, .crc)].all
      (fun x => decide (decodeVec (vecWord x.1) = .ok (x.2 everyField))) = true := by decide +kernel
theorem test_codes_vector_float : [(0x040, Instr.fadd), (0x041, .fsub), (0x042, .fmul), (0x043, .fma), (0x044, .fms), (0x045, .fnma), (0x046, .fmin),
    (0x047, .fmax), (0x048, .fabs), (0x049, .fneg), (0x04A, .frnd), (0x04B, .fclass), (0x04C, .fscl), (0x04D, .fdot2)].all
      (fun x => decide (decodeVec (vecWord x.1) = .ok (x.2 everyField))) = true := by decide +kernel
theorem test_codes_vector_others : [(0x080, Instr.cmp), (0x081, .fcmp), (0x082, .sel), (0x083, .pand), (0x084, .por), (0x085, .pxor), (0x086, .pnot),
    (0x087, .pmov), (0x088, .ballot), (0x089, .pcnt), (0x0A0, .xshf), (0x0A1, .xswp), (0x0A2, .xrot), (0x0A3, .xbc), (0x0A4, .xred), (0x0A5, .xscan),
    (0x0A6, .xcmpk), (0x0A7, .xseg), (0x0C0, .mov), (0x0C1, .extr), (0x0C2, .ins), (0x0C3, .cvt), (0x0C4, .pack), (0x0C5, .unpk), (0x0C6, .kget)].all
      (fun x => decide (decodeVec (vecWord x.1) = .ok (x.2 everyField))) = true := by decide +kernel
theorem test_codes_function_unit : [(0x100, Instr.mulhi), (0x101, .mulw), (0x102, .div), (0x103, .rem), (0x104, .rcp), (0x105, .rsq), (0x106, .sqrt),
    (0x107, .exp2), (0x108, .log2), (0x109, .sin), (0x10A, .cos), (0x10B, .sincos), (0x10C, .ppev), (0x10D, .qnt), (0x10E, .dqt), (0x10F, .rng)].all
      (fun x => decide (decodeVec (vecWord x.1) = .ok (x.2 everyField))) = true := by decide +kernel
/-- Every OP code of Table 2.11, with each field of Table 2.4 at a value of its own. -/
theorem test_codes_memory : [(0x01, Instr.lds), (0x02, .sts), (0x03, .ldsu), (0x04, .ldr), (0x05, .ldg), (0x06, .stg), (0x07, .ldgu), (0x08, .lda),
    (0x09, .sta), (0x10, .atoms), (0x11, .atomg), (0x12, .red), (0x13, .settle), (0x19, .bpub), (0x1A, .bld), (0x1B, .bseq), (0x1C, .pref),
    (0x1D, .l1inv), (0x1E, .ppld), (0x1F, .ppsv)].all (fun x => decide (decodeMem (BitVec.ofNat 64 (x.1 * 2 ^ 57 + 6 * 2 ^ 54 + 2 ^ 53 +
      0x155 * 2 ^ 44 + 0x0AB * 2 ^ 35 + 0x15 * 2 ^ 30 + 0xD * 2 ^ 26 + 5 * 2 ^ 23 + 0x13 * 2 ^ 18 + 0x2A5F1)) =
        .ok (x.2 { sz := .sh, q := true, dt := 0x155, ad := 0x0AB, sb := 0x15, pr := 0xD, sub := 5, kf := 0x13, imm18 := 0x2A5F1 }))) = true := by
  decide +kernel
/-- The three kinds of fence (Table 6.5). -/
theorem test_codes_fence : [(0, Instr.fenceAcq, Sz.b), (1, .fenceRel, .h), (2, .fenceFull, .w)].all (fun x => decide (decodeMem (BitVec.ofNat 64
    (0x18 * 2 ^ 57 + x.1 * 2 ^ 54 + 4 * 2 ^ 23 + 9 * 2 ^ 18)) =
      .ok (x.2.1 { sz := x.2.2, q := false, dt := 0, ad := 0, sb := 0, pr := 0, sub := 4, kf := 9, imm18 := 0 }))) = true := by decide +kernel
def everyCopyField : CSlot :=
  { src := 0x11, dstb := 0x0D, shp := 0x16, kf := 0x1B, inc := 0x2D, loc := 3, tag := 0xA7, fsEn := true, fsSlot := 6, low := 0x8421 }
def everyMatrixField : XSlot :=
  { t := 2, fsa := 5, fsb := 3, fsc := 6, ba := 0x0D, bb := 0x16, ix := 0x0AB, kf := 0x1B, inc := 0x2D, tag := 0xA7, mod := 0x5C }
/-- Every OP code of Table 2.12 with E = 0, with each field of Table 2.5 at a value of its own. -/
theorem test_codes_copy : [(0x01, Instr.cpy), (0x02, .cpyr), (0x03, .cpym), (0x04, .cpyg), (0x05, .cpys), (0x06, .cpyf), (0x07, .cpyc), (0x08, .cpyx),
    (0x09, .tstamp)].all (fun x => decide (decodeEng (BitVec.ofNat 64 (x.1 * 2 ^ 57 + 0x11 * 2 ^ 52 + 0x0D * 2 ^ 47 + 0x16 * 2 ^ 42 + 0x1B * 2 ^ 37 +
      0x2D * 2 ^ 31 + 3 * 2 ^ 28 + 0xA7 * 2 ^ 20 + 2 ^ 19 + 6 * 2 ^ 16 + 0x8421)) = .ok (x.2 everyCopyField))) = true := by decide +kernel
/-- Every OP code of Table 2.12 with E = 1, with each field of Table 2.6 at a value of its own. -/
theorem test_codes_matrix : [(0x00, Instr.mma), (0x01, .mmag), (0x02, .mmas), (0x03, .mmags), (0x04, .mmap), (0x05, .mzero), (0x06, .mtr),
    (0x07, .mscl)].all (fun x => decide (decodeEng (BitVec.ofNat 64 (2 ^ 63 + x.1 * 2 ^ 57 + 2 * 2 ^ 55 + 5 * 2 ^ 52 + 3 * 2 ^ 49 + 6 * 2 ^ 46 +
      0x0D * 2 ^ 41 + 0x16 * 2 ^ 36 + 0x0AB * 2 ^ 27 + 0x1B * 2 ^ 22 + 0x2D * 2 ^ 16 + 0xA7 * 2 ^ 8 + 0x5C)) = .ok (x.2 everyMatrixField))) = true := by decide +kernel
/-- Every OP code of Table 2.15, with each field of Table 2.7 at a value of its own. -/
theorem test_codes_control : [(0x01, Instr.br), (0x02, .brc), (0x03, .bri), (0x04, .call), (0x05, .calli), (0x06, .callv), (0x07, .ret), (0x08, .loop),
    (0x09, .astep), (0x0A, .brk), (0x0B, .wait), (0x0C, .waitany), (0x0D, .post), (0x0E, .postr), (0x0F, .kset), (0x10, .bar), (0x11, .arrive),
    (0x12, .await), (0x13, .yield), (0x14, .refill), (0x15, .defer), (0x16, .exit), (0x17, .halt), (0x18, .trap), (0x19, .rett), (0x1A, .ximm),
    (0x1B, .csrr), (0x1C, .csrw), (0x1D, .icinv), (0x1E, .launch), (0x1F, .bbar), (0x20, .prio)].all (fun x => decide (decodeCtl (BitVec.ofNat 48
      (x.1 * 2 ^ 42 + 0x15 * 2 ^ 37 + 0x0B * 2 ^ 32 + 0xBEE1 * 2 ^ 16 + 0x7A53)) = .ok (x.2 (ks 0x15 0x0B 0xBEE1 0x7A53)))) = true := by decide +kernel

/-! ### Every operation issues somewhere

The statements about a slot operation take `State.Issues` as their hypothesis: a state and operands that meet it for each of them. -/

/-- One source; two sources. -/
def v1 (ty : Ty) : VSlot := { vs ty with sb := 0, sc := 0 }
def v2 (ty : Ty) : VSlot := { vs ty with sc := 0 }
/-- A change to the launch of a state that is loaded. -/
def onLoad (s : State) (f : Launch → Launch) : State := { s with launches := tput s.launches 1 (f loadLaunch) }
/-- The launch under an earlier revision. -/
def oldRev (rev : Nat) (l : Launch) : Launch := { l with header := BitVec.ofNat 2048 (l.header.toNat - (3 - rev) * 2 ^ 16) }
/-- The launch with its first two format slots bound to x and y (Table 3.3). -/
def slots (x y : Nat) (l : Launch) : Launch :=
  { l with record := BitVec.ofNat 2048 (l.record.toNat + (x * 2 ^ 896 + y * 2 ^ 960) - (2 ^ 896 + 2 ^ 960)) }
/-- The same for an operation whose bundle is under way. -/
def startedWith (h : Launch → Launch) (i : Instr) (f : Bough → Bough := id) : State :=
  (onLoad (poised i f) h).begin (boughKey (groveKey 1 0) 0) (decodeBundle (encode i))
/-- Whether it issues there. -/
def issuesWith (h : Launch → Launch) (i : Instr) (f : Bough → Bough := id) : Bool := (startedWith h i f).issuesTest i
/-- A loop level around the bundle. -/
def inLoop (b : Bough) : Bough := { b with loops := [{ count := 3, start := 0xFFE0, last := 0x10040 }] }
/-- An await that has a barrier to wait for. -/
def atBarrier (b : Bough) : Bough := { b with bars := Vector.replicate 4 { armed := true, gen := 0, coming := false } }

theorem test_issues_integer : [Instr.add (v2 .i32), .sub (v2 .n8), .addx { v2 .u32 with sc := 2 }, .mul (v2 .b4), .mad (vs .i32), .min (v2 .d),
    .max (v2 .s5), .abs (v1 .i32), .neg (v1 .h2), .absd (v2 .ub4), .avg (v2 .un8), .dot4 (vs .b4), .and (v2 .d), .or (v2 .u32), .xor (v2 .i32),
    .andn (v2 .i32), .not (v1 .d), .shl (v2 .i32), .shr (v2 .h2), .sar (v2 .d), .rol (v2 .u32), .popc (v1 .d), .clz (v1 .i32), .brev (v1 .u32),
    .bfe (v2 .i32), .bfi (vs .u32), .li { v1 .i32 with sa := 0, imm9 := 0x155 }].all issues = true := by decide +kernel
theorem test_issues_float : [Instr.fadd (v2 .f32), .fsub (v2 .bf2), .fmul (v2 .hf2), .fma (vs .f32), .fms (vs .e43), .fnma (vs .e52),
    .fmin (v2 .f32), .fmax (v2 .bf2), .fabs (v1 .f32), .fneg (v1 .e43), .frnd (v1 .hf2), .fclass (v1 .f32), .fscl (v2 .f32), .fdot2 (vs .bf2)].all
      issues = true := by decide +kernel
theorem test_issues_others : [Instr.cmp { v2 .i32 with dst := 1, imm9 := 2 }, .fcmp { v2 .f32 with dst := 1, imm9 := 7 }, .sel { vs .d with sc := 1 },
    .pand { v2 .i32 with dst := 7 }, .por { v2 .i32 with dst := 7 }, .pxor { v2 .i32 with dst := 7 }, .pnot { v1 .i32 with dst := 7 },
    .pmov { v1 .i32 with dst := 7 }, .ballot (v1 .d), .pcnt { v1 .u32 with imm9 := 0x100 }, .xshf (v2 .i32), .xswp { v1 .f32 with imm9 := 0x101 },
    .xrot { v1 .i32 with imm9 := 63 }, .xbc { v1 .d with imm9 := 5 }, .xred { v1 .i32 with imm9 := 5 }, .xscan { v1 .f32 with imm9 := 2 },
    .xcmpk { v2 .i32 with sb := 1 }, .xseg { v2 .i32 with imm9 := 0 }, .mov (v1 .i32), .extr { v1 .b4 with imm9 := 3 }, .ins { v2 .b4 with imm9 := 3 },
    .cvt { v1 .f32 with imm9 := 0 }, .pack { v2 .bf2 with imm9 := 2 }, .unpk (v2 .bf2), .kget { v1 .u32 with sa := 31 }].all issues = true := by
  decide +kernel
theorem test_issues_function_unit : [Instr.mulhi (v2 .u32), .mulw (v2 .i32), .div (v2 .i32), .rem (v2 .u32), .rcp (v1 .f32), .rsq (v1 .bf2),
    .sqrt (v1 .hf2), .exp2 (v1 .f32), .log2 (v1 .f32), .sin (v1 .f32), .cos (v1 .f32), .sincos (v1 .f32), .qnt (v1 .f32), .dqt (v1 .f32),
    .rng (v1 .u32)].all issues = true := by decide +kernel
theorem test_issues_ppev : ((poised (.ppev { v1 .f32 with imm9 := 3 }) |>.onGrove (groveKey 1 0) fun g =>
    { g with tables := Vector.replicate 4 [{ bp := 0, c0 := 0, c1 := 0, c2 := 0, c3 := 0 }] }).begin (boughKey (groveKey 1 0) 0)
      (decodeBundle (encode (.ppev { v1 .f32 with imm9 := 3 })))).issuesTest (.ppev { v1 .f32 with imm9 := 3 }) = true := by decide +kernel
theorem test_issues_uniform : [Instr.add { v2 .d with u := true, dst := 0x91, sa := 0x92, sb := 0x93 }, .kget { v1 .u32 with u := true, dst := 0xAF },
    .ballot { v1 .d with u := true, dst := 0x91 }, .rng { v1 .d with u := true, dst := 0x91, sa := 0x92 },
    .div { v2 .d with u := true, dst := 0x90, sa := 0xC0, sb := 0xEB }].all issues = true := by decide +kernel
theorem test_issues_retired : issuesWith (oldRev 1) (.sad (vs .ub4)) = true ∧
    issuesWith (oldRev 2) (.mulq (v2 .h2)) = true ∧ issuesWith (oldRev 1) (.fexp (v1 .f32)) = true ∧ issuesWith (oldRev 2) (.crc (v2 .u32)) = true ∧ issues (.sad (vs .ub4)) = false := by decide +kernel
/-- Memory slots that use no field more than they may. -/
def m0 (sz : Sz) : MSlot := { sz := sz, q := false, dt := 0, ad := 0, sb := 0, pr := 0, sub := 0, kf := 0, imm18 := 0 }
def mkf (sz : Sz) : MSlot := { ms sz with dt := 8 }
def mns (sz : Sz) : MSlot := { mkf sz with kf := 0 }
theorem test_issues_memory : [Instr.lds (mns .q), .sts (mns .row), .ldsu { mns .d with dt := 0x91, ad := 0xC0 }, .ldr (mkf .sh), .ldg (mkf .q),
    .stg (mkf .d), .ldgu { mkf .w with dt := 0x91, ad := 0x92 }, .lda { mns .row with dt := 0x1FF }, .sta { mns .row with dt := 0x100 },
    .atoms { mns .d with sub := 7 }, .atomg { mkf .w with sub := 0 }, .red { mkf .w with sub := 1 }, .settle { mkf .w with dt := 0 },
    .fenceAcq { m0 .b with sub := 5 }, .fenceRel { m0 .h with sub := 2 }, .fenceFull { m0 .w with sub := 0 }, .bpub { m0 .d with dt := 0x97, sub := 3 },
    .bld { m0 .d with dt := 0x91, sub := 1 }, .bseq { m0 .d with dt := 0x91 }, .pref { mkf .row with dt := 0 }, .l1inv (m0 .b),
    .ppld { m0 .w with dt := 0xC1, sub := 3 }, .ppsv { m0 .w with sub := 3 }].all issues = true := by decide +kernel
theorem test_issues_engine : [Instr.cpy cs, .cpyr cs, .cpym cs, .cpyg cs, .cpys cs, .cpyf cs, .cpyc { cs with fsEn := true },
    .cpyx { cs with src := 0, dstb := 0, shp := 0 }, .tstamp { cs with src := 3, dstb := 0, shp := 0, tag := 1 }, .mma xs, .mmag xs, .mmas xs, .mmags xs,
    .mzero { xs with ba := 0, bb := 0 }, .mtrSp { xs with bb := 0, mod := 0x80 }].all issues = true := by decide +kernel
theorem test_issues_engine_formats : issuesWith (slots 0x20010 8) (.mmap { xs with fsc := 1, mod := 0x09 }) = true ∧
    issuesWith (slots 0 1) (.mtr { xs with ba := 0, bb := 0 }) = true ∧ issuesWith (slots 0x200 1) (.mscl { xs with fsc := 1, bb := 0 }) = true := by
  decide +kernel
theorem test_issues_control : [Instr.br (ks 0 0 0xFFFF 0), .brc (ks 1 0 2 0), .bri (ks 5 0 0 0), .call (ks 5 0 2 0), .calli (ks 5 6 0 0),
    .callv (ks 5 7 0 31), .ret (ks 31 0 0 0), .loop (ks 0 0 1 9), .astep (ks 5 0 7 32), .wait (ks 31 0 0 1), .waitany (ks 31 30 1 1),
    .post (ks 31 0 0 1), .postr (ks 31 31 0 1), .kset (ks 31 0 255 65535), .bar (ks 3 0 0 16), .arrive (ks 3 0 0 0), .yield (ks 0 0 0 0),
    .refill (ks 0 0 0 0), .defer (ks 1 0 8 3), .exit (ks 1 0 0 0), .trap (ks 0 0 1 0x10), .ximm (ks 0 0 0 0),
    .csrr (ks 5 0 0x10 0), .csrw (ks 0 5 0x10 0), .icinv (ks 5 6 31 0), .launch (ks 5 0 31 63), .bbar (ks 31 0 7 3), .prio (ks 0 0 0 3)].all issues = true := by decide +kernel
theorem test_issues_control_states : issues (.brk (ks 0 0 0 0)) inLoop = true ∧ issues (.await (ks 3 0 0 0)) atBarrier = true ∧
    issues (.halt (ks 0 0 0 0)) (fun b => { b with active := 0 }) = true ∧ issues (.rett (ks 0 0 0 0)) (fun b => { b with tstatIn := true }) = true := by
  decide +kernel

/-! ### One step on small values

Eight items of one lane each act; v2, v4 and v8 hold x, y and z in every lane (as pairs, x and y in v2 and v3, z and w in v4 and v5). The
results are worked out by hand from the rules named. -/

/-- A word in every lane. -/
def each (x : Word) : Lanes := Vector.replicate 64 x
/-- The registers of the values. -/
def regs (x y z : Word) (b : Bough) : Bough := ((b.setV 2 (each x)).setV 4 (each y)).setV 8 (each z)
/-- Two register pairs. -/
def pairs (x y : DWord) (b : Bough) : Bough :=
  (((b.setV 2 (each (x.setWidth 32))).setV 3 (each (x.extractLsb' 32 32))).setV 4 (each (y.setWidth 32))).setV 5 (each (y.extractLsb' 32 32))
/-- The results in flight of the bough after an operation. -/
def resultsOf (s : State) (i : Instr) : List Result :=
  match exec i s with
  | .next t => ((t.bough? (boughKey (groveKey 1 0) 0)).map (·.results)).getD []
  | _ => []
/-- What lane l holds of result n, which acts there. -/
def lane (rs : List Result) (n l : Nat) : Option Word :=
  (rs[n]?).bind fun r => if r.act.getLsbD l then some (r.vals.toArray.getD l 0) else none
/-- Lane 0 of the first result, with the flags that it raises. -/
def gives (i : Instr) (x y z : Word) : Option (Word × Nat) :=
  let rs := resultsOf (started i (regs x y z)) i
  (lane rs 0 0).map fun w => (w, (rs.head?.map (·.flags.toNat)).getD 0)
/-- The same for pairs. -/
def givesPair (i : Instr) (x y : DWord) : Option DWord :=
  let rs := resultsOf (started i (pairs x y)) i
  (lane rs 1 0).bind fun h => (lane rs 0 0).map fun w => h ++ w

/-- R239, R241: wrapping and saturation by sub-element. -/
theorem test_integer_arithmetic :
    gives (.add { v2 .h2 with sat := true }) 0x7FFF0001 0x00010001 0 = some (0x7FFF0002, 0) ∧
    gives (.sub (v2 .ub4)) 0x00010203 0x01010101 0 = some (0xFF000102, 0) ∧
    gives (.mul { v2 .i32 with sat := true }) 0x10000 0x10000 0 = some (0x7FFFFFFF, 0) ∧
    gives (.mad (vs .b4)) 0xFFFFFFFF 0x02020202 0x03030303 = some (0x01010101, 0) ∧
    gives (.min (v2 .b4)) 0x80017F00 0 0 = some (0x80000000, 0) ∧ gives (.max (v2 .b4)) 0x80017F00 0 0 = some (0x00017F00, 0) ∧
    gives (.abs { v1 .i32 with sat := true }) 0x80000000 0 0 = some (0x7FFFFFFF, 0) ∧ gives (.abs (v1 .i32)) 0x80000000 0 0 = some (0x80000000, 0) ∧
    gives (.neg (v1 .n8)) 0x00000001 0 0 = some (0x0000000F, 0) ∧ gives (.absd (v2 .ub4)) 0x10F00000 0x20100000 0 = some (0x10E00000, 0) ∧
    gives (.avg (v2 .i32)) 0xFFFFFFFD 0 0 = some (0xFFFFFFFF, 0) := by decide +kernel
/-- R242 with p2 false, R243. -/
theorem test_carry_and_dot :
    gives (.addx { v2 .u32 with sc := 2 }) 0xFFFFFFFF 1 0 = some (0, 0) ∧
    gives (.dot4 (vs .b4)) 0x01020304 0x01FF0101 10 = some (16, 0) ∧
    gives (.dot4 (vs .ub4)) 0x01020304 0x01FF0101 10 = some (0x210, 0) := by decide +kernel
/-- R244 to R248. -/
theorem test_bits :
    gives (.and (v2 .i32)) 0xF0F0F0F0 0xFF00FF00 0 = some (0xF000F000, 0) ∧ gives (.or (v2 .i32)) 0xF0F0F0F0 0xFF00FF00 0 = some (0xFFF0FFF0, 0) ∧
    gives (.xor (v2 .i32)) 0xF0F0F0F0 0xFF00FF00 0 = some (0x0FF00FF0, 0) ∧ gives (.andn (v2 .i32)) 0xF0F0F0F0 0xFF00FF00 0 = some (0x00F000F0, 0) ∧
    gives (.not (v1 .i32)) 0xF0F0F0F0 0 0 = some (0x0F0F0F0F, 0) ∧
    gives (.shl (v2 .i32)) 1 32 0 = some (0, 0) ∧ gives (.shl { v2 .i32 with sat := true }) 0x80000001 1 0 = some (0x80000000, 0) ∧
    gives (.shr (v2 .i32)) 0x80000000 31 0 = some (1, 0) ∧ gives (.sar (v2 .u32)) 0x80000000 40 0 = some (0xFFFFFFFF, 0) ∧
    gives (.rol (v2 .i32)) 0x80000001 36 0 = some (0x00000018, 0) ∧
    gives (.popc (v1 .i32)) 0xF0000001 0 0 = some (5, 0) ∧ gives (.clz (v1 .i32)) 0 0 0 = some (32, 0) ∧ gives (.brev (v1 .i32)) 1 0 0 = some (0x80000000, 0) ∧
    gives (.bfe (v2 .i32)) 0x00000F00 0x0408 0 = some (0xFFFFFFFF, 0) ∧ gives (.bfe (v2 .u32)) 0xF0000000 0x7F1C 0 = some (0xF, 0) ∧
    gives (.bfi (vs .u32)) 0xFFFFFFFF 0 0x0408 = some (0xFFFFF0FF, 0) ∧
    gives (.li { v1 .i32 with sa := 0, imm9 := 0x1FF }) 0 0 0 = some (0xFFFFFFFF, 0) := by decide +kernel
/-- R66, R241, R245, R246 under .d. -/
theorem test_wide : givesPair (.add (v2 .d)) 0xFFFFFFFF 1 = some 0x100000000 ∧ givesPair (.shl (v2 .d)) 1 63 = some 0x8000000000000000 ∧
    givesPair (.clz (v1 .d)) 1 0 = some 63 ∧ givesPair (.min (v2 .d)) 0x8000000000000000 0 = some 0x8000000000000000 ∧
    givesPair (.mulw (v2 .i32)) 0xFFFFFFFF 2 = some 0xFFFFFFFFFFFFFFFE := by decide +kernel
/-- R249 to R255. -/
theorem test_floats :
    gives (.fadd (v2 .f32)) 0x40000000 0x40400000 0 = some (0x40A00000, 0) ∧ gives (.fsub (v2 .f32)) 0x40000000 0x40400000 0 = some (0xBF800000, 0) ∧
    gives (.fmul (v2 .f32)) 0x40000000 0x40400000 0 = some (0x40C00000, 0) ∧ gives (.fma (vs .f32)) 0x40000000 0x40400000 0x3F800000 = some (0x40E00000, 0) ∧
    gives (.fms (vs .f32)) 0x40000000 0x40400000 0x3F800000 = some (0x40A00000, 0) ∧ gives (.fnma (vs .f32)) 0x40000000 0x40400000 0x3F800000 = some (0xC0A00000, 0) ∧
    gives (.fmin (v2 .f32)) 0x80000000 0 0 = some (0x80000000, 0) ∧ gives (.fmax (v2 .f32)) 0x7FC00000 0x3F800000 0 = some (0x3F800000, 0) ∧
    gives (.fabs (v1 .f32)) 0xFFC00001 0 0 = some (0x7FC00001, 0) ∧ gives (.fneg (v1 .bf2)) 0x3F803F80 0 0 = some (0xBF80BF80, 0) ∧
    gives (.frnd { v1 .f32 with rm := .rup }) 0xBF000000 0 0 = some (0x80000000, 0) ∧ gives (.fclass (v1 .f32)) 0x80000000 0 0 = some (8, 0) ∧
    gives (.fclass (v1 .bf2)) 0x7FC0FF80 0 0 = some (0x02000001, 0) ∧ gives (.fscl (v2 .f32)) 0x3F800000 3 0 = some (0x41000000, 0) ∧
    gives (.fdot2 (vs .bf2)) 0x3F804000 0x40403F80 0x3F800000 = some (0x40C00000, 0) := by decide +kernel
/-- 03_formats.md, "Worked conversions": words and flags (NX 1, UF 2, OF 4, NV 16) of cvt from FP32 (source code 2). -/
theorem test_conversions :
    gives (.cvt { v1 .bf2 with imm9 := 3 }) 0x3F803F80 0 0 = some (0x3F803F80, 0) ∧
    gives (.pack { v2 .bf2 with imm9 := 2 }) 0x3F808000 0x7FA00000 0 = some (0x7FE03F80, 0x11) ∧
    gives (.pack { v2 .bf2 with rm := .rup, imm9 := 2 }) 0x3F808000 0x3F808000 0 = some (0x3F813F81, 1) ∧
    gives (.pack { v2 .hf2 with imm9 := 2 }) 0x33000000 0x33000000 0 = some (0, 3) ∧
    gives (.pack { v2 .hf2 with rm := .rup, imm9 := 2 }) 0x33000000 0x33000000 0 = some (0x00010001, 3) ∧
    gives (.pack { vs .e43 with imm9 := 2 }) 0x43EB0000 0x43EB0000 0 = some (0x00007F7F, 5) ∧
    gives (.pack { vs .e43 with sat := true, imm9 := 2 }) 0x43EB0000 0x43EB0000 0xAAAAAAAA = some (0xAAAA7E7E, 5) ∧
    gives (.pack { vs .e52 with imm9 := 0x12 }) 0x47700000 0x47700000 0 = some (0x7C7C0000, 5) := by decide +kernel
/-- R272, R274, R275. -/
theorem test_moves : gives (.mov (v1 .i32)) 0x7FA00000 0 0 = some (0x7FA00000, 0) ∧
    gives (.extr { v1 .b4 with imm9 := 3 }) 0x80010203 0 0 = some (0xFFFFFF80, 0) ∧
    gives (.ins { v2 .un8 with imm9 := 7 }) 0 0xFFFFFFFA 0 = some (0xA0000000, 0) ∧
    gives (.unpk { v2 .h2 with imm9 := 1 }) 0x11112222 0x33334444 0 = some (0x33331111, 0) ∧
    gives (.cvt { v1 .i32 with rm := .rdn, imm9 := 2 }) 0xBFC00000 0 0 = some (0xFFFFFFFE, 1) := by decide +kernel
/-- Table 7.2: signed and unsigned conditions; a NaN is unordered. -/
theorem test_comparisons : gives (.cmp { v2 .i32 with dst := 1, imm9 := 2 }) 0xFFFFFFFF 1 0 = some (1, 0) ∧
    gives (.cmp { v2 .i32 with dst := 1, imm9 := 6 }) 0xFFFFFFFF 1 0 = some (0, 0) ∧
    gives (.fcmp { v2 .f32 with dst := 1, imm9 := 1 }) 0x7FC00000 0 0 = some (1, 0) ∧
    gives (.fcmp { v2 .f32 with dst := 1, imm9 := 4 }) 0x7FC00000 0 0 = some (0, 16) ∧
    gives (.sel { v2 .i32 with sc := 0 }) 5 6 0 = some (5, 0) ∧ gives (.sel { v2 .i32 with sc := 1 }) 5 6 0 = some (6, 0) := by decide +kernel
/-- R258, R260, R261: p0 is true in every lane; items act in lanes 0 to 7. -/
theorem test_predicates : gives (.pand { v2 .i32 with dst := 7, sa := 0, sb := 0 }) 0 0 0 = some (1, 0) ∧
    gives (.por { v2 .i32 with dst := 7, sa := 1, sb := 2 }) 0 0 0 = some (0, 0) ∧ gives (.pxor { v2 .i32 with dst := 7, sa := 0, sb := 1 }) 0 0 0 = some (1, 0) ∧
    gives (.pnot { v1 .i32 with dst := 7, sa := 0 }) 0 0 0 = some (0, 0) ∧ gives (.pmov { v1 .i32 with dst := 7, sa := 0 }) 0 0 0 = some (1, 0) ∧
    givesPair (.ballot { v1 .d with sa := 0 }) 0 0 = some 0xFF ∧ gives (.pcnt { v1 .u32 with sa := 0 }) 0 0 0 = some (8, 0) := by decide +kernel
/-- R284, R286, R287, R288. -/
theorem test_function_unit : gives (.mulhi (v2 .u32)) 0xFFFFFFFF 0xFFFFFFFF 0 = some (0xFFFFFFFE, 0) ∧
    gives (.div (v2 .i32)) 0xFFFFFFF9 2 0 = some (0xFFFFFFFD, 0) ∧ gives (.rem (v2 .i32)) 0xFFFFFFF9 2 0 = some (0xFFFFFFFF, 0) ∧
    gives (.div { v2 .i32 with sat := true }) 0x80000000 0xFFFFFFFF 0 = some (0x7FFFFFFF, 0) ∧ gives (.rem (v2 .u32)) 7 0 0 = some (7, 0) ∧
    gives (.rcp (v1 .f32)) 0x40000000 0 0 = some (0x3F000000, 0) ∧ gives (.rcp (v1 .f32)) 0 0 0 = some (0x7F800000, 8) ∧
    gives (.rsq (v1 .f32)) 0x40800000 0 0 = some (0x3F000000, 0) ∧ gives (.sqrt (v1 .f32)) 0x41100000 0 0 = some (0x40400000, 0) ∧
    gives (.exp2 (v1 .f32)) 0x40400000 0 0 = some (0x41000000, 0) ∧ gives (.log2 (v1 .f32)) 0x41000000 0 0 = some (0x40400000, 0) ∧
    gives (.sin (v1 .f32)) 0x80000000 0 0 = some (0x80000000, 0) ∧ gives (.cos (v1 .f32)) 0 0 0 = some (0x3F800000, 0) := by decide +kernel

/-- 07_vector_engine.md, the worked example of items of width 4: spans 0 and 2 active, v4 = 10 + lid, v9 = 99; lanes 0 to 3 of D. -/
def fourWide (l : Launch) : Launch := { l with header := BitVec.ofNat 2048 (l.header.toNat + 3 * 2 ^ 224) }
def spansTwo (b : Bough) : Bough := { (b.setV 4 (Vector.ofFn fun l => BitVec.ofNat 32 (10 + l.val))).setV 9 (each 99) with active := 5 }
def row (i : Instr) : List (Option Word) :=
  let rs := resultsOf (startedWith fourWide i spansTwo) i
  (List.range 5).map (lane rs 0)
theorem test_cross_lane :
    row (.xrot { v1 .u32 with dst := 5, sa := 4, imm9 := 1 }) = [some 11, some 12, some 13, some 14, none] ∧
    row (.xswp { v1 .u32 with dst := 6, sa := 4, sc := 9, imm9 := 0x104 }) = [some 99, some 99, some 99, some 99, none] ∧
    row (.xbc { v1 .u32 with dst := 7, sa := 4, imm9 := 0x102 }) = [some 12, some 12, some 12, some 12, none] ∧
    row (.xscan { v1 .i32 with dst := 8, sa := 4, imm9 := 0x100 }) = [some 10, some 21, some 33, some 46, none] ∧
    row (.xred { v1 .i32 with dst := 10, sa := 4 }) = [some 124, some 124, some 124, some 124, none] := by decide +kernel
theorem test_cross_lane_more :
    row (.xshf { v2 .u32 with dst := 5, sa := 4, sb := 9 }) = [some 0, some 0, some 0, some 0, none] ∧
    row (.xcmpk { v2 .u32 with dst := 5, sa := 4, sb := 0 }) = [some 10, some 11, some 12, some 13, none] ∧
    row (.xseg { v2 .i32 with dst := 5, sa := 4, sb := 4 }) = [some 10, some 11, some 12, some 13, none] := by decide +kernel

/-! ### Witnesses: states and operands that meet the hypotheses of the statements

One for each hypothesis-bearing clause. `Issues` is met where `issues` is true (`issues_witness`). -/

/-- VectorCompletes and VectorFrame: a lane form, a predicate's form, a uniform form, under its own vinfo. -/
theorem test_witness_vector :
    ((vinfo (.add (v2 .i32))).map fun x => x.1.dst) = some .lane ∧ issues (.add (v2 .i32)) = true ∧
    ((vinfo (.cmp { v2 .i32 with dst := 1 })).map fun x => x.1.dst) = some .pred ∧ issues (.cmp { v2 .i32 with dst := 1 }) = true ∧
    uniformActs 0 = true ∧ classOf 0x91 = .scalar 1 ∧ issues (.add { v2 .d with u := true, dst := 0x91, sa := 0x92, sb := 0x93 }) = true := by
  decide +kernel
/-- IntegerArithmetic: each operation under .i32, SAT 0, SAT 1 for add and sub; shifts. -/
theorem test_witness_integers : [Instr.add (v2 .i32), .sub (v2 .i32), .mul (v2 .i32), .mad (vs .i32), .min (v2 .i32), .max (v2 .i32), .abs (v1 .i32),
    .neg (v1 .i32), .absd (v2 .i32), .avg (v2 .i32), .add { v2 .i32 with sat := true }, .sub { v2 .i32 with sat := true }, .shl (v2 .i32), .shr (v2 .u32),
    .sar (v2 .i32), .rol (v2 .u32)].all issues = true := by decide +kernel
/-- Bitwise, BitCounts, SignBits, CarriesAndProducts. -/
theorem test_witness_bits : [Instr.and (v2 .i32), .or (v2 .u32), .xor (v2 .i32), .andn (v2 .i32), .not (v1 .u32), .and (v2 .d), .or (v2 .d), .xor (v2 .d),
    .andn (v2 .d), .not (v1 .d), .popc (v1 .u32), .clz (v1 .i32), .brev (v1 .i32), .popc (v1 .d), .clz (v1 .d), .brev (v1 .d), .fabs (v1 .f32),
    .fabs (v1 .hf2), .fneg (v1 .e52), .addx (v2 .u32), .mulhi (v2 .i32), .mulw (v2 .i32), .div (v2 .i32), .rem (v2 .i32)].all issues = true := by
  decide +kernel
/-- Their uniform forms, s1 from s2 and s3. -/
def u2 (ty : Ty) : VSlot := { v2 ty with u := true, dst := 0x91, sa := 0x92, sb := 0x93 }
theorem test_witness_uniform_bits : [Instr.and (u2 .i32), .or (u2 .u32), .xor (u2 .d), .andn (u2 .i32), .not { u2 .d with sb := 0 },
    .popc { u2 .u32 with sb := 0 }, .clz { u2 .d with sb := 0 }, .brev { u2 .i32 with sb := 0 }, .fabs { u2 .f32 with sb := 0 },
    .fneg { u2 .f32 with sb := 0 }].all issues = true ∧ uniformActs (u2 .i32).pr = true ∧ classOf (u2 .i32).dst = .scalar 1 := by decide +kernel
/-- FloatArithmetic: on 2 and 3, real numbers whose sum is not zero. -/
theorem test_witness_floats : [Instr.fadd (v2 .f32), .fsub (v2 .f32), .fmul (v2 .f32), .fma (vs .f32), .fms (vs .f32), .fnma (vs .f32)].all issues = true ∧
    (valOf .fp32 0x40000000).number = some 2 ∧ (valOf .fp32 0x40400000).number = some 3 := by decide +kernel
/-- Comparison, Selection, PredicateLogic. -/
theorem test_witness_choices : ([0, 1, 2, 3, 4, 5, 6, 7].all fun n => issues (.cmp { v2 .i32 with dst := 7, imm9 := BitVec.ofNat 9 n })) = true ∧
    [Instr.sel { v2 .f32 with sc := 7 }, .sel { v2 .d with sc := 7 }, .pand { v2 .i32 with dst := 7 }, .por { v2 .i32 with dst := 7 },
      .pxor { v2 .i32 with dst := 7 }, .pnot { v1 .i32 with dst := 7 }, .pmov { v1 .i32 with dst := 7 }].all issues = true := by decide +kernel
/-- MovesAndPermutations. -/
theorem test_witness_permutations : [Instr.xswp { v1 .i32 with imm9 := 32 }, .xrot { v1 .i32 with imm9 := 63 }, .xbc { v1 .i32 with imm9 := 63 }, .xshf (vs .i32),
    .mov (v1 .f32), .li { v1 .i32 with sa := 0, imm9 := 511 }, .kget { v1 .u32 with sa := 31 }].all issues = true ∧
    issuesWith (oldRev 1) (.sad (vs .ub4)) = true ∧ issuesWith (oldRev 2) (.crc (v2 .u32)) = true := by decide +kernel

/-- StepRunsBundle: a bundle presented with nothing else due, for an operation that runs and for one that gives up its phase. -/
def key0 : Nat := boughKey (groveKey 1 0) 0
theorem ok_of_toOption {α β : Type} {x : Except α β} {y : β} (h : x.toOption = some y) : x = .ok y := by
  cases x with
  | ok a => simpa [Except.toOption] using h
  | error a => simp [Except.toOption] at h
/-- R198: a fetched copy goes when the range holds a byte of its 32, under its address space alone, and stays for a length of 0. -/
theorem test_icinv_range : let e : FetchCopy := { bough := 1, asid := 1, va := 0x1000, word := 0 }
    (e.meets 1 0x101F 1 && e.meets 1 0xFF0 17) = true ∧ (e.meets 1 0x1020 64 || e.meets 1 0xFF0 16 || e.meets 2 0x1000 32 || e.meets 1 0x1000 0) = false := by
  decide
/-- The test behind `Presents`, for the bundle of an operation alone. -/
def presents (i : Instr) (f : Bough → Bough) : Bool :=
  let s := poised i f
  let bd := decodeBundle (encode i)
  match s.ctxOf key0 Bundle.empty 0 0 false with
  | some c0 =>
    let u := ((s.touch 0 1 0x10000).keepFetched key0 c0.g c0.l 0x10000 (encode i)).begin key0 bd
    (match u.ctx? with
      | some c =>
        !s.allStopped && (s.findBough s.stopDue).isNone && (s.findBough (fun _ b _ => b.owesWriteback s.bc) == none) &&
          (s.findBough (fun _ b g => s.agingDue b g)).isNone && (takeDue s.cc s.frozen s.agenda).isNone && s.issuer == some key0 &&
          (c0.b.pendNow c0.t).isNone && decide ((s.fetchBits key0 c0.g c0.l c0.b.pc).toOption = some (encode i)) && !s.watchdogDue c0.b c0.l &&
          !bd.d && decide (c0.g.die = 0) && decide (c0.l.asid = 1) && decide (c0.b.pc = 0x10000) && (c.bundleCause bd (c.b.dsLeft != 0)).isNone &&
          !asksCompat bd && (c.bundleLater (bundleOps bd)).isNone && c.finiteStretch (bundleOps bd) == 0 && (u.holdCause c (bundleOps bd)).isNone &&
          decide (u.observeAll c (bundleOps bd) = .go) && ((bundleOps bd).findSome? c.flagFault).isNone
      | none => false)
  | none => false
theorem presents_witness {i : Instr} {f : Bough → Bough} (h : presents i f = true) :
    ∃ u c, Presents (poised i f) key0 (decodeBundle (encode i)) c u := by
  unfold presents at h
  dsimp only at h
  split at h
  · rename_i c0 h0
    split at h
    · rename_i c hc
      simp only [Bool.and_eq_true, and_assoc, Bool.not_eq_true', Option.isNone_iff_eq_none, decide_eq_true_eq, beq_iff_eq] at h
      obtain ⟨h1, h2, h3, h4, h5, h6, h7, h8, h9, h10, h11, h12, h13, h14, h15, h16, h17, h18, h19, h20⟩ := h
      refine ⟨_, c, h1, h2, h3, h4, h5, h6, ⟨c0, encode i, h0, h7, ok_of_toOption h8, rfl, h9, by simp [h10], by rw [h11, h12, h13]; rfl⟩, hc, h14, by simp [h15], h16,
        .inr h17, h18, h19, h20⟩
    · cases h
  · cases h
theorem test_witness_presents_add : presents (.add (v2 .i32)) id = true ∧ (bundleOps (decodeBundle (encode (.add (v2 .i32))))).find? mayGiveUp = none := by
  decide +kernel
/-- A wait on a count not reached gives up the phase; one on a count reached goes on. -/
theorem test_witness_presents_wait : presents (.wait (ks 1 0 0 1)) id = true ∧ presents (.wait (ks 1 0 0 0)) id = true ∧
    mayGiveUp (.wait (ks 1 0 0 1)) = true := by decide +kernel

/-- The loaded system at core cycle 40 (bough cycle 10), with a change to its grove, then to its bough. -/
def grove0 : Nat := groveKey 1 0
def loaded (fg : Grove → Grove := id) (fb : Bough → Bough := id) : State :=
  ({ State.reset.load [] with cc := 40 }.onGrove grove0 fg).onBough key0 fb
def theBough (s : State) : Option Bough := s.bough? key0
def theGrove (s : State) : Option Grove := s.grove? grove0

/-- TimePasses. -/
theorem test_witness_time : exec .vnop State.reset = .next State.reset ∧ ∃ t, step State.reset = .next t :=
  ⟨rfl, by
    have h : State.reset.allStopped = false := by decide +kernel
    have : (match step State.reset with | .next _ => true | _ => false) = true := by decide +kernel
    split at this
    · exact ⟨_, by assumption⟩
    · cases this⟩
/-- MemoryCanonicalKept, MemoryReadsBack. -/
theorem test_witness_memory : State.reset.memoryWf = true ∧ (∃ t, exec .nop State.reset = .next t) ∧
    Memory.wf (writeBytes [] 5 [1, 0, 2]) = true ∧ readByte (writeBytes [] 5 [1, 0, 2]) 7 = 2 :=
  ⟨by decide, ⟨_, rfl⟩, by decide, by decide⟩

/-- ResultWriteback: one result of each destination due in the bough cycle before; one that enters its latch now. -/
def inFlight (d : Dest) (due : Nat) (latched : Bool) : Result :=
  { seq := 0, pc := 0x10000, path := .vector, latched := latched, dest := d, act := 1, vals := each 7, sval := 7, due := due, flags := 0, byFlag := false }
def oneResult (d : Dest) (due : Nat) (latched : Bool) : Bool :=
  let s := loaded id fun b => { b with results := [inFlight d due latched] }
  match theBough s with
  | some b => b.lands && decide ((b.results.filter fun q => decide (q.due < s.bc)) = if due < 10 then [inFlight d due latched] else []) &&
      decide ((b.results.filter fun q => !q.latched && decide (q.due ≤ s.bc)) = if latched then [] else [inFlight d due latched])
  | none => false
theorem test_witness_writeback : ([Dest.vreg 127, .oreg 7, .scalar 31, .scalar 0, .row 255, .pred 1].all fun d => oneResult d 9 true) = true ∧
    oneResult (.pred 0) 10 false = true ∧ oneResult (.pred 7) 10 false = true ∧ oneResult (.vreg 0) 10 false = true := by decide +kernel

/-- TrapEntry: a handler and no trap in progress; one in progress; none. -/
theorem test_witness_traps : (theBough (loaded id fun b => { b with tvec := 0x20000 })).any (fun b => !b.tstatIn && b.tvec != 0) = true ∧
    (theBough (loaded id fun b => { b with tstatIn := true })).any (fun b => b.tstatIn) = true ∧
    (theBough (loaded id fun b => { b with tvec := 0 })).any (fun b => b.tvec == 0) = true ∧ tget (loaded).launches (launchOfKey key0) = some loadLaunch := by
  decide +kernel
/-- TrapAtIssue: R75 refuses (a main register beyond the allotment is not one: code 0x08C is reserved); a misaligned lds; a flag with E set. -/
def trapOf (i : Instr) (fg : Grove → Grove) (fb : Bough → Bough) : Option (Option Cause × Option Cause × Bool) :=
  ((((poised i fb).onGrove grove0 fg).begin key0 (decodeBundle (encode i))).ctx?).bind fun c =>
    (c.issueTrap i).map fun _ => (c.opCause i, c.laterCause i, (c.flagFault i).isSome)
theorem test_witness_trap_at_issue :
    trapOf (.add { v2 .i32 with sa := 0x8C }) id id = some (some .illegalOperand, none, false) ∧
    trapOf (.lds { mns .w with imm18 := 2 }) id id = some (none, some .misaligned, false) ∧
    trapOf (.wait (ks 1 0 0 0)) (fun g => { g with flags := g.flags.set 1 { count := 0, e := true, frec := 3, cause := 4, pc := 0x10000 } }) id =
      some (none, none, true) := by decide +kernel
/-- DelaySlotsAndLoops: a bundle that takes a transfer; one that ends a loop with a count of 2, of 1. -/
theorem test_witness_transfers :
    (let b := Bough.initial 0 0 0 0x10000 0 0 0; b.dsLeft = 0 ∧ b.loops = [] ∧ ({ Issue.idle with taken := some 0x20000 }).returned = false) ∧
    (let b := { Bough.initial 0 0 0 0x10040 0 0 0 with loops := [{ count := 2, start := 0x10020, last := 0x10040 }] }
     b.dsLeft = 0 ∧ (∀ j : Fin 4, b.steps[j].depth = 0)) := by decide +kernel

/-- ScratchpadIssue: the forms of the memory slot that use the scratchpad, and the uniform ones under !p0. -/
theorem test_witness_scratchpad : [Instr.lds (mns .w), .lda { mns .row with dt := 0x100 }, .sts (mns .w), .sta { mns .row with dt := 0x1FF }, .atoms (mns .w),
    .ldsu { mns .w with dt := 0x91, ad := 0xC0 }, .ppld { m0 .w with dt := 0xC1 }, .ppsv (m0 .w), .ldsu { mns .w with dt := 0x91, ad := 0xC0, pr := 8 },
    .ppld { m0 .w with dt := 0xC1, pr := 8 }, .ppsv { m0 .w with pr := 8 }].all issues = true := by decide +kernel
/-- ScratchpadActs: one act due; a store of two bytes, a load of two lanes, an add of two lanes on one word. -/
def scheduled (act : ScratchAct) (bc : Nat) : State :=
  loaded fun g => { g with pipe := [{ bc := bc, cc := 36, bnum := 0, seq := 0, pc := 0x10000, act := act }], scratch := [(4, 9)] }
def actDue (act : ScratchAct) : Bool :=
  let s := scheduled act 10
  match theGrove s with
  | some g => decide ((g.pipe.filter fun x => decide (x.bc ≤ s.bc)) = [{ bc := 10, cc := 36, bnum := 0, seq := 0, pc := 0x10000, act := act }]) &&
      g.scratchBad.isEmpty && Memory.wf g.scratch && (s.bough? (boughKey grove0 0)).isSome
  | none => false
theorem test_witness_acts : actDue (.store [(4, 1), (5, 2)]) = true ∧ actDue (.load 4 false [(0, 4), (63, 4)] [.vreg 6] .memory 12) = true ∧
    actDue (.load 1 true [(0, 4)] [.row 3] .memory 12) = true ∧ actDue (.atomic 0 false [(0, 4, 1, 0), (63, 4, 2, 0)] [.vreg 6]) = true ∧
    actDue (.arrive 3 1) = true := by decide +kernel

/-- GlobalIssue, FenceAndBeaconIssue: each issues, the uniform ones under p0 and !p0. -/
theorem test_witness_global : [Instr.ldg (mkf .w), .stg (mkf .w), .atomg (mkf .w), .red (mkf .w), .settle { mkf .w with dt := 0 }, .pref { mkf .b with dt := 0 },
    .ldgu { mkf .w with dt := 0x91, ad := 0xC0 }, .ldgu { mkf .w with dt := 0x91, ad := 0xC0, pr := 8 }, .ldr (mkf .b)].all issues = true ∧
    loadLaunch.replay = false ∧ szRegs .b = 1 := by decide +kernel
theorem unrecorded0 (s : State) (h : ((s.grove? (groveOf key0)).bind fun g => tget s.launches g.launch).all (fun l => !l.replay) = true) : s.Unrecorded key0 := by
  intro g l hg hl
  simpa [hg, hl] using h
theorem test_witness_unrecorded : (started (.ldr (mkf .b))).Unrecorded key0 := unrecorded0 _ (by decide +kernel)
theorem test_witness_fences : [Instr.fenceAcq (m0 .b), .fenceRel { m0 .h with sub := 5 }, .fenceFull { m0 .w with pr := 8 }, .bpub { m0 .d with dt := 0x97, imm18 := 4095 },
    .bld { m0 .d with dt := 0x91, sub := 1 }, .bseq { m0 .d with dt := 0xAF }, .l1inv { m0 .b with pr := 8 }, .icinv (ks 5 6 31 0), .bbar (ks 31 0 0xFFE 1),
    .launch (ks 5 0 31 63)].all issues = true := by decide +kernel
/-- CopiesIssue and MatrixIssue. -/
theorem test_witness_engines : [Instr.cpy cs, .cpyr cs, .cpym cs, .cpyg cs, .cpys cs, .cpyf cs, .cpyc { cs with fsEn := true },
    .cpyx { cs with src := 0, dstb := 0, shp := 0 }, .tstamp { cs with src := 3, dstb := 0, shp := 0, tag := 255 }, .mma xs].all issues = true := by decide +kernel

/-- ControlTransfers: a true and a false condition, lanes to call and none, a count and none, a level to leave. -/
theorem test_witness_control : ([ks 0 0 0xFFFF 0, ks 0 0 0x7FFF 0].all fun a => issues (.br a)) = true ∧
    ((started (.brc (ks 0 0 2 0))).ctx?.map fun c => c.cond (ks 0 0 2 0)) = some true ∧
    ((started (.brc (ks 1 0 2 0))).ctx?.map fun c => c.cond (ks 1 0 2 0)) = some false ∧
    ((started (.callv (ks 5 0 0 0))).ctx?.map fun c => (c.activeLanes &&& c.b.prMask 0 &&& ~~~c.b.vserved).getLsbD 0) = some true ∧
    ((started (.callv (ks 5 0 1 0))).ctx?.map fun c => c.activeLanes &&& c.b.prMask 1 &&& ~~~c.b.vserved) = some 0 ∧
    issues (.loop (ks 0 0 1 0)) = true ∧ issues (.loop (ks 5 0 1 0)) = true ∧ issues (.brk (ks 0 0 0 0)) inLoop = true ∧
    issues (.brk (ks 1 0 0 0)) inLoop = true ∧ issues (.astep (ks 31 0 19 1)) = true ∧ issues (.astep (ks 0 0 3 0)) = true := by decide +kernel
/-- CountingFlags: counts reached and not; one flag written three times in a bough cycle. -/
theorem test_witness_flags : issues (.wait (ks 31 0 0 0)) = true ∧ issues (.wait (ks 31 0 127 65535)) = true ∧ issues (.waitany (ks 0 1 1 0)) = true ∧
    issues (.waitany (ks 0 1 1 1)) = true ∧
    (theGrove (loaded fun g => { g with flagWrites := [.complete 31 64 none, .set 31 5, .bump 31 1] })).map (·.flagWrites) =
      some [.complete 31 64 none, .set 31 5, .bump 31 1] := by decide +kernel
/-- GroveBarriers: a generation that has moved on, one that has not, and a bough that has not arrived. -/
theorem test_witness_barriers : issues (.arrive (ks 3 0 0 16)) = true ∧ issues (.bar (ks 0 0 0 0)) = true ∧ issues (.await (ks 3 0 0 0)) atBarrier = true ∧
    issues (.bar (ks 3 0 0 0)) atBarrier = true ∧
    (((poised (.await (ks 3 0 0 0)) atBarrier).onGrove grove0 fun g => { g with bars := Vector.replicate 4 { a := 0, n := 1, g := 1 } }).begin key0
      (decodeBundle (encode (.await (ks 3 0 0 0))))).issuesTest (.await (ks 3 0 0 0)) = true := by decide +kernel
/-- PhasesAndItems: the grove's last bough halts; one halts that is not the last; an exit of spans. -/
theorem test_witness_phases : issues (.halt (ks 0 0 0 0)) (fun b => { b with active := 0 }) = true ∧ loadLaunch.boughsPer = 1 ∧
    issuesWith (fun l => { l with header := BitVec.ofNat 2048 (l.header.toNat + 2 ^ 32) }) (.halt (ks 0 0 0 0)) (fun b => { b with active := 0 }) = true ∧
    (let l := { loadLaunch with header := BitVec.ofNat 2048 (loadLaunch.header.toNat + 2 ^ 32) }; l.boughsPer = 2) ∧ issues (.exit (ks 8 0 0 0)) = true ∧
    issues (.trap (ks 0 0 0xFFFF 0x11)) = true ∧ issues (.prio (ks 0 0 0 3)) = true := by decide +kernel
/-- ItemsTaken: the four courses of a refill; a deferral of two spans where there is room for each. -/
def refillCourse (fg : Grove → Grove) (fb : Bough → Bough) : Option Course :=
  let s := ((poised (.refill (ks 0 0 0 0)) fb).onGrove grove0 fg).begin key0 (decodeBundle (encode (.refill (ks 0 0 0 0))))
  if s.issuesTest (.refill (ks 0 0 0 0)) then s.ctx?.map (·.course) else none
theorem test_witness_items : refillCourse id id = some (.items 56) ∧ refillCourse (fun g => { g with held := [], reqOut := true }) id = some .wait ∧
    refillCourse (fun g => { g with queues := Vector.replicate 4 { head := 0, count := 32 } }) (fun b => { b with active := 0 }) = some (.batch 0 32) ∧
    issues (.defer (ks 1 0 8 3)) = true ∧ issues (.defer (ks 0 0 8 3)) = true := by decide +kernel
/-- The supply is empty: its one block is granted and handed out. -/
theorem test_witness_no_items :
    (let i := Instr.refill (ks 0 0 0 0)
     let s := ((onLoad (poised i) fun l => { l with supply := [1, 0, 0, 0, 0, 0, 0, 0] }).onGrove grove0 fun g => { g with held := [] }).begin key0 (decodeBundle (encode i))
     (if s.issuesTest i then s.ctx?.map (·.course) else none) = some .nothing) := by decide +kernel
/-- ControlRegisters: a read of each register that the statement names, a write of each writable one. -/
theorem test_witness_cregs : ([0x000, 0x001, 0x009, 0x00A, 0x010, 0x011, 0x012, 0x013, 0x014, 0x016, 0x017, 0x020, 0x021, 0x022, 0x030].all fun n =>
    issues (.csrr (ks 31 0 n 0))) = true ∧ ([0x000, 0x010, 0x017, 0x034].all fun n => issues (.csrw (ks 0 31 n 0))) = true ∧
    (({ Bough.initial 0 0 0 0 0 0 0 with loops := List.replicate 4 { count := 1, start := 0, last := 0 } }).level? 4).isSome = true := by decide +kernel

/-- An operation in flight of the loaded bough. -/
def gop (kind : OpKind) (lanes : List LaneReq) (dests : List Dest) : GOp :=
  { bough := key0, issued := 5, issuedCc := 20, order := 1, pc := 0x10000, asid := 1, kind := kind, queue := 0, flag := 31, bid := 1, iids := each 0,
    lanes := lanes, dests := dests, seq := 0, arg0 := 0, arg1 := 0, arg2 := 0, sent := false, numbered := none, applied := false, bad := false, ended := none, opseq := 0, snap := [], cut := 2 }
def req (lane stage : Nat) (fault : Option (Byte × DWord)) : LaneReq :=
  { lane := lane, part := 0, va := 0x10100, bytes := 4, data := 1, stage := stage, pa := 0, wid := 0, value := 7, fault := fault, flags := 0 }
def withOp (o : GOp) : State := { loaded with ops := [(1, o)], nextOp := 2 }
/-- Whether operation 1 is outstanding, and more. -/
def outstanding (s : State) (p : GOp → Bough → Grove → Launch → Bool) : Bool :=
  match tget s.ops 1 with
  | none => false
  | some o =>
    match s.bough? o.bough, s.grove? (groveOf o.bough), tget s.launches (launchOfKey o.bough) with
    | some b, some g, some l => g.life == .placed && g.launch == launchOfKey o.bough && l.life != .killed && decide (o.flag < l.flagBlock) &&
        (s.module (moduleOf g.die)).clocked && p o b g l
    | _, _, _ => false
theorem outstanding_witness {s : State} {p : GOp → Bough → Grove → Launch → Bool} (h : outstanding s p = true) :
    ∃ o b g l, s.Outstanding 1 o b g l ∧ p o b g l = true := by
  unfold outstanding at h
  split at h
  · cases h
  · rename_i o ho
    split at h
    · rename_i b g l hb hg hl
      simp only [Bool.and_eq_true, beq_iff_eq, bne_iff_ne, decide_eq_true_eq, and_assoc] at h
      exact ⟨o, b, g, l, ⟨ho, hb, hg, h.1, h.2.1, hl, h.2.2.1, h.2.2.2.1, h.2.2.2.2.1⟩, h.2.2.2.2.2⟩
    · cases h
/-- GlobalCompletions: each kind with every lane performed; one whose second lane faulted; fences and table reads with nothing before them. -/
theorem test_witness_completions :
    ([OpKind.load 4 false, .load 1 true, .atomg 0 false, .store, .red 0 false, .settle, .pref].all fun k =>
      outstanding (withOp (gop k [req 0 2 none, req 63 2 none] (match k with | .load _ _ | .atomg _ _ => [.vreg 6] | _ => []))) fun o _ _ _ =>
        decide (o.issued + 2 ≤ 10) && decide (o.arg0 ≤ 10) && o.lanes.all fun r => r.stage == 2 && r.fault.isNone && r.flags == 0) = true ∧
    outstanding (withOp (gop (.load 4 false) [req 0 2 none, req 63 2 (some (8, 0))] [.vreg 6])) (fun o _ _ _ => o.lanes.map (·.fault) == [none, some (8, 0)]) = true ∧
    ([OpKind.fence true true 5, .fence false true 2, .fence true false 0, .bld true, .bseq, .icinv].all fun k =>
      outstanding (withOp (gop k [] [.scalar 31])) fun o _ g l =>
        let s := withOp (gop k [] [.scalar 31])
        !l.replay && o.lanes.isEmpty && !s.heldByOp o.bough o.order && s.released o 5 g.die && s.readsDone o && (s.die g.die).appliedCc != s.cc + 1 &&
          s.storesHome o.bough o.order) = true := by decide +kernel
/-- AccessesPerformed: a lane at its home with its page in the TLB; a write that two dies have yet to apply. -/
def paged (k : OpKind) : State :=
  ((withOp (gop k [req 0 0 none] [.vreg 6])).onDie 0 fun x => { x with tlb := [{ asid := 1, va := 0, size := 2 ^ 30, pa := 0, w := true, x := true }] })
theorem test_witness_home : ([OpKind.load 4 false, .store, .atomg 0 false].all fun k => outstanding (paged k) fun o _ g l =>
    let s := paged k
    match o.lanes with
    | [r] =>
      !l.replay && r.stage == 0 && r.fault.isNone && s.memoryWf && decide (o.issued + 2 ≤ s.bc) && o.kind.access.isSome &&
        decide ((s.pageOf g.die o.asid r.va.toNat).toOption = some { asid := 1, va := 0, size := 2 ^ 30, pa := 0, w := true, x := true }) &&
        decide ((s.xlate g.die o.asid (o.kind.access.getD .read) r.va.toNat).toOption = some 0x10100) && paHome 0x10100 == g.die &&
        !s.heldByOp o.bough o.order && !s.heldByCopy o.bough o.order r.va.toNat && !s.queueHolds g.die o 0x10100 && !s.poisoned 0x10100 && r.bytes == 4
    | _ => false) = true := by decide +kernel
def sentWrite : Write := { origin := 0, clock := List.replicate 24 0, size := 4, cells := [(0x10100, 5)], old := [], home := 0, order := 1, todo := [1, 2], bough := key0 }
theorem test_witness_replicas : (let s : State := { loaded with writes := [(1, sentWrite)] }
    sentWrite.order ≠ 0 ∧ 1 ∈ sentWrite.todo ∧ 2 ∈ sentWrite.todo ∧ s.mayApply 1 sentWrite = true ∧ (s.die 1).playOn = false ∧
      (∀ l, tget s.launches (launchOfKey sentWrite.bough) = some l → l.replay = false) ∧ atHome 1 (paHome 0x10100) = false ∧ tget (s.die 1).rep 0x10100 = none) := by
  refine ⟨by decide, by decide, by decide, by decide +kernel, by decide +kernel, fun l h => ?_, by decide +kernel, by decide +kernel⟩
  have : (tget ({ loaded with writes := [(1, sentWrite)] } : State).launches (launchOfKey sentWrite.bough)).all (fun l => !l.replay) = true := by decide +kernel
  rw [h] at this; simpa using this
/-- MessagesArrive. -/
def withMsg (m : MsgKind) : State := { loaded with msgs := [(1, m)], nextOp := 2 }
theorem test_witness_messages : ([MsgKind.word grove0 7 (each 1) 30, .credit grove0 0 30, .postr 1 0 31 65535 key0 30].all fun m =>
    (withMsg m).oldestMsg 1 m && ((withMsg m).channelLost 30 grove0 7).isNone && !(withMsg m).postrEarlier 1 0 key0 && !(withMsg m).wayLost 30 (groveOf key0) grove0) = true ∧
    loadLaunch.named 0 = some 0 ∧ 31 < loadLaunch.flagBlock := by decide +kernel
/-- CopiesRun: a copy that waits, one that fills its partition, one refused, a cancel, a stamp. -/
def copyOf (form : CopyForm) (life : CopyLife) (refused : Bool) : CopyOp :=
  { bough := key0, issued := 2, issuedCc := 8, order := 1, pc := 0x10000, asid := 1, bid := 1, form := form, src := 0, src1 := 0, dst := 1 <<< 61, dst1 := 0, dst2 := 0,
    shape0 := 0x80001, shape1 := 0, idx := 0, named := 0, flag := 31, inc := 64, loc := 0, tag := 0, life := life, refused := refused, cancelled := false, awaits := [],
    preload := false, owns := none, progress := .start }
def copyOut (c : CopyOp) (p : State → Bool) : Bool :=
  let s : State := { loaded with copies := [(1, c)], nextOp := 2 }
  match s.bough? c.bough, s.grove? (groveOf c.bough), tget s.launches (launchOfKey c.bough) with
  | some _, some g, some l => g.life == .placed && g.launch == launchOfKey c.bough && l.life != .killed && decide (c.flag < l.flagBlock) && (s.module (moduleOf g.die)).clocked && c.loc == 0 && p s
  | _, _, _ => false
theorem copyOut_witness {c : CopyOp} {p : State → Bool} (h : copyOut c p = true) :
    ∃ b g l, State.CopyOut { loaded with copies := [(1, c)], nextOp := 2 } 1 c b g l ∧ p { loaded with copies := [(1, c)], nextOp := 2 } = true := by
  unfold copyOut at h
  dsimp only at h
  split at h
  · rename_i b g l hb hg hl
    simp only [Bool.and_eq_true, beq_iff_eq, bne_iff_ne, decide_eq_true_eq, and_assoc] at h
    exact ⟨b, g, l, ⟨rfl, hb, hg, h.1, h.2.1, hl, h.2.2.1, h.2.2.2.1, h.2.2.2.2.1, h.2.2.2.2.2.1⟩, h.2.2.2.2.2.2⟩
  · cases h
theorem test_witness_copies :
    copyOut (copyOf .plain .waiting false) (fun s => s.copyNext 1 (copyOf .plain .waiting false) 0 && decide (s.copiesRunning 0 < 32)) = true ∧
    copyOut (copyOf .fill .running false) (fun s => decide (spaceOf (copyOf .fill .running false).dst = 1) && decide ((copyOf .fill .running false).rows = 1) &&
      decide ((copyOf .fill .running false).rlen = 8) && loadLaunch.fpen == 0 && decide (10 ≤ s.bc)) = true ∧
    copyOut (copyOf .plain .empty true) (fun s => decide (4 ≤ s.bc)) = true ∧ copyOut (copyOf .plain .over true) (fun s => decide (4 ≤ s.bc)) = true ∧
    copyOut (copyOf .cancel .waiting false) (fun s => !s.heldByOp key0 1) = true ∧ copyOut (copyOf (.stamp 3) .waiting false) (fun s => !s.heldByOp key0 1) = true := by
  decide +kernel
/-- MatrixStages: an operation alone in its queue, before its fetch, before its operands, before its array, before its end; one refused. -/
def matOf (kind : MatKind) (fb ab : Option Nat) (fetched : Option Fetched) : MatOp :=
  { bough := key0, issued := 2, pc := 0x10000, asid := 1, bid := 1, iids := each 0, kind := kind, tile := 3, fsa := loadLaunch.fslot 0, fsb := loadLaunch.fslot 0,
    fsc := loadLaunch.fslot 0, da := 0, db := 0, idx := each 0, act := 0, mod := 0x80, flag := 31, inc := 64, tag := 0, seq := 0, fetched := fetched, fb := fb, ab := ab, shared := 0, seen := none,
    early := none, halt := none }
def readNothing (faults : List MatFault) : Fetched := { a := [], b := [], live := [], fetchCc := 0, arrayCc := 16, flags := 0, faults := faults }
def matOut (x : MatOp) : Bool :=
  match loaded.bough? x.bough, loaded.grove? (groveOf x.bough), tget loaded.launches (launchOfKey x.bough) with
  | some _, some g, some l => g.life == .placed && g.launch == launchOfKey x.bough && decide (x.flag < l.flagBlock) && x.tag == 0 &&
      (loaded.module (moduleOf g.die)).clocked
  | _, _, _ => false
theorem test_witness_matrix : matOut (matOf .mma none none none) = true ∧ matOut (matOf .mma (some 3) none none) = true ∧
    matOut (matOf .mzero (some 3) none (some (readNothing []))) = true ∧ matOut (matOf .mzero (some 3) (some 4) (some (readNothing []))) = true ∧
    matOut (matOf .mma (some 3) (some 4) (some (readNothing [{ cause := 9, va := some 0, aux := 0, lanes := 0 }]))) = true ∧
    (loaded.tileDue (matOf .mzero (some 3) none none)) = false ∧ loadLaunch.life ≠ .killed ∧ 4 + (16 + 3) / 4 + 2 ≤ loaded.bc := by decide +kernel
/-- PhaseEvents: a bough that waits for a free phase; one past its limit; requests of two boughs to the compatibility unit. -/
theorem test_witness_phase_events :
    (let s := loaded id fun b => { b with phase := none }
     s.clocked 0 = true ∧ s.phaseFree 0 3 = true ∧ (s.nextGrant 0).map (·.1) = some key0) ∧
    (let s := loaded id fun b => { b with grantCc := 0 }
     (theBough { s with cc := 2 ^ 24 }).any (fun b => b.phase.isSome && decide (b.grantCc + loadLaunch.wdog ≤ 2 ^ 24) && !b.tstatIn && b.tvec != 0) = true) := by decide +kernel
/-- A request of one bough, where the unit finds no error in its own state. -/
def atCrc : State := onLoad (poised (.crc (v2 .u32))) (oldRev 2)
def crcBough : Bough := (theBough atCrc).getD (Bough.initial 0 0 0 0 0 0 0)
def crcGrove : Grove := (theGrove atCrc).getD (Grove.initial 0 0 0 0 0 0 0 0 0 [])
theorem presents_compat {s : State} {k : Nat} {b : Bough} {g : Grove} (h : s.compatFault g.die = false)
    (r : (b.phase.isSome && decide (b.earliest ≤ s.bc) && decide (b.grantBc ≤ s.bc) && b.compatAt.isNone && (b.pendNow s.bc).isNone && s.clocked g.core &&
      (match s.bundleOf k, s.launchOf g with
        | .error _, _ | _, none => false
        | .ok bd, some l => asksCompat bd && !(bd.d && b.stretchEnd.isNone && !b.dbgSkip) && decide (4 * s.bc + b.phase.getD 0 < b.grantCc + l.wdog) &&
          (match (s.begin k bd).ctx? with
            | none => false
            | some c => (c.bundleCause bd (b.dsLeft != 0)).isNone && (c.bundleLater (bundleOps bd)).isNone &&
                (b.stretchEnd.isSome || c.finiteStretch (bundleOps bd) == 0) && !s.openHolds c (bundleOps bd)))) = true) :
    s.presentsCompat k b g = true := by
  unfold State.presentsCompat
  rw [h, Bool.not_false, Bool.and_true]
  exact r
theorem test_witness_compat (h : Config.compatError 0 0 = false) : (atCrc.compatRequests 0).map (·.2) = [key0] := by
  have hf : atCrc.compatFault 0 = false := by
    have : (atCrc.module 0).compDis.getLsbD 0 = false := by decide +kernel
    have c : atCrc.cc = 0 := by decide +kernel
    unfold State.compatFault
    rw [c, h]
    exact this
  have hp : atCrc.presentsCompat key0 crcBough crcGrove = true := presents_compat hf (by decide +kernel)
  have hb : atCrc.boughs = [(key0, crcBough)] := by decide +kernel
  have hg : atCrc.grove? crcBough.grove = some crcGrove := by decide +kernel
  have hd : crcGrove.die = 0 := by decide +kernel
  unfold State.compatRequests
  rw [hb]
  simp only [List.filterMap_cons, List.filterMap_nil, hg, hd, hp]
  decide

/-- The bytes of a number of 256 bytes that are not zero, as cells from an address up. -/
def cellsAt (a n : Nat) : Memory := ((bytesOfNat 256 n).zipIdx.map fun x => (a + x.2, x.1)).filter fun c => c.2 != 0
/-- A module that runs, with a record and a header in its memory, whose page stands in die 0's TLB. -/
def withRecord (r : Nat) : State :=
  { loaded with mem := cellsAt 0x30000 (loadRecord.toNat + r + 0x50000) ++ cellsAt 0x50000 loadHeader.toNat, launches := [], groves := [], boughs := [],
                dies := [(0, { Die.initial with tlb := [{ asid := 1, va := 0, size := 2 ^ 30, pa := 0, w := true, x := true }] })],
                msgs := [(1, .submit 0 48 0x30000 1 0)], nextOp := 2 }
/-- RecordsAccepted: a doorbell with room and without; a record that is good, one that is not (a reserved bit of CTL is set); a head of a queue
without predecessors. -/
theorem test_witness_doorbell : ((loaded).module 0).mstate = 1 ∧ (((loaded).module 0).queue 48).length < 16 ∧
    16 ≤ (((loaded.onModule 0 fun x => { x with queues := [(48, List.range 16)] }).module 0).queue 48).length := by decide +kernel
theorem judge_good {s : State} {m q asid : Nat} {va : DWord} {r h : List Byte} {R H : BitVec 2048}
    (hr : s.readVa (32 * m) asid va.toNat 256 = .ok r) (wr : wideNum r = R) (hk : s.readVa (32 * m) asid (Launch.initial m q asid va R 0 []).kaddr.toNat 256 = .ok h)
    (wh : wideNum h = H) (c : let b := Launch.initial m q asid va R 0 []
      let l := { b with header := H, module := b.mfirst }
      (b.recordSound && decide (b.kaddr.toNat % 256 = 0) && l.headerSound && l.slotsSound && l.regionSound && l.gridSound s.moduleCount &&
        (l.span.all fun p => (s.module p).domain == l.tdom) && l.nparam == 0 && { l with params := [] }.paramsSound) = true)
    (hp : ∃ ps, s.readVa (32 * m) asid (recField (Launch.initial m q asid va R 0 []).record 8 8) 0 = .ok ps) : ∃ l, s.judge m q asid va = .good l := by
  obtain ⟨ps, hp⟩ := hp
  simp only [Bool.and_eq_true, decide_eq_true_eq, beq_iff_eq, and_assoc] at c
  obtain ⟨c1, c2, c3, c4, c5, c6, c7, c8, c9⟩ := c
  unfold State.judge
  dsimp only
  rw [hr]
  dsimp only
  rw [wr]
  simp only [c1, c2, if_true, hk, wh, c3, c4, c5, c6, c7, Bool.not_true, Bool.false_eq_true, if_false, c8, Nat.mul_zero, hp, List.range_zero, List.map_nil]
  exact ⟨_, if_pos c9⟩
theorem test_witness_good_record : (withRecord 0).submitReady 1 0 0 = true ∧ tget (withRecord 0).launches 7 = none ∧
    ∃ l, (withRecord 0).judge 0 48 1 0x30000 = .good l ∧ (withRecord 0).joined 0 48 l.asid l = none := by
  obtain ⟨l, h⟩ := judge_good (s := withRecord 0) (m := 0) (q := 48) (asid := 1) (va := 0x30000) (r := bytesOfNat 256 (loadRecord.toNat + 0x50000))
    (h := bytesOfNat 256 loadHeader.toNat) (R := BitVec.ofNat 2048 (loadRecord.toNat + 0x50000)) (H := loadHeader) (ok_of_toOption (by decide +kernel))
    (by decide +kernel) (ok_of_toOption (by decide +kernel)) (by decide +kernel) (by decide +kernel) ⟨[], ok_of_toOption (by decide +kernel)⟩
  exact ⟨by decide +kernel, by decide +kernel, l, h, rfl⟩
/-- A record with the reserved bit 223 set: REASON 1. -/
theorem test_witness_bad_record : ∃ e, (withRecord (2 ^ 223)).judge 0 48 1 0x30000 = .refused 1 e := by
  have hr : (withRecord (2 ^ 223)).readVa 0 1 0x30000 256 = .ok (bytesOfNat 256 (loadRecord.toNat + 2 ^ 223 + 0x50000)) := ok_of_toOption (by decide +kernel)
  have wr : wideNum (bytesOfNat 256 (loadRecord.toNat + 2 ^ 223 + 0x50000)) = BitVec.ofNat 2048 (loadRecord.toNat + 2 ^ 223 + 0x50000) := by decide +kernel
  have c : (Launch.initial 0 48 1 0x30000 (BitVec.ofNat 2048 (loadRecord.toNat + 2 ^ 223 + 0x50000)) 0 []).recordSound = false := by decide +kernel
  have hr' : (withRecord (2 ^ 223)).readVa (32 * 0) 1 (0x30000 : DWord).toNat 256 = .ok (bytesOfNat 256 (loadRecord.toNat + 2 ^ 223 + 0x50000)) := hr
  unfold State.judge
  dsimp only
  rw [hr']
  dsimp only
  rw [wr]
  simp only [c, Bool.not_false, if_true]
  exact ⟨_, rfl⟩
/-- A launch accepted and not placed, alone in its queue. -/
def queued (f : Launch → Launch) : State :=
  { (loaded.onModule 0 fun x => { x with queues := [(48, [1])], ready := [1] }) with
    launches := [(1, f { loadLaunch with life := .queued, placedGroves := 0, shares := [(0, { next := 0, last := 1, begun := false })] })], groves := [], boughs := [] }
theorem test_witness_heads : (((queued id).module 0).queue 48).head? = some 1 ∧ loadLaunch.npred = 0 ∧ ((queued id).nextQueue 0).map (·.1) = some 48 ∧
    loadLaunch.det = false ∧ ((queued id).module 0).pstate = 0 := by decide +kernel
/-- One predecessor, whose word at 0x5000 reads DONE or not. -/
def onePred (l : Launch) : Launch := { l with record := BitVec.ofNat 2048 (l.record.toNat + 2 ^ 216 + 0x5000 * 2 ^ 448) }
theorem test_witness_predecessor :
    (((queued onePred).launches.head?.map (·.2)).map fun l => (l.npred, l.pred 0)) = some (1, 0x5000) ∧
    ((queued onePred).readVa 0 1 0x5000 8).toOption = some (bytesOfNat 8 0) ∧
    (({ queued onePred with mem := writeBytes (queued onePred).mem 0x5000 [1] }).readVa 0 1 0x5000 8).toOption = some (bytesOfNat 8 1) := by decide +kernel
/-- GrovesPlaced: a grove to place on a core with room; a block granted, and none left. -/
theorem test_witness_placement :
    (let s := queued fun l => { l with life := .placing, shares := [(0, { next := 0, last := 1, begun := true })] }
     ((moduleCores 0).findSome? fun core => (s.launches.head?.map (·.2)).bind fun l => s.roomOn core l []).map (·.core) = some 0 ∧
     (s.freeContexts 0 1).length = 1 ∧ loadLaunch.chanp = 0xFF ∧ loadLaunch.pren = false) ∧
    (theGrove (loaded fun g => { g with reqOut := true })).any (fun g => g.reqOut && g.life == .placed) = true ∧
    64 * loadLaunch.supply.getD 0 0 < loadLaunch.items 0 ∧ ({ loadLaunch with supply := [1, 0, 0, 0, 0, 0, 0, 0] }).items 0 ≤ 64 * 1 := by decide +kernel
/-- LaunchesEnd: a launch whose one grove has ended; one that drains; a kill of a launch; one killed with nothing under way. -/
def ended (f : Launch → Launch) : State :=
  onLoad (loaded (fun g => { g with life := .ended, held := [] }) fun b => { b with status := .halted, phase := none }) fun l =>
    f { l with supply := [1, 0, 0, 0, 0, 0, 0, 0], endedGroves := 1 }
theorem test_witness_launch_ends :
    ((ended id).launches.head?.map (·.2)).any (fun l => l.life == .placing && (ended id).launchDone 1 l && !l.det && l.evt == 0) = true ∧
    (ended fun l => { l with life := .draining }).writesOut 1 = false ∧ pcmdLaunch 3 0x10003 = some 1 ∧ (loaded.module 0).mstate = 1 ∧
    loaded.hostWritesOut 0 = false ∧ (ended fun l => { l with life := .killed }).opsOut 1 = false ∧ (loaded.core 0).stamps = [] := by decide +kernel
/-- A launch with a word at EVT. -/
theorem test_witness_evt : ((loaded.writeVa 0 1 0x5000 (bytesOfNat 8 1)).toOption).isSome = true ∧
    (let l := { loadLaunch with record := BitVec.ofNat 2048 (loadLaunch.record.toNat + 0x5000 * 2 ^ 384) }; l.evt = 0x5000) := by decide +kernel
/-- PreEmption: commands for a launch and for a grove; a grove whose boughs are at rest. -/
theorem test_witness_preemption : pcmdLaunch 1 0x10001 = some 1 ∧ pcmdLaunch 2 0x10002 = some 1 ∧ loadLaunch.named (loaded.module 0).parg = some 0 ∧
    (theGrove loaded).any (fun g => g.life == .placed && moduleOf g.die == 0 && g.launch == 1) = true ∧
    (let s := loaded (fun g => { g with life := .stopping, saveAt := some 0x100000 }) fun b => { b with status := .stopped 9, phase := none }
     (theGrove s).any (fun g => s.saveReady grove0 g) = true) := by decide +kernel

/-- Module 0 and its neighbours run; a change to module 0. -/
def modules (f : Module → Module) : State := State.reset.onModule 0 fun x => f { x with mstate := 1 }
/-- Port 0 of face 0 of module 0, its peer, and a link of die 0. -/
def port0 : Nat := portKey 0 0 0
def dieLink0 : Nat := dieLinkKey 0 0
/-- LinkTraffic: a lit link end, one whose peer is dark, a NAK that arrives with and without something to replay, a multicast entry, an end that fails. -/
theorem test_witness_link : State.reset.maySend (peerEnd port0) = true ∧ (State.reset.link port0).down = false ∧
    (State.reset.module (linkModule port0)).fabricUp = true ∧
    (∀ i ∈ wavesOf (State.reset.link (peerEnd port0)).active, (State.reset.link port0).light.getLsbD i = true) ∧
    (∃ i ∈ wavesOf (State.reset.link (peerEnd port0)).active, ((State.reset.onLink port0 fun x => { x with light := 0x0FFF }).link port0).light.getLsbD i = false) ∧
    State.reset.maySend (peerEnd dieLink0) = true ∧ isPort port0 = true ∧ isPort dieLink0 = false := by decide +kernel
/-- Damage to any flit that its CRC does not let pass: of two words that differ in the CRC alone one at most is sound. -/
theorem test_witness_damage (y : BitVec 2688) : ∃ damage, imageSound (y ^^^ damage) = false := by
  have same : (bytesOfNat 336 (0#2688).toNat).take 12 ++ (bytesOfNat 336 (0#2688).toNat).drop 16 =
      (bytesOfNat 336 (1#2688 <<< 96).toNat).take 12 ++ (bytesOfNat 336 (1#2688 <<< 96).toNat).drop 16 := by decide +kernel
  have c0 : BitVec.ofNat 32 (natOfBytes (((bytesOfNat 336 (0#2688).toNat).drop 12).take 4)) = 0 := by decide +kernel
  have c1 : BitVec.ofNat 32 (natOfBytes (((bytesOfNat 336 (1#2688 <<< 96).toNat).drop 12).take 4)) = 1 := by decide +kernel
  by_cases h : imageSound 0#2688 = false
  · exact ⟨y, by rw [BitVec.xor_self]; exact h⟩
  · refine ⟨y ^^^ (1#2688 <<< 96), ?_⟩
    rw [← BitVec.xor_assoc, BitVec.xor_self, BitVec.zero_xor]
    unfold imageSound at h ⊢
    dsimp only at h ⊢
    rw [c0] at h
    rw [c1, ← same]
    have := eq_of_beq (Bool.not_eq_false _ ▸ h)
    rw [this]
    rfl
def flitOf (seq : BitVec 24) : Flit := { Flit.idle with seq := seq, kind := 1, da := 1 }
theorem test_witness_link_data :
    (let s := State.reset.onLink (peerEnd port0) fun x => { x with queue := [flitOf 0] }
     ((s.takeFlit (peerEnd port0)).1.kind = 1 ∧ (s.takeFlit (peerEnd port0)).1.seq = (s.link port0).rxSeq + 1)) ∧
    (let s := (State.reset.onLink (peerEnd port0) fun x => { x with queue := [flitOf 0] }).onLink port0 fun x => { x with rxSeq := 1 }
     ((s.takeFlit (peerEnd port0)).1.seq ≠ (s.link port0).rxSeq + 1 ∧ ackCovers (s.link port0).rxSeq (s.takeFlit (peerEnd port0)).1.seq = true)) ∧
    ((State.reset.onLink (peerEnd port0) fun x => { x with nakOwed := true }).takeFlit (peerEnd port0)).1.nak = true := by decide +kernel
theorem test_witness_naks :
    (let x : Link := { Link.initial with naks := [3], unacked := [flitOf 4, flitOf 5], attempts := 7 }
     x.naks = [3] ∧ (Link.acked { x with naks := [] } 3).unacked ≠ [] ∧ 7 ≤ (Link.acked { x with naks := [] } 3).attempts) ∧
    (let x : Link := { Link.initial with naks := [5], unacked := [flitOf 4, flitOf 5] }
     (Link.acked { x with naks := [] } 5).unacked = []) ∧
    (({ Die.initial with mcast := [(0, { flit := flitOf 1, cameBy := none, owed := [(dieLink0, [1])] })] }).mcast.lookup 0).isSome = true ∧
    isPort port0 = true ∧ isPort dieLink0 = false := by decide +kernel
/-- LinkLight: light lost and back, a notice, the end of a pause, a write that parks three groups and one that would park all, a wake. -/
theorem test_witness_light : (State.reset.link (peerEnd port0)).active.getLsbD 3 = true ∧
    ((State.reset.onLink (peerEnd port0) fun x => { x with active := 7 }).link (peerEnd port0)).active.getLsbD 3 = false ∧
    ((State.reset.onLink port0 fun x => { x with light := 0 }).link port0).light &&& groupLight 3 ≠ groupLight 3 ∧
    lctlOk 0x00000000200E0001 = true ∧ (0xF &&& ~~~(0xE#4)) ≠ 0 ∧ lctlOk 0x00000000000F0001 = true ∧ (State.reset.module (linkModule port0)).answers false = true ∧
    (let x : Link := { Link.initial with wthr := 1, parked := 2, queue := [flitOf 0, flitOf 0] }
     x.wthr ≠ 0 ∧ x.wthr.toNat < x.queue.length ∧ x.parked &&& ~~~x.waking ≠ 0) := by decide +kernel
theorem test_witness_light_lists :
    (({ Link.initial with notices := [(3, 0)], failed := 7 }).failed ||| BitVec.ofNat 4 (2 ^ 3)) = 0xF ∧ (Link.initial.failed ||| BitVec.ofNat 4 (2 ^ 3)) ≠ 0xF ∧
    ({ Link.initial with parkWanted := some 0xE }).active &&& ~~~0xE#4 &&& ~~~Link.initial.failed ≠ 0 := by decide

/-- BeaconTables: a bpub and a bbar whose release is done, their module in a group or its own; a frame of each type; writes of BCFG. -/
def inGroup (x : Module) : Module := { x with bcfg := 0x0000000000010001 }
theorem test_witness_enqueue : ([OpKind.bpub 3, .bbar 0xFFE 2].all fun k => outstanding (withOp (gop k [] [])) fun o _ g _ =>
    let s := withOp (gop k [] [])
    (s.opHome o.bough).isSome && !o.sent && o.performed s.bc && s.released o 4 g.die && !s.heldByOp o.bough o.order && !s.heldBar o &&
      !(s.module (moduleOf g.die)).bcfg.getLsbD 0 && (s.diesJoined 0 23)) = true ∧ (inGroup Module.initial).bcfg.getLsbD 0 = true := by decide +kernel
def groupFrame (type : Nat) (q : Word) (payload : Nat) : BitVec 512 := (inGroup Module.initial).frame 0 0 type 0 q payload
theorem test_witness_frames : frType (groupFrame 1 1 0) = 1 ∧ frType (groupFrame 2 1 0) = 2 ∧ frType (groupFrame 3 1 0) = 3 ∧
    ([0, 1, 2, 3].all fun n => frField (groupFrame 1 1 (n * 2 ^ 12)) 108 3 == n) = true ∧ frField (groupFrame 2 1 (5 + 2 ^ 32)) 128 16 = 1 ∧
    (Module.initial.joining = false) ∧ (Die.initial).appliedCc ≠ 0 + 1 ∧ (Die.initial).playOn = false := by decide +kernel
theorem test_witness_bcfg : bcfgOk 0x0000000000010001 = true ∧ bcfgOk 0 = true ∧ bcfgOk 0x0000000000000001 = false ∧ bcfgFixed 0x10001 0x20001 = true ∧
    (Module.initial.answers false) = true ∧ (0x10001 &&& ~~~1#64 : DWord) = 0x10000 := by decide +kernel
/-- BeaconTurns: the holder's turn with nothing and with one frame to send; each frame in order, one too early, one spoilt; silence. -/
def holding (q : List QFrame) : State := modules fun x => { inGroup x with lamp := some { seq := 0, lampc := 0, recov := false, since := 0 }, formed := true, sendQ := q }
theorem test_witness_turn : (let s : State := { holding [] with cc := 10000 }; (s.module 0).ccOf (s.module 0).guard ≤ s.cc ∧ s.takesPart 0 = true ∧ s.groupMembers 0 = [0]) ∧
    ({ type := 1, sdie := 0, payload := 0, op := 0 } : QFrame).type = 1 ∧ tget (holding []).ops 0 = none := by decide +kernel
def arrives (f : BitVec 512) : State := modules fun x => { inGroup x with formed := true, air := [f] }
theorem test_witness_reception : ([groupFrame 0 0 0, groupFrame 1 1 0, groupFrame 1 2 0, groupFrame 2 1 (2 ^ 32), groupFrame 4 0 (2 ^ 32)].all fun f =>
    let s := arrives f
    s.takesPart 0 && ((s.module 0).frameOk (s.applied0 0) (s.module 0).lampc.toNat f) && !((s.module 0).frameOk (s.applied0 0) 0 (f ^^^ 1#512 <<< 511))) = true ∧
    frSeq (groupFrame 1 1 0) = 0 + 1 ∧ frSeq (groupFrame 1 2 0) = 0 + 2 := by decide +kernel
/-- A RESEND from another member; a member that has waited. -/
theorem test_witness_resend : (let f := ({ inGroup Module.initial with bcfg := 0x0000000000020101 }).frame 0 0 4 0 0 (2 ^ 32)
    frSrc f = 1 ∧ (modules inGroup |>.module 0).member = 0 ∧ ((modules inGroup).module 0).frameOk 0 0 f = true) ∧
    (let s : State := { modules (fun x => { inGroup x with bcfg := 0x0000000000020101, formed := true }) with cc := 10 ^ 9 }
     s.takesPart 0 = true ∧ ((s.module 0).regenAt).any (fun n => decide (n ≤ s.cc)) = true) := by decide +kernel

/-- SpdmExchange: a requester's exchange with a module, attesting and not, before and after its algorithms, keyed. -/
def sessionOf (x : Session) : State := (State.reset.onModule 1 fun m => { m with tstate := 1, tcfg := 0x0001000000000101 }).onModule 0 fun m =>
  { m with tstate := 2, tcfg := 0x0001000000000003, tdomain := 1, tslot := 0, sessions := [(1, x)] }
theorem test_witness_spdm : ((sessionOf Session.none).module 1).trustUp = true ∧ (sessionOf Session.none).attesting 1 0 = true ∧
    (sessionOf Session.none).attesting 1 2 = false ∧ ((sessionOf Session.none).session 0 1).stage < 3 ∧
    (let x : Session := { stage := 8, error := false, caps := [], certOk := true, measured := [1, 2, 3, 4], keyed := true, secured := false }
     let s := sessionOf x
     3 ≤ (s.session 0 1).stage ∧ (s.session 0 1).keyed = true ∧ (s.module 0).rekey = none ∧ (s.session 0 1).certOk = true ∧
       (∀ n ∈ [1, 2, 3, 4], n ∈ (s.session 0 1).measured) ∧ (s.module 0).slots.getLsbD (s.module 1).slot = false ∧ (s.session 0 1).measured.Nodup) ∧
    (sessionOf Session.none |>.module 1).domain = 0 := by decide +kernel
/-- TrustKeys: a leader in its domain with slots 0 and 1, a member; a re-key under way. -/
def rekeyOf (got sent : Bool) : Rekey := { epoch := 2, slots := 3, seq := 0, got := got, appliedCc := some 0, barSent := sent, arrived := [1] }
def inDomain (r : Option Rekey) : State :=
  (State.reset.onModule 1 fun m => { inGroup m with tstate := 2, tcfg := 0x0001000000000101, tdomain := 1, tslot := 1, epoch := 1, keys := [(1, 5)], slots := 3, rekey := r, formed := true }).onModule 0
    fun m => { inGroup m with tstate := 2, tcfg := 0x0001000000000003, tdomain := 1, tslot := 0, epoch := 1, keys := [(1, 5), (2, 6)], slots := 3, rekey := r, formed := true }
theorem test_witness_trust : (let s := inDomain none
    (s.module 0).leads = true ∧ (s.module 0).domain ≠ 0 ∧ (s.module 0).rekey = none ∧ (3#64).getLsbD (s.module 0).slot = true ∧ (s.module 1).domain ≠ 0 ∧
      s.leaderOf (s.module 1).tdom = some 0 ∧ (s.module 1).tcfg.getLsbD 0 = true ∧ s.leaderOf (s.module 0).domain = some 0 ∧ (0 : Nat) < 4) ∧
    (let s := inDomain (some (rekeyOf false false)); 1 ∈ s.rekeyTargets 0 3 ∧ (s.module 1).trustUp = true) ∧
    (let s := inDomain (some (rekeyOf true false)); s.drained 0 (rekeyOf true false) = true ∧ (s.module 0).bcfg.getLsbD 0 = true) ∧
    (let s : State := { inDomain (some (rekeyOf true true)) with cc := 10 ^ 13 }
     0 + (s.module 0).drainCc ≤ s.cc ∧ (s.die 0).closed ≠ (s.module 0).epoch) := by decide +kernel
/-- A member that has left its module's TCFG; a TSEQ at its limit; a REKEY frame to receive; writes of TCFG. -/
theorem test_witness_trust_more :
    (let s := (inDomain none).onModule 1 fun m => { m with tcfg := 0x0001000000000100 }
     (s.module 1).domain ≠ 0 ∧ s.leaderOf (s.module 1).tdom = some 0 ∧ (s.module 1).tcfg.getLsbD 0 = false) ∧
    (let s := (inDomain none).onDie 0 fun d => { d with tseq := [(4 * 1 + 3, 2 ^ 53)] }; 2 ^ 53 ≤ tgetD (s.die 0).tseq (4 * s.sendEpoch 0 + 3) 0) ∧
    tcfgOk 0 0x0001000000000003 = true ∧ tcfgOk 0 0x0001000000000001 = true ∧ tcfgOk 0x0001000000000001 0x0001000000000000 = true ∧ tcfgOk 0 0x80 = false ∧
    Module.initial.answers true = true ∧ Module.initial.domain = 0 ∧
    (let f : BitVec 512 := BitVec.ofNat 512 (packFields [(3, 32, 8), (2, 96, 16), (1, 128, 64)])
     frField f 96 16 = 2 ∧ (BitVec.ofNat 64 (frField f 128 64)).getLsbD ((inDomain none).module 0).slot = true ∧
       tget ((inDomain none).module 0).keys 2 = some 6) := by decide +kernel
/-- RecordEngine: LOGCTL enabled from off, refused, LOGRD in a gap, a clock wrap; TRCTL; a trace record; a stopped bough; a frozen module. -/
theorem test_witness_log : (let x : Die := { Die.initial with logBase := 0x10000 }
    x.logctlOk 0x81 = true ∧ x.logOn = false ∧ x.logctlOk 0x79 = false) ∧ Module.initial.answers false = true ∧
    (let x : Die := { Die.initial with logCtl := 0x81, gap := true }
     x.gap = true ∧ x.logSize / 4 ≤ Die.logFree { x with logRd := 0 } ∧ 64 ≤ x.logFree ∧ x.logOn = true) ∧
    (0 : Nat) % 2 ^ 40 = 0 ∧ trctlOk (BitVec.ofNat 64 (16 * 2 ^ 22)) = true ∧ trctlOk 0 = false := by decide +kernel
theorem test_witness_trace : (let s := loaded.onDie 0 fun x => { x with pending := [{ bits := 1, bough := key0 }], trCtl := 0x0000000104000001, trBase := 0x10000 }
    (s.die 0).pending ≠ [] ∧ s.clocked 0 = true ∧ (s.die 0).lossDue = false ∧ (s.die 0).trAsid = 1) := by decide +kernel
theorem test_witness_debug : dbgrunOk 0x20000 = true ∧ dbgrunOk 0x10000 = true ∧ ((loaded id fun b => { b with status := .debug }).bough? key0).any
    (fun b => b.status == .debug && b.ctx == 0) = true ∧ mctlOk 0x100 = true ∧ Module.initial.clocked = true ∧
    (let s := loaded.onModule 0 fun x => { x with frozenAt := some 40 }; (s.portBytes 0 3 40).isSome = true) := by decide +kernel
/-- ResetAndPower: no grove on the module; a reset, a power state, firmware that is absent and of a page; a die at 105 and at 115 degrees. -/
theorem test_witness_power : State.reset.grovesOn 0 = [] ∧ loaded.grovesOn 0 = [grove0] ∧ mctlOk (1 <<< 63) = true ∧ mctlOk 2 = true ∧ (2 : Nat) ≠ 0 ∧
    State.reset.launchPlaced 0 = false ∧ Module.initial.preq ≠ 3 ∧ (State.reset.reading 23 1680 0).tooHot 0 = true ∧ (State.reset.reading 0 0 0).tooHot 0 = false ∧
    (Module.initial.mstate = 0) := by decide +kernel
/-- HostAccess: an invalidation asked for and one at its turn; the window; registers. -/
theorem test_witness_host : (0xFFFF : DWord).toNat < 2 ^ 16 ∧ (({ Module.initial with invals := List.replicate 8 (0, 0, 0) }).invals).length = 8 ∧
    (let s := loaded.onModule 0 fun x => { x with invals := [(1, 0, 2 ^ 30)] }; s.translatedOut 0 1 0 (2 ^ 30) = false) ∧
    Sys2Proof.Machine.windowOk 0 64 = true ∧ Sys2Proof.Machine.windowOk (2 ^ 26 - 1) 1 = true ∧ (loaded.module 0).windowOn = true ∧ (loaded.module 0).frozenAt = none ∧
    Module.initial.windowOn = false := by decide +kernel
/-! ### A resumption

The bytes read through one page that stands in die 0's TLB at its own addresses, for an image too long to read one by one. -/

/-- The page of the loaded system in die 0's TLB. -/
def pageZero : TlbEntry := { asid := 1, va := 0, size := 2 ^ 30, pa := 0, w := true, x := true }
theorem byte_of_page {s : State} (t : (s.die 0).tlb = [pageZero]) (p : s.poison = []) (c : 0 < s.moduleCount) (a : Nat) (h : a < 2 ^ 30) :
    s.xlate 0 1 .read a = .ok a ∧ s.poisoned a = false ∧ s.pathCause 0 (paHome a) (some (paLocal a)) = none ∧ s.viewByte 0 a = readByte s.mem a := by
  have hh : paHome a = 0 := by unfold paHome; omega
  refine ⟨?_, by simp [State.poisoned, p], by rw [hh]; simp [State.pathCause, State.sentCause, State.reaches, State.trusted], by rw [State.viewByte, hh]; rfl⟩
  have h1 : ¬ a ≥ 2 ^ 57 := by omega
  have h2 : a % 2 ^ 30 = a := Nat.mod_eq_of_lt h
  have h3 : s.pageOf 0 1 a = .ok pageZero := by unfold State.pageOf; rw [t]; simp only [List.find?_cons, pageZero]; simp [show a < 1073741824 from h]
  have h4 : s.paOk a = true := by
    have : a / 2 ^ 37 = 0 := Nat.div_eq_of_lt (by omega)
    simp only [State.paOk, hh, this, Bool.and_eq_true, decide_eq_true_eq, beq_iff_eq]
    exact ⟨⟨⟨by omega, trivial⟩, by decide⟩, by omega⟩
  unfold State.xlate
  rw [if_neg h1, h3]
  simp only [pageZero, Nat.zero_add, h2, h4]
  rfl
theorem readVa_of_page {s : State} (t : (s.die 0).tlb = [pageZero]) (p : s.poison = []) (c : 0 < s.moduleCount) (va n : Nat) (h : va + n ≤ 2 ^ 30) :
    s.readVa 0 1 va n = .ok (readBytes s.mem va n) := by
  unfold State.readVa readBytes
  have : ∀ xs : List Nat, (∀ i ∈ xs, va + i < 2 ^ 30) → xs.foldr (fun i acc =>
      match s.xlate 0 1 .read (va + i) with
      | .error f => .error f
      | .ok pa =>
        if s.poisoned pa then .error (lineFault .uncorrectable pa)
        else
          match s.pathCause 0 (paHome pa) (some (paLocal pa)), acc with
          | some c, _ => .error (wayFault c pa)
          | none, .ok xs => .ok (s.viewByte 0 pa :: xs)
          | none, .error f => .error f) (Except.ok []) = .ok (xs.map fun i => readByte s.mem (va + i)) := by
    intro xs hx
    induction xs with
    | nil => rfl
    | cons i xs ih =>
      obtain ⟨h1, h2, h3, h4⟩ := byte_of_page t p c (va + i) (hx i (by simp))
      rw [List.foldr_cons, ih fun j hj => hx j (by simp [hj]), h1]
      simp only [h2, h3, h4]
      rfl
  exact this _ fun i hi => by rw [List.mem_range] at hi; omega
/-- A kernel without tiles and tables and with 4 KiB of scratchpad, and its one grove saved at 0x100000; its bough stopped, or halted. -/
def smallHeader : BitVec 2048 := BitVec.ofNat 2048 (loadHeader.toNat - 4 * 2 ^ 48 - 4 * 2 ^ 56 - 2 ^ 20 * 2 ^ 64 + 2 ^ 12 * 2 ^ 64)
def saved (life : Status) : State :=
  { (onLoad (loaded (fun g => { g with life := .saved, saveAt := some 0x100000 }) fun b => { b with status := life, phase := none })
      fun l => { l with header := smallHeader }) with
    dies := [(0, { Die.initial with tlb := [pageZero] })]
    mem := [(0x100000, 3), (0x100002, 1), (0x100010, 1), (0x300000, 3), (0x300001, 3)] ++ numCells 0x300440 8 (2 ^ 64 - 1) }
/-- Bytes read 256 at a time. -/
def readPages (m : Memory) : Nat → Nat → List Byte
  | _, 0 => []
  | a, n + 1 => readBytes m a 256 ++ readPages m (a + 256) n
theorem readPages_eq (m : Memory) (n a : Nat) : readPages m a n = readBytes m a (256 * n) := by
  induction n generalizing a with
  | zero => rfl
  | succ n ih =>
    rw [readPages, ih, Nat.mul_succ, Nat.add_comm (256 * n), readBytes, readBytes, readBytes, List.range_add, List.map_append, List.map_map]
    simp only [Function.comp_def, Nat.add_assoc]
theorem natOfBytes_zeros (xs : List Byte) (n : Nat) : natOfBytes (xs ++ List.replicate n 0) = natOfBytes xs := by
  induction xs with
  | nil =>
    induction n with
    | zero => rfl
    | succ n ih => rw [List.nil_append] at ih ⊢; show 0 + 256 * natOfBytes (List.replicate n 0) = 0; rw [ih]; rfl
  | cons x xs ih => rw [List.cons_append, natOfBytes, natOfBytes, ih]
/-- Zero bytes at the end of an image say nothing. -/
theorem numAt_zeros (xs : List Byte) (n off k : Nat) : numAt (xs ++ List.replicate n 0) off k = numAt xs off k := by
  simp only [numAt, List.drop_append, List.drop_replicate, List.take_append, List.take_replicate, natOfBytes_zeros]
theorem groveSound_zeros (xs : List Byte) (n : Nat) (g : Grove) (l : Launch) : groveSound (xs ++ List.replicate n 0) g l = groveSound xs g l := by
  simp only [groveSound, zeroWords, numAt_zeros]
theorem readBytes_zeros {m : Memory} {a : Nat} (k n : Nat) (h : ∀ i, k ≤ i → i < k + n → readByte m (a + i) = 0) :
    readBytes m a (k + n) = readBytes m a k ++ List.replicate n 0 := by
  rw [readBytes, List.range_add, List.map_append, List.map_map, readBytes]
  congr 1
  refine List.eq_replicate_iff.mpr ⟨by simp, fun b hb => ?_⟩
  obtain ⟨i, hi, rfl⟩ := List.mem_map.mp hb
  exact h (k + i) (Nat.le_add_right k i) (by simpa using hi)
/-- What the images of the saved grove are read with. -/
def savedParts (s : State) : Option (Nat × Grove × Launch × Room) :=
  (s.resumeRoom grove0 0).bind fun x =>
    if (x.1.saveAt == some 0x100000 && x.1.saveDie == 0 && x.2.1.asid == 1 && x.2.1.imagePart + x.2.1.scratchBytes == 0x9000 && x.2.1.boughsPer == 1 &&
      groveSound (readBytes s.mem 0x100000 24) x.1 x.2.1 && boughSound (readPages s.mem 0x300000 226) x.1 x.2.1 0) then some (0, x) else none
theorem images_witness {s : State} (t : (s.die 0).tlb = [pageZero]) (p : s.poison = []) (c : 0 < s.moduleCount) (h : (savedParts s).isSome = true)
    (b : (s.bough? key0).any (fun b => b.status != .halted) = true) (z : ∀ i, 24 ≤ i → i < 24 + 36840 → readByte s.mem (0x100000 + i) = 0) :
    ∃ g l r gb bytes, s.resumeRoom grove0 0 = some (g, l, r) ∧ s.readImages grove0 g l = some (gb, [(0, bytes)]) := by
  unfold savedParts at h
  match hr : s.resumeRoom grove0 0 with
  | none => rw [hr] at h; cases h
  | some (g, l, r) =>
    rw [hr] at h
    simp only [Option.bind_some] at h
    split at h
    · rename_i hc
      simp only [Bool.and_eq_true, beq_iff_eq, readPages_eq] at hc
      obtain ⟨⟨⟨⟨⟨⟨h1, h2⟩, h3⟩, h4⟩, h5⟩, h6⟩, h7⟩ := hc
      rw [← groveSound_zeros _ 36840, ← readBytes_zeros 24 36840 z] at h6
      refine ⟨g, l, r, readBytes s.mem 0x100000 0x9000, readBytes s.mem 0x300000 0xE200, rfl, ?_⟩
      have e1 : (0x100000 : DWord).toNat = 0x100000 := rfl
      have live : ((s.bough? key0).map fun b => b.status != .halted).getD false = true := by
        cases hb : s.bough? key0 with
        | none => rw [hb] at b; cases b
        | some x => rw [hb] at b; exact b
      have live : s.liveBoughs grove0 l = [0] := by
        unfold State.liveBoughs
        rw [h5]
        show List.filter _ [0] = [0]
        exact List.filter_cons_of_pos live
      unfold State.readImages
      rw [h1, h2, h3, h4]
      dsimp only
      rw [show (0x100000 : DWord).toNat = 0x100000 from rfl, readVa_of_page t p c 0x100000 0x9000 (by omega), live]
      simp only [List.mapM_cons, List.mapM_nil, show boughArea 0x100000 0 = 0x300000 from rfl, readVa_of_page t p c 0x300000 0xE200 (by omega)]
      simp [Except.toOption, h6, h7]
    · cases h
theorem saved_zero (life : Status) (i : Nat) (h : 24 ≤ i) (h2 : i < 24 + 36840) : readByte (saved life).mem (0x100000 + i) = 0 := by
  have lookup (m : Memory) : (∀ c ∈ m, c.1 ≠ 0x100000 + i) → m.lookup (0x100000 + i) = none := by
    intro hm
    induction m with
    | nil => rfl
    | cons c m ih =>
      rw [List.lookup_cons, beq_false_of_ne (hm c (by simp)).symm]
      exact ih fun d hd => hm d (by simp [hd])
  have near : ∀ c ∈ (saved life).mem, c.1 < 0x100018 ∨ 0x300000 ≤ c.1 := by
    show ∀ c ∈ [(0x100000, 3), (0x100002, 1), (0x100010, 1), (0x300000, 3), (0x300001, 3)] ++ numCells 0x300440 8 (2 ^ 64 - 1), c.1 < 0x100018 ∨ 0x300000 ≤ c.1
    decide +kernel
  rw [readByte, lookup _ fun c hc e => by have := near c hc; omega]
  rfl
/-- PreEmption, its last clause: a stopped bough's image and its grove's. -/
theorem test_witness_resumption : ∃ g l r gb bytes,
    (saved (.stopped 10)).resumeRoom grove0 0 = some (g, l, r) ∧ (saved (.stopped 10)).readImages grove0 g l = some (gb, [(0, bytes)]) :=
  images_witness (by decide +kernel) (by decide +kernel) (by decide +kernel) (by decide +kernel) (by decide +kernel) (saved_zero _)
/-- A state whose die 0 holds the page, with no write on its way. -/
def Paged (s : State) : Prop := (s.die 0).tlb = [pageZero] ∧ s.writes = [] ∧ 0 < s.moduleCount ∧ s.copies = []
theorem page_of {s : State} (p : Paged s) {a : Nat} (h : a < 2 ^ 30) : s.pageOf 0 1 a = .ok pageZero := by
  unfold State.pageOf
  rw [p.1]
  simp only [List.find?_cons, pageZero]
  simp [show a < 1073741824 from h]
theorem write_of_page {s : State} (p : Paged s) {a : Nat} (h : a < 2 ^ 30) :
    s.xlate 0 1 .write a = .ok a ∧ s.pathCause 0 (paHome a) (some (paLocal a)) = none := by
  have hh : paHome a = 0 := by unfold paHome; omega
  refine ⟨?_, by rw [hh]; simp [State.pathCause, State.sentCause, State.reaches, State.trusted]⟩
  have h2 : a % 2 ^ 30 = a := Nat.mod_eq_of_lt h
  have h4 : s.paOk a = true := by
    have : a / 2 ^ 37 = 0 := Nat.div_eq_of_lt (by omega)
    simp only [State.paOk, hh, this, Bool.and_eq_true, decide_eq_true_eq, beq_iff_eq]
    exact ⟨⟨⟨by omega, trivial⟩, by decide⟩, by have := p.2.2.1; omega⟩
  unfold State.xlate
  rw [if_neg (by omega), page_of p h]
  simp only [pageZero, Nat.zero_add, h2, h4]
  rfl
theorem touch_of_page {s : State} (p : Paged s) {va n : Nat} (h : va + n ≤ 2 ^ 30) (h1 : 0 < va + n): s.touchRange 0 1 va n = s := by
  unfold State.touchRange
  have : ∀ xs : List Nat, xs.foldl (fun s i => s.touch 0 1 (min (va + i * 2 ^ 16) (va + n - 1))) s = s := by
    intro xs
    induction xs with
    | nil => rfl
    | cons x xs ih =>
      have : s.touch 0 1 (min (va + x * 2 ^ 16) (va + n - 1)) = s := by
        unfold State.touch
        rw [if_neg (by omega), page_of p (by omega)]
        simp [p.1]
      rw [List.foldl_cons, this, ih]
  exact this _
theorem page_of_clock {s : State} (p : Paged s) (d : Nat) (f : Die → List Nat) : Paged (s.onDie d fun x => { x with clock := f x }) := by
  refine ⟨?_, p.2.1, p.2.2⟩
  have : (s.onDie d fun x => { x with clock := f x }).die 0 = if d = 0 then { s.die 0 with clock := f (s.die 0) } else s.die 0 := by
    unfold State.onDie State.die
    dsimp only
    by_cases h : d = 0
    · subst h; rw [if_pos rfl, tgetD_tupd_self]
    · rw [if_neg h, tgetD_tupd_other _ _ _ _ _ (Ne.symm h)]
  rw [this]
  split <;> exact p.1
theorem page_of_clocks {s : State} (p : Paged s) (ds : List Nat) (f : Die → List Nat) :
    Paged (ds.foldl (fun t e => t.onDie e fun x => { x with clock := f x }) s) := by
  induction ds generalizing s with
  | nil => exact p
  | cons d ds ih => exact ih (page_of_clock p d f)
theorem setAll_of_page {s : State} (p : Paged s) (cs : List Host.Cell) : Paged (s.setAll cs) := by
  simp only [State.setAll, p.2.1]
  rw [show (cs.filter fun c => ([] : List (Nat × Write)).any fun w => (w.2.cells.lookup c.1).isSome) = [] by simp]
  exact p
theorem putEverywhere_of_page {s : State} (p : Paged s) (d : Nat) (cs : List Host.Cell) : Paged (s.putEverywhere d cs) := by
  have h0 : ∀ xs : List Nat, xs.foldl State.pushOut s = s := by
    intro xs
    induction xs with
    | nil => rfl
    | cons o xs ih =>
      have : s.pushOut o = s := by unfold State.pushOut; rw [p.2.1]; rfl
      rw [List.foldl_cons, this, ih]
  have h1 : ∀ (xs : List Nat) (t : State), Paged t → Paged (xs.foldl (fun t o => (diesBeside o).foldl (fun t e => t.onDie e fun x => { x with clock := clockTick x.clock o }) t) t) := by
    intro xs
    induction xs with
    | nil => intro t h; exact h
    | cons o xs ih => intro t h; rw [List.foldl_cons]; exact ih _ (page_of_clocks h (diesBeside o) fun x => clockTick x.clock o)
  have h2 := h1 ((cs.map fun c => if paHome c.1 / 32 = d / 32 then d else paHome c.1).eraseDups) _ (setAll_of_page p cs)
  rw [← h0 ((cs.map fun c => if paHome c.1 / 32 = d / 32 then d else paHome c.1).eraseDups)] at h2
  unfold State.putEverywhere
  rw [p.2.2.2]
  dsimp only [List.isEmpty_nil, if_true]
  rw [if_pos (by simp)]
  exact h2
theorem writeVa_of_page {s : State} (p : Paged s) (va : Nat) (bytes : List Byte) (h : va + bytes.length ≤ 2 ^ 30) (h1 : 0 < va) :
    ∃ t, s.writeVa 0 1 va bytes = .ok t ∧ Paged t := by
  have : ∀ xs : List (Byte × Nat), (∀ e ∈ xs, va + e.2 < 2 ^ 30) → ∃ cs, xs.foldr (fun e acc =>
      match s.xlate 0 1 .write (va + e.2) with
      | .error f => .error f
      | .ok pa =>
        match s.pathCause 0 (paHome pa) (some (paLocal pa)), acc with
        | some c, _ => .error (wayFault c pa)
        | none, .ok xs => .ok ((pa, e.1) :: xs)
        | none, .error f => .error f) (Except.ok []) = .ok cs := by
    intro xs hx
    induction xs with
    | nil => exact ⟨[], rfl⟩
    | cons e xs ih =>
      obtain ⟨cs, hc⟩ := ih fun j hj => hx j (by simp [hj])
      obtain ⟨a1, a2⟩ := write_of_page p (hx e (by simp))
      exact ⟨(va + e.2, e.1) :: cs, by rw [List.foldr_cons, hc, a1]; simp only [a2]⟩
  obtain ⟨cs, hc⟩ := this bytes.zipIdx fun e he => by
    have := List.snd_lt_of_mem_zipIdx he
    omega
  have : s.cellsVa 0 1 va bytes = .ok cs := hc
  refine ⟨s.putEverywhere 0 cs, ?_, putEverywhere_of_page p 0 cs⟩
  unfold State.writeVa
  rw [this]
  simp only [touch_of_page p h (by omega)]
theorem writeParts_of_page (at_ : Nat) (hat : 0 < at_) : ∀ (xs : List (Nat × List Byte)) (s : State), Paged s →
    (xs.all fun x => decide (at_ + x.1 + x.2.length ≤ 2 ^ 30)) = true →
    ∃ t, s.writeParts' 0 1 at_ xs = some t ∧ Paged t := by
  intro xs
  unfold State.writeParts'
  induction xs with
  | nil => intro s p _; exact ⟨s, rfl, p⟩
  | cons x xs ih =>
    intro s p h
    simp only [List.all_cons, Bool.and_eq_true, decide_eq_true_eq] at h
    obtain ⟨t, ht, pt⟩ := writeVa_of_page p (at_ + x.1) x.2 h.1 (by omega)
    obtain ⟨u, hu, pu⟩ := ih t pt h.2
    exact ⟨u, by rw [List.foldl_cons, Option.bind_some, ht]; exact hu, pu⟩
theorem writeImages_of_page {s : State} (p : Paged s) (k at_ : Nat) (g : Grove) (l : Launch) (b : Bough) (hg : g.saveDie = 0) (hl : l.asid = 1)
    (hb : l.boughsPer = 1) (hat : 0 < at_) (h : s.bough? (boughKey k 0) = some b) (live : b.status ≠ .halted)
    (f1 : ((groveImage g l).all fun x => decide (at_ + x.1 + x.2.length ≤ 2 ^ 30)) = true)
    (f2 : ((boughImage b g l b.stopBc (b.imageClock (s.die g.die).clock)).all fun x => decide (boughArea at_ 0 + x.1 + x.2.length ≤ 2 ^ 30)) = true) :
    (s.writeImages k g l at_).isSome = true := by
  obtain ⟨t, ht, pt⟩ := writeParts_of_page at_ hat _ s p f1
  obtain ⟨u, hu, _⟩ := writeParts_of_page (boughArea at_ 0) (by unfold boughArea; omega) _ t pt f2
  unfold State.writeImages
  rw [hg, hl, hb]
  dsimp only
  rw [ht]
  rw [show List.range 1 = [0] from rfl, List.foldl_cons, List.foldl_nil, h]
  dsimp only
  rw [if_neg (by simpa using live), Option.bind_some, hu, Option.isSome_some]
/-- PreEmption, its saving: images that are written, and an area that is no address. -/
def stopping (at_ : DWord) : State :=
  { (saved (.stopped 9)).onGrove grove0 fun g => { g with life := .stopping, saveAt := some at_ } with mem := [] }
theorem test_witness_saving : (∃ g b, theGrove (stopping 0x100000) = some g ∧ theBough (stopping 0x100000) = some b ∧
    ((stopping 0x100000).writeImages grove0 g { loadLaunch with header := smallHeader } 0x100000).isSome = true) ∧
    (theGrove (stopping (1 <<< 57))).any (fun g =>
      ((stopping (1 <<< 57)).writeImages grove0 g { loadLaunch with header := smallHeader } (2 ^ 57)).isNone) = true := by
  refine ⟨?_, by decide +kernel⟩
  have hg : (theGrove (stopping 0x100000)).isSome = true := by decide +kernel
  have hb : (theBough (stopping 0x100000)).isSome = true := by decide +kernel
  obtain ⟨g, hg⟩ := Option.isSome_iff_exists.mp hg
  obtain ⟨b, hb⟩ := Option.isSome_iff_exists.mp hb
  have all : ((theGrove (stopping 0x100000)).all fun g => g.saveDie == 0 && (groveImage g { loadLaunch with header := smallHeader }).all
      fun x => decide (0x100000 + x.1 + x.2.length ≤ 2 ^ 30)) = true := by decide +kernel
  have all' : ((theGrove (stopping 0x100000)).all fun g => (theBough (stopping 0x100000)).all fun b => b.status != .halted &&
      (boughImage b g { loadLaunch with header := smallHeader } b.stopBc (b.imageClock ((stopping 0x100000).die g.die).clock)).all
        fun x => decide (boughArea 0x100000 0 + x.1 + x.2.length ≤ 2 ^ 30)) = true := by decide +kernel
  rw [hg] at all all'
  rw [hb] at all'
  simp only [Option.all_some, Bool.and_eq_true, beq_iff_eq, bne_iff_ne] at all all'
  exact ⟨g, b, hg, hb, writeImages_of_page ⟨by decide +kernel, by decide +kernel, by decide +kernel⟩ _ _ _ _ b all.1 (by decide +kernel)
    (by decide +kernel) (by omega) hb all'.1 all.2 all'.2⟩
/-- A trace record whose page is there, and one whose page is not. -/
theorem test_witness_trace_writes : (((saved .halted).writeVa 0 1 0x10000 (bytesOfNat 32 1)).toOption).isSome = true ∧
    (((saved .halted).writeVa 0 2 0x10000 (bytesOfNat 32 1)).toOption).isNone = true := by decide +kernel
/-- FenceAndBeaconIssue: each under !p0; an index above the table and one below it; a length of 0 and one of s5. -/
theorem test_witness_idle : [Instr.fenceAcq { m0 .b with pr := 8 }, .fenceRel { m0 .h with pr := 8 }, .bpub { m0 .d with dt := 0x97, pr := 8 },
    .bld { m0 .d with dt := 0x91, pr := 8 }, .bseq { m0 .d with dt := 0xAF, pr := 8 }, .bpub { m0 .d with dt := 0x97, imm18 := 4096 },
    .bld { m0 .d with dt := 0x91, imm18 := 0x3FFFF }, .icinv (ks 5 0 31 0), .l1inv (m0 .b)].all issues = true ∧ uniformActs 8 = false ∧ uniformActs 0 = true ∧
    issues (.icinv (ks 5 6 31 0)) (fun b => { b with s := b.s.set 6 64 }) = true ∧
    ([4096, 0x3FFFF].all fun n : BitVec 18 =>
      let a : MSlot := { m0 .d with dt := 0x91, imm18 := n }
      (started (.bld a)).ctx?.any fun c => decide (((c.b.sreg a.sb.toNat).toNat : Int) + c.offset a = if n = 4096 then 4096 else -1)) = true := by
  decide +kernel
/-- TrapAtIssue: a transfer in a delay slot. -/
theorem test_witness_delay_slot : trapOf (.br (ks 0 0 1 0)) id (fun b => { b with dsLeft := 1 }) = some (none, none, false) ∧
    isTransfer (.br (ks 0 0 1 0)) = true ∧ ((poised (.br (ks 0 0 1 0)) fun b => { b with dsLeft := 1 }).bough? key0).any (fun b => b.dsLeft != 0) = true := by
  decide +kernel
/-- GlobalIssue, ldr: a line that the L1 holds, with no acquire of the bough outstanding and with one. -/
def withLine (ops : List (Nat × GOp)) : Bool :=
  let i := Instr.ldr (mkf .b)
  let s := { ((poised i).onCore 0 fun x => { x with l1 := [{ asid := 1, line := 0, bytes := List.replicate 128 7 }] }) with ops := ops, nextOp := 2 }.begin key0
    (decodeBundle (encode i))
  s.issuesTest i && s.ctx?.any fun c => ((s.core c.g.core).line? c.l.asid ((BitVec.ofInt 64 (c.laneAddr (mkf .b) 0)).toNat / 128)).isSome &&
    s.acquiring c.key == !ops.isEmpty
theorem test_witness_ldr : withLine [] = true ∧ withLine [(1, gop (.fence true false 2) [] [])] = true := by decide +kernel
/-- CopiesIssue: an operation that issues behind 32 copies of its bough, behind a fence, behind a copy that it cancels; refused, of no bytes. -/
def copyIssues (i : Instr) (copies : List (Nat × CopyOp)) (ops : List (Nat × GOp)) (f : Bough → Bough) (p : State → Ctx → Bool) : Bool :=
  let s := { poised i f with copies := copies, ops := ops, nextOp := 40 }.begin key0 (decodeBundle (encode i))
  s.issuesTest i && s.ctx?.any fun c => p s c
def manyCopies : List (Nat × CopyOp) := (List.range 32).map fun n => (n + 1, { copyOf .plain .waiting false with order := n + 1 })
def fullOf (s : State) (c : Ctx) : Bool := decide (32 ≤ (s.copies.filter fun e => e.2.bough == c.key && !e.2.preload).length)
/-- Shape registers of one row of 8 bytes at s6 and s7, and addresses of the own partition. -/
def shaped (b : Bough) : Bough := { b with s := ((b.s.set 2 0x2000000000000000).set 4 0x2000000000000100).set 6 0x80001 }
theorem test_witness_copy_issue :
    copyIssues (.cpy cs) manyCopies [] id fullOf = true ∧ copyIssues (.cpy cs) [] [] id (fun s c => !fullOf s c) = true ∧
    copyIssues (.cpy cs) [] [] shaped (fun s c => !fullOf s c && !s.heldByOp c.key 40 && (c.b.sreg 6).toNat % 2 ^ 16 == 1) = true ∧
    copyIssues (.cpy cs) [] [(1, gop (.fence true true 5) [] [])] shaped (fun s c => s.heldByOp c.key 40) = true ∧
    copyIssues (.cpyx { cs with src := 0, dstb := 0, shp := 0 }) manyCopies [] id fullOf = true ∧
    copyIssues (.cpyx { cs with src := 0, dstb := 0, shp := 6, loc := 2 }) [] [] (fun b => { b with s := b.s.set 6 (1 <<< 63) })
      (fun s c => !fullOf s c && !nameClean (c.b.sreg 6)) = true ∧
    copyIssues (.cpyx { cs with src := 0, dstb := 0, shp := 0 }) [(1, copyOf .plain .running false)] [] id (fun s c => !s.heldByOp c.key 40 &&
      (copyOf .plain .running false).cancelledBy (groveOf c.key) 0) = true ∧
    copyIssues (.cpyx { cs with src := 0, dstb := 0, shp := 0 }) [] [(1, gop (.fence true true 5) [] [])] id (fun s c => s.heldByOp c.key 40) = true ∧
    copyIssues (.tstamp { cs with src := 3, dstb := 0, shp := 0, tag := 255 }) manyCopies [] id fullOf = true ∧
    copyIssues (.tstamp { cs with src := 3, dstb := 0, shp := 0, tag := 255 }) [] [] id (fun s c => !fullOf s c) = true ∧
    copyIssues (.tstamp { cs with src := 3, dstb := 0, shp := 6, loc := 2, tag := 1 }) [] [] (fun b => { b with s := b.s.set 6 (1 <<< 63) })
      (fun s c => !fullOf s c && !nameClean (c.b.sreg 6)) = true := by decide +kernel
/-- MatrixIssue: an operation that enters its queue, and one that finds eight there. -/
theorem test_witness_matrix_issue : ([0, 8].all fun n =>
    let s := ((poised (.mma xs)).onCore 0 fun x => { x with mq := List.replicate n (matOf .mma none none none) }).begin key0 (decodeBundle (encode (.mma xs)))
    s.issuesTest (.mma xs) && s.ctx?.any fun c => ((s.core c.g.core).mq.filter fun y => !y.arrayEnd.any fun e => decide (e + 2 ≤ c.t)).length == n) = true := by
  decide +kernel
/-- ControlTransfers: a branch to the next address, and one elsewhere. -/
theorem test_witness_near : issues (.br (ks 0 0 1 0)) = true ∧ issues (.call (ks 5 0 1 0)) = true ∧ issues (.bri (ks 5 0 0 0)) = true ∧
    issues (.ret (ks 5 0 0 0)) = true ∧ issues (.calli (ks 5 6 0 0)) = true ∧ issues (.csrr (ks 5 0 0x030 0)) = true := by decide +kernel
/-- GlobalCompletions: a load of three registers in parts; an icinv of no bytes, of copies at a boundary, and of one that is not. -/
theorem test_witness_parts :
    outstanding (withOp (gop (.load 16 false) ((List.range 4).map fun i => { req 5 2 none with part := i }) [.vreg 6, .vreg 7, .vreg 8, .vreg 9])) (fun o _ _ _ =>
      decide (2 ≤ o.dests.length) && o.lanes.all fun r => r.stage == 2 && r.fault.isNone && decide (r.lane < 64)) = true ∧
    outstanding (withOp (gop (.atomg 0 true) [req 0 2 none] [.vreg 6, .vreg 7])) (fun o _ _ _ => decide (2 ≤ o.dests.length)) = true ∧
    outstanding (withOp (gop (.load 8 false) [{ req 5 2 (some (8, 0)) with part := 1 }] [.vreg 6, .vreg 7])) (fun _ _ _ _ => true) = true := by decide +kernel
/-- A core that holds a fetched copy of 0x10000 for the bough, in a stretch or not. -/
def icinvOf (len : DWord) (stretch : Option Nat) : Bool :=
  let o : GOp := { gop .icinv [] [] with arg1 := 0x10000, arg2 := len }
  let s := ((withOp o).onCore 0 fun x => { x with fetched := [{ bough := key0, asid := 1, va := 0x10000, word := 0 }] }).onBough key0 fun b => { b with stretchEnd := stretch }
  outstanding s fun o _ _ l => !l.replay && !s.heldByOp o.bough o.order && s.storesHome o.bough o.order &&
    (len == 0 || (s.core 0).fetched.all fun x => x.meets o.asid o.arg1.toNat o.arg2.toNat) && s.atBoundary key0 == stretch.isNone
theorem test_witness_icinv : icinvOf 0 none = true ∧ icinvOf 64 none = true ∧ icinvOf 64 (some 20) = true := by decide +kernel
/-- AccessesPerformed: no write of the bough's own that the die has yet to see. -/
theorem test_witness_own_seen : (paged (.load 4 false)).ownUnseen 0 key0 0x10100 = false ∧ (paged (.load 4 false)).heldByCopy key0 1 0x10100 = false := by
  decide +kernel
/-- CopiesRun: a copy that has written its row, with a fault and without, no write of it on its way; one cancelled; a cpyx that waited. -/
def movedFill (faults : List CopyFault) : CopyOp :=
  { copyOf .fill .running false with progress := { CopyProgress.start with rows := [{ row := 0, start := 0, bytes := List.replicate 8 (some 0) }],
                                                                           landed := [(0, 0), (0, 1)], faults := faults } }
theorem test_witness_copy_ends : ([[], [{ row := 0, at_ := 4, cause := (8, 0) }]].all fun fs => copyOut (movedFill fs) fun s =>
      (movedFill fs).moved loadLaunch && (movedFill fs).stuck loadLaunch == [] && decide ((movedFill fs).issued + 8 ≤ s.bc) && s.writes.isEmpty &&
        s.completionDie (movedFill fs) == some 0) = true ∧
    copyOut { copyOf .fill .running false with cancelled := true } (fun s => s.completionDie { copyOf .fill .running false with cancelled := true } == some 0) = true ∧
    copyOut { copyOf .fill .waiting false with cancelled := true } (fun s => s.completionDie { copyOf .fill .waiting false with cancelled := true } == some 0) = true ∧
    copyOut { copyOf .cancel .running false with awaits := [7] } (fun s => (tget s.copies 7).isNone) = true ∧
    copyOut (copyOf .plain .empty false) (fun s => decide (4 ≤ s.bc)) = true ∧ copyOut (copyOf .cancel .over false) (fun s => decide (4 ≤ s.bc)) = true ∧
    copyOut { copyOf .plain .waiting false with tag := 5 } (fun s => (tget (s.core 0).stamps 5).isNone) = true := by decide +kernel
/-- MatrixStages: a product that may see its operands, one that has; mtr.sp at its array and its end; one that halts. -/
theorem test_witness_matrix_more :
    matOut (matOf .mma (some 3) none none) = true ∧ (matOf .mma (some 3) none none).isProduct = true ∧ 2 + 3 ≤ loaded.bc ∧
    matOut { matOf .mscl (some 3) none none with seen := some [] } = true ∧ ({ matOf .mscl (some 3) none none with seen := some [] }).fetchBase ≤ 28 ∧
    matOut (matOf .mtrSp (some 3) none (some (readNothing []))) = true ∧ loaded.tileDue (matOf .mtrSp (some 3) none (some (readNothing []))) = false ∧
    matOut { matOf .mtrSp (some 3) (some 4) (some (readNothing [])) with early := some 5 } = true ∧
    matOut { matOf .mma (some 3) (some 4) (some (readNothing [])) with halt := some 40 } = true ∧ (40 : Nat) ≤ loaded.cc ∧
    (theGrove loaded).any (fun g => Memory.wf g.scratch) = true := by decide +kernel
/-- TimePasses: a core cycle with nothing due; one in which a bundle issues. -/
theorem test_witness_idle_cycle : (let s := loaded id fun b => { b with status := .halted, phase := none }
    (s.findBough s.stopDue).isNone && (s.findBough fun _ b _ => b.owesWriteback s.bc).isNone && (s.findBough fun _ b g => s.agingDue b g).isNone &&
      (takeDue s.cc s.frozen s.agenda).isNone && s.issuer.isNone) = true ∧ (poised (.add (v2 .i32))).issuer = some key0 := by decide +kernel
/-- RecordsAccepted: a record at a full queue with nothing of the host's before it. -/
theorem test_witness_full_queue : (let s := (withRecord 0).onModule 0 fun x => { x with queues := [(48, List.range 16)] }
    ((s.module 0).queue 48).length = 16 ∧ s.hostWritesOut 0 = false ∧ s.hostEarlier 1 0 = false ∧ (s.module 0).pstate ≠ 2) := by decide +kernel
/-- LinkTraffic: a copy owed on a link that no older entry owes, with room beyond it. -/
theorem test_witness_multicast : (let s := State.reset.onDie 0 fun x => { x with mcast := [(0, { flit := flitOf 1, cameBy := none, owed := [(dieLink0, [1])] })] }
    (s.die 0).olderOwed 0 dieLink0 = false ∧ s.mcastFits (linkDie (peerEnd dieLink0)) = true ∧ (s.die 0).mcastWait = []) := by decide +kernel
/-- LinkLight: a PARK of a group that wakes; an end that has woken. -/
theorem test_witness_waking : (let x : Link := { Link.initial with parked := 2, waking := 2, wakeFrom := some 5 }
    (2#4 &&& (~~~x.parked ||| (x.waking ||| (x.parked &&& ~~~2#4)))) ≠ 0 ∧ x.wakeFrom ≠ none) ∧ lctlOk 0x0000000000020001 = true := by decide
/-- SpdmExchange: an exchange without and with its key, not attesting; an end of a session of a module that is no member. -/
theorem test_witness_keyed : (let x : Session := { Session.none with stage := 8, keyed := true }
    ((sessionOf x).session 0 1).keyed = true ∧ 3 ≤ ((sessionOf x).session 0 1).stage) ∧
    (let x : Session := { Session.none with stage := 7 }; ((sessionOf x).session 0 1).keyed = false ∧ 3 ≤ ((sessionOf x).session 0 1).stage) ∧
    (let s := (sessionOf { Session.none with stage := 8, keyed := true }).onModule 1 fun m => { m with tstate := 0 }
     s.attesting 1 0 = false ∧ (s.session 0 1).keyed = true ∧ (s.module 1).domain = 0) := by decide +kernel
/-- TrustKeys: slots of the set and others; a member whose TCFG names another domain; a leader that writes TCFG with EN 1, and one that leaves. -/
theorem test_witness_rekey_slots : (3#64 &&& ~~~((inDomain none).module 0).slots) = 0 ∧ (7#64 &&& ~~~((inDomain none).module 0).slots) ≠ 0 ∧
    (let s := (inDomain none).onModule 1 fun m => { m with tcfg := 0x0002000000000101 }
     (s.module 1).tdom ≠ (s.module 1).domain ∧ s.leaderOf (s.module 1).domain = some 0 ∧ (s.module 0).rekey = none) ∧
    Module.initial.tstate ≠ 2 ∧ Module.initial.tstate ≠ 3 ∧ (inDomain none).leaderOf ((inDomain none).module 1).domain = some 0 ∧
    (inDomain none).leaderOf ((inDomain none).module 0).domain = some 0 := by decide +kernel
/-- ResetAndPower: FWADDR written before FWLEN and not. -/
theorem test_witness_firmware : Module.initial.fwGiven = false ∧ ({ Module.initial with fwGiven := true }).mstate = 0 := by decide
/-- HostAccess: a window write with nothing before it; one behind another of its module; a PARG in its range and one with a reserved bit. -/
theorem test_witness_window : loaded.windowHeld ((loaded.module 0).windowPa 0 0) = false ∧ loaded.writes = [] ∧
    (let w : Write := { sentWrite with bough := hostKey 0, order := 0 }; ∃ x ∈ [(1, w)], x.2.bough = hostKey 0 ∧ x.2.order = 0) ∧
    (0x10003 : DWord).toNat < 0x8000000000000 ∧ 0x8000000000000 ≤ (0x0008000000000000 : DWord).toNat ∧ ∀ c ∈ (loaded.module 0).commands, c.1 ≠ 0x10001 := by
  refine ⟨by decide +kernel, by decide +kernel, by decide +kernel, by decide, by decide, ?_⟩
  rw [show (loaded.module 0).commands = [] by decide +kernel]
  exact fun c h => nomatch h
/-- Uniform forms of one and of three sources. -/
def u1 (ty : Ty) : VSlot := { u2 ty with sb := 0 }
def u3 (ty : Ty) : VSlot := { u2 ty with sc := 0x94 }
/-- IntegerArithmetic: .u32, saturation, uniform forms, dot4 in bytes and in nibbles, pairs. -/
theorem test_witness_integers_more : [Instr.add (v2 .u32), .sub (v2 .u32), .mul { v2 .u32 with sat := true }, .mad { vs .u32 with sat := true },
    .min (v2 .u32), .max (v2 .u32), .abs { v1 .i32 with sat := true }, .neg { v1 .i32 with sat := true }, .absd (v2 .u32), .avg (v2 .u32),
    .shl { v2 .u32 with sat := true }, .add (u2 .i32), .mad (u3 .i32), .abs (u1 .i32), .shl (u2 .i32), .dot4 (vs .b4), .dot4 { vs .n8 with sat := true },
    .add (v2 .d), .sub (v2 .d), .min (v2 .d), .max (v2 .d)].all issues = true := by decide +kernel
/-- CarriesAndProducts and Comparison: .u32, uniform forms, pairs. -/
theorem test_witness_products_more : [Instr.mulhi (v2 .u32), .mulhi (u2 .u32), .mulw (v2 .u32), .mulw (u2 .i32), .div (v2 .u32), .div (u2 .u32), .rem (v2 .u32),
    .rem (u2 .i32), .cmp { v2 .u32 with dst := 7, imm9 := 2 }, .cmp { v2 .d with dst := 7, imm9 := 6 }].all issues = true := by decide +kernel
/-- FloatArithmetic: its other operations, on a value that each clause speaks of. -/
theorem test_witness_floats_more : [Instr.fmin (v2 .f32), .fmax (v2 .f32), .rcp (v1 .f32), .sqrt (v1 .f32), .rsq (v1 .f32), .exp2 (v1 .f32), .log2 (v1 .f32),
    .sin (v1 .f32), .cos (v1 .f32), .sincos (v1 .f32), .frnd (v1 .f32), .fscl (v2 .f32), .cvt { v1 .f32 with imm9 := 0 }, .cvt { v1 .i32 with imm9 := 2 },
    .fclass (v1 .f32), .fcmp { v2 .f32 with dst := 7, imm9 := 6 }, .fdot2 (vs .bf2), .fdot2 (vs .hf2)].all issues = true ∧
    issuesWith (oldRev 1) (.fexp (v1 .f32)) = true ∧ convSrc { v1 .f32 with imm9 := 0 } = .i32 ∧ convSrc { v1 .i32 with imm9 := 2 } = .f32 ∧
    nanWord 0x3F800000 = false ∧ nanWord 0x7FC00000 = true ∧ (valOf .fp32 0x40800000).number = some 4 ∧ (valOf .bf16 0x3F80).number = some 1 ∧
    (roundInt .rne 4).1 ≠ 0 := by decide +kernel
/-- PatternValues: bit fields, sub-elements, lane masks, groups of lanes, draws; items of width 1. -/
theorem test_witness_patterns : [Instr.bfe (v2 .i32), .bfe (u2 .u32), .bfe (v2 .d), .bfi (vs .i32), .bfi (u3 .i32), .bfi (vs .d), .extr { v1 .h2 with imm9 := 1 },
    .ins { v2 .h2 with imm9 := 1 }, .unpk { v2 .b4 with imm9 := 1 }, .pack { v2 .h2 with imm9 := 0 }, .pack { v2 .uh2 with imm9 := 1 },
    .cvt { v1 .i32 with imm9 := 1 }, .ballot (v1 .d), .ballot { v1 .u32 with imm9 := 0x100 }, .ballot { v1 .d with u := true, dst := 0x91 },
    .pcnt { v1 .u32 with imm9 := 0x100 }, .pcnt { v1 .u32 with u := true, dst := 0x91 }, .xcmpk { v2 .u32 with sb := 1 }, .xcmpk { v2 .d with sb := 1 },
    .xred { v1 .u32 with imm9 := 0x105 }, .xscan { v1 .i32 with imm9 := 8 }, .xseg (v2 .i32), .rng (v1 .u32), .rng (v1 .d),
    .rng { v1 .d with u := true, dst := 0x91, sa := 0x92 }].all issues = true ∧ issuesWith (oldRev 2) (.mulq (v2 .h2)) = true ∧
    ((started (.pcnt { v1 .u32 with imm9 := 0x100 })).ctx?.map fun c => c.width) = some 1 := by decide +kernel
/-- PhasesAndItems: the cause BIND for a bough in a per-lane call. -/
theorem test_witness_bind : (ks 0 0 0xFFFF 0x11).b.setWidth 8 = Cause.bind.code ∧
    (theBough (loaded id fun b => { b with tvec := 0x20000, vsite := 0x10000 })).any (fun b => !b.tstatIn && b.tvec != 0 && b.vsite != 0) = true := by
  decide +kernel
/-- CopiesRun: a fill whose data may start, one that has started, one whose last byte has landed, its tag stamped. -/
def notBegun : CopyOp := { copyOf .fill .running false with issued := 5, tag := 5 }
def fillBegun : CopyOp := { copyOf .fill .running false with issued := 5, progress := { CopyProgress.start with begun := true } }
def fillLanded : CopyOp := { movedFill [] with issued := 5, tag := 5, progress := { (movedFill []).progress with begun := true } }
theorem test_witness_copy_starts :
    copyOut notBegun (fun s => decide (s.bc < notBegun.issued + 8) && !notBegun.progress.begun && !notBegun.moved loadLaunch && s.mayBegin notBegun loadLaunch &&
      (tget (s.core 0).stamps (256 * 0 + 5)).isNone) = true ∧ (theGrove loaded).map (·.slot) = some 0 ∧
    copyOut fillBegun (fun s => decide (s.bc < fillBegun.issued + 8) && decide (fillBegun.dst.toNat % 2 ^ 20 + fillBegun.rlen ≤ loadLaunch.scratchBytes)) = true ∧
    fillBegun.progress = { CopyProgress.start with begun := true } := by decide +kernel
theorem test_witness_copy_landed :
    copyOut fillLanded (fun s => decide (s.bc < fillLanded.issued + 8) && fillLanded.progress.begun && !fillLanded.progress.landedAll && fillLanded.moved loadLaunch &&
      s.writes.isEmpty && fillLanded.progress.posted.isEmpty) = true ∧
    (let e : Stamp := { grove := grove0, t0 := 0, opw := none, cin := none, cmp := none, cout := none }
     tget ((loaded.onCore 0 fun x => { x with stamps := [(5, e)] }).core 0).stamps (256 * 0 + 5) = some e) := by decide +kernel
/-- MatrixStages: side lists that no copy owns; a chunk of real numbers; products of 64 columns, float and integer. -/
theorem test_witness_matrix_values : loaded.sidesHeld (matOf .mma (some 3) none none) crcGrove loadLaunch = false ∧
    (let ab : List (FVal × FVal) := [(valOf .fp32 0x40000000, valOf .fp32 0x40400000)]
     (∀ p ∈ ab.take 16, p.1.number ≠ none ∧ p.2.number ≠ none) ∧ (valOf .fp32 0x3F800000).number = some 1 ∧ (valOf .fp32 0x40C00000).number = some 6 ∧
       ((ab.take 16).map fun p => p.1.real * p.2.real).sum = 6) ∧
    (let x := { matOf .mma (some 3) (some 4) (some (readNothing [])) with fsa := ⟨2⟩, fsb := ⟨2⟩, fsc := ⟨0⟩ }; x.n = 64 ∧ x.isProduct = true ∧ x.integer = false) ∧
    (let x := { matOf .mma (some 3) (some 4) (some (readNothing [])) with fsa := ⟨0xA⟩, fsb := ⟨0xA⟩, fsc := ⟨8⟩ }
     x.n = 64 ∧ x.integer = true ∧ x.fsb.scale = 0 ∧ x.fsc.sat = false) := by decide +kernel
/-- RecordsAccepted: what is read of a record owned by no copy; a bough's record before a full queue. -/
theorem test_witness_records_more : (withRecord 0).judgeHeld 0 48 1 0x30000 = false ∧ (queued onePred).rangeOwned 0 1 0x5000 8 = false ∧
    (let s := ({ withOp (gop (.launch 48) [] []) with msgs := [(2, .submit 0 48 0x30000 1 1)] }).onModule 0 fun x => { x with queues := [(48, List.range 16)] }
     s.submitReady 2 0 1 = true ∧ ((s.module 0).queue 48).length = 16 ∧ tget s.launches 7 = none) ∧
    loadLaunch.supply ≠ [] := by decide +kernel
/-- LinkTraffic: the far end's boundary of a new set; a way on. LinkLight: a set not yet agreed, and one agreed whose boundary is next. -/
theorem test_witness_agreed :
    (let s := (State.reset.onLink (peerEnd port0) fun x => { x with control := [setNotice 0xD 4] }).onLink port0 fun x => { x with pendingSet := some (4, false) }
     (s.takeFlit (peerEnd port0)).1.kind = 2 ∧ (s.takeFlit (peerEnd port0)).1.body = setNotice 0xD 4 ∧ (s.link port0).pendingSet = some (4, false)) ∧
    ((State.reset.wayOn 32 (linkDie port0) 1).bind (·.head?)).isSome = true ∧
    (let x : Link := { Link.initial with parkWanted := some 0xE }
     x.pendingSet = none ∧ x.wakeFrom = none ∧ x.pauseTo = none ∧ x.active &&& ~~~0xE#4 &&& ~~~x.failed ≠ 0) ∧
    (let x : Link := { Link.initial with pendingSet := some (1, true) }; x.pendingSet = some (x.nextSeq, true) ∧ x.unacked = []) ∧
    (let x : Link := { Link.initial with pendingSet := some (9, true) }; (9 : BitVec 24) ≠ x.nextSeq) := by decide +kernel
/-- SpdmExchange: a requester whose chain the module can verify, or cannot, which is the surroundings' choice: the rest of each clause. -/
theorem test_witness_finish (p : Bool) (h : Config.slhVerify Config.vendorKey (Config.certificate 0) = p) :
    leaderKnown 0 = p ∧ (let x : Session := { Session.none with stage := 8, keyed := true }; ((sessionOf x).session 0 1).keyed = true) :=
  ⟨h, by decide +kernel⟩
/-- TrustKeys: a TSEQ at its limit with a re-key in progress; a module of no domain that writes TCFG. -/
theorem test_witness_exhaustion :
    (let s := (inDomain (some (rekeyOf true false))).onDie 0 fun d => { d with tseq := [(4 * (inDomain (some (rekeyOf true false))).sendEpoch 0 + 3, 2 ^ 53)] }
     2 ^ 53 ≤ tgetD (s.die 0).tseq (4 * s.sendEpoch 0 + 3) 0 ∧ (s.module 0).rekey ≠ none ∧ s.leaderOf (s.module (moduleOf 0)).domain = some 0) ∧
    Module.initial.domain = 0 := by decide +kernel
/-- GlobalCompletions: no bld or bseq of the bough before it. -/
theorem test_witness_table_read : (withOp (gop .bseq [] [.scalar 31])).tableRead (gop .bseq [] [.scalar 31]) = false := by decide +kernel
/-- ResultWriteback: no channel's word among the results. -/
theorem test_witness_no_word : (inFlight (.vreg 127) 9 true).isWord = false := by decide
/-- The placed instruction is the next that issues: the first step after reset puts its result, to v6 in the eight active lanes, in flight. -/
theorem test_first_step : (match step (State.reset.withFetchWord 256 (encode (.add (v2 .i32))).toNat) with
    | .next s => (theBough s).any fun b => b.results.map (fun r => (r.dest, r.act)) == [(.vreg 6, 0xFF)]
    | _ => false) = true := by decide +kernel

end Sys2Proof.Tests
end

/-!
Memory as its bytes (R1): what bytes and numbers written read back as, and that the canonical form has one memory for each
reading.
-/
namespace Sys2Proof.Machine

/-! ### Bytes written from an address up -/

theorem readByte_writeBytes (m : Memory) (a n : Nat) (xs : List Byte) (h : Memory.wf m = true) :
    readByte (writeBytes m a xs) n = if a ≤ n ∧ n < a + xs.length then xs.getD (n - a) 0 else readByte m n := by
  induction xs generalizing m a with
  | nil => rw [if_neg (by simp only [List.length_nil]; omega)]; rfl
  | cons x xs ih =>
    rw [writeBytes, ih _ _ (writeByte_wf m a x h), List.length_cons]
    by_cases hna : n = a
    · subst hna
      rw [if_neg (by omega), if_pos (by omega), readByte_writeByte_self _ _ _ h, Nat.sub_self, List.getD_cons_zero]
    · rw [readByte_writeByte_other _ _ _ _ h hna]
      by_cases hin : a + 1 ≤ n ∧ n < a + 1 + xs.length
      · rw [if_pos hin, if_pos (by omega), show n - a = n - (a + 1) + 1 by omega, List.getD_cons_succ]
      · rw [if_neg hin, if_neg (by omega)]

/-! ### Little-endian numbers -/

@[simp] theorem readNum_zero (m : Memory) (a : Nat) : readNum m a 0 = 0 := rfl

theorem readNum_succ (m : Memory) (a n : Nat) : readNum m a (n + 1) = (readByte m a).toNat + 256 * readNum m (a + 1) n := by
  simp only [readNum, readBytes, List.range_succ_eq_map, List.map_cons, List.map_map, natOfBytes, Nat.add_zero,
    Function.comp_def, Nat.succ_eq_add_one, Nat.add_assoc, Nat.add_comm 1]

@[simp] theorem length_bytesOfNat (n x : Nat) : (bytesOfNat n x).length = n := by
  induction n generalizing x with
  | zero => rfl
  | succ n ih => rw [bytesOfNat, List.length_cons, ih]

theorem readNum_writeBytes_bytesOfNat (m : Memory) (a n x : Nat) (h : Memory.wf m = true) :
    readNum (writeBytes m a (bytesOfNat n x)) a n = x % 2 ^ (8 * n) := by
  induction n generalizing m a x with
  | zero => rw [readNum_zero, Nat.mul_zero, Nat.pow_zero, Nat.mod_one]
  | succ n ih =>
    have low : readByte (writeBytes m a (bytesOfNat (n + 1) x)) a = BitVec.ofNat 8 x := by
      rw [readByte_writeBytes _ _ _ _ h, if_pos (by rw [length_bytesOfNat]; omega), Nat.sub_self]
      rfl
    have high : readNum (writeBytes m a (bytesOfNat (n + 1) x)) (a + 1) n = x / 256 % 2 ^ (8 * n) :=
      ih _ (a + 1) (x / 256) (writeByte_wf m a _ h)
    calc readNum (writeBytes m a (bytesOfNat (n + 1) x)) a (n + 1)
        = x % 256 + 256 * (x / 256 % 2 ^ (8 * n)) := by rw [readNum_succ, low, high, BitVec.toNat_ofNat]
      _ = x % (256 * 2 ^ (8 * n)) := Nat.mod_mul.symm
      _ = x % 2 ^ (8 * (n + 1)) := by rw [Nat.mul_succ, Nat.pow_add, Nat.mul_comm]

/-! ### One canonical memory for each reading -/

/-- The first listed byte reads as it is listed, which is not as an unlisted one. -/
theorem readByte_head_ne_zero {c : Host.Cell} {m : Memory} (h : Memory.wf (c :: m) = true) : readByte (c :: m) c.1 ≠ 0 := by
  rw [readByte_cons, if_pos rfl]
  exact ((memory_wf_cons c m).1 h).1

/-- Where two canonical memories read alike, neither begins below the other. -/
theorem memory_head_le {c d : Host.Cell} {m p : Memory} (hm : Memory.wf (c :: m) = true) (hp : Memory.wf (d :: p) = true)
    (h : ∀ a, readByte (c :: m) a = readByte (d :: p) a) : d.1 ≤ c.1 := by
  refine Nat.le_of_not_lt fun hlt => ?_
  obtain ⟨-, hbelow, -⟩ := (memory_wf_cons d p).1 hp
  refine readByte_head_ne_zero hm ((h c.1).trans (readByte_below _ _ fun e he => ?_))
  rcases List.mem_cons.1 he with rfl | he
  · omega
  · have := hbelow e he; omega

theorem memory_ext (m p : Memory) (hm : Memory.wf m = true) (hp : Memory.wf p = true) (h : ∀ a, readByte m a = readByte p a) :
    m = p := by
  induction m generalizing p with
  | nil =>
    cases p with
    | nil => rfl
    | cons d p => exact absurd (h d.1).symm (readByte_head_ne_zero hp)
  | cons c m ih =>
    cases p with
    | nil => exact absurd (h c.1) (readByte_head_ne_zero hm)
    | cons d p =>
      have haddr : c.1 = d.1 := Nat.le_antisymm (memory_head_le hp hm fun a => (h a).symm) (memory_head_le hm hp h)
      have hval : c.2 = d.2 := by simpa only [readByte_cons, haddr, if_true] using h c.1
      obtain ⟨-, hmbelow, hm⟩ := (memory_wf_cons c m).1 hm
      obtain ⟨-, hpbelow, hp⟩ := (memory_wf_cons d p).1 hp
      have htail : ∀ a, readByte m a = readByte p a := fun a => by
        by_cases ha : c.1 = a
        · rw [readByte_below m a (ha ▸ hmbelow), readByte_below p a (ha ▸ haddr ▸ hpbelow)]
        · simpa only [readByte_cons, ha, haddr ▸ ha, if_false] using h a
      rw [Prod.ext haddr hval, ih p hm hp htail]

/-- Settles O24: a write read back byte by byte, a number as its bytes, the canonical form kept, and its extensionality. -/
theorem memoryReadsBack : Obligations.MemoryReadsBack :=
  ⟨readByte_writeBytes, readNum_writeBytes_bytesOfNat, writeBytes_wf, memory_ext⟩

end Sys2Proof.Machine

/-!
A grove's scratchpad in a bough cycle with one act due: what each act leaves, no word holding a soft error (R129, R130, R208, R219).
-/
namespace Sys2Proof.Machine

/-! ### Cells written one after another -/

theorem readByte_writeCells (m : Memory) (cells : List Host.Cell) (n : Nat) (h : Memory.wf m = true) (hd : (cells.map (·.1)).Nodup) :
    readByte (writeCells m cells) n = (cells.lookup n).getD (readByte m n) := by
  induction cells generalizing m with
  | nil => rfl
  | cons c cells ih =>
    obtain ⟨hc, hd⟩ := List.nodup_cons.1 hd
    have rest : readByte (writeCells m (c :: cells)) n = (cells.lookup n).getD (readByte (writeByte m c.1 c.2) n) :=
      ih _ (writeByte_wf _ _ _ h) hd
    rw [rest, List.lookup_cons]
    by_cases hn : n = c.1
    · subst hn
      have : cells.lookup c.1 = none := List.lookup_eq_none_iff.2 fun e he => by
        simpa using fun heq : c.1 = e.1 => hc (List.mem_map.2 ⟨e, he, heq.symm⟩)
      rw [this, Option.getD_none, readByte_writeByte_self _ _ _ h, beq_self_eq_true]; rfl
    · rw [readByte_writeByte_other _ _ _ _ h hn, beq_false_of_ne hn]

/-- The cells of a number are its bytes from its address up. -/
theorem writeCells_numCells (m : Memory) (a n x : Nat) : writeCells m (numCells a n x) = writeBytes m a (bytesOfNat n x) := by
  have shifted : ∀ (xs : List Byte) (m : Memory) (k : Nat),
      writeCells m ((xs.zipIdx k).map fun e => (a + e.2, e.1)) = writeBytes m (a + k) xs := by
    intro xs
    induction xs with
    | nil => intros; rfl
    | cons x xs ih => intro m k; exact ih _ (k + 1)
  exact shifted _ m 0

/-! ### No soft error -/

theorem Grove.badBytes_of_clean {g : Grove} (h : g.scratchBad = []) (a n : Nat) : g.badBytes a n = false := by
  rw [Grove.badBytes, h]; rfl

theorem Grove.scratchWrite_clean {g : Grove} (h : g.scratchBad = []) (cells : List Host.Cell) : (g.scratchWrite cells).scratchBad = [] := by
  rw [Grove.scratchWrite, h]; rfl

/-! ### The one act of a bough cycle -/

/-- A grove whose acts due by bough cycle `n` are taken from its schedule. -/
def Grove.dropDue (g : Grove) (n : Nat) : Grove := { g with pipe := g.pipe.filter fun a => !decide (a.bc ≤ n) }

/-- The state as the acts of a grove find it. -/
def State.dropDue (s : State) (k : Nat) : State := s.onGrove k fun g => g.dropDue s.bc

theorem State.grove?_onGrove_some {s : State} {k : Nat} {g : Grove} (h : s.grove? k = some g) (f : Grove → Grove) :
    (s.onGrove k f).grove? k = some (f g) := by
  rw [State.grove?_onGrove_self, h, Option.map_some]

section
variable {s : State} {k : Nat} {g : Grove} {e : Timed}

theorem State.grove?_dropDue (h : s.grove? k = some g) :
    (s.dropDue k).grove? k = some (g.dropDue s.bc) := State.grove?_onGrove_some h _

theorem State.runActs_single (h : s.grove? k = some g) (hp : (g.pipe.filter fun x => decide (x.bc ≤ s.bc)) = [e]) :
    s.runActs k = ((s.dropDue k).actRead k e).actWrite k e := by
  simp only [State.runActs, h, hp]
  rfl

/-- A store reads nothing, and its cells are written. -/
theorem State.runActs_store {cells : List Host.Cell} (h : s.grove? k = some g)
    (hp : (g.pipe.filter fun x => decide (x.bc ≤ s.bc)) = [e]) (he : e.act = .store cells) :
    s.runActs k = (s.dropDue k).onGrove k fun g => g.scratchWrite cells := by
  simp only [State.runActs_single h hp, State.actRead, State.actWrite, State.grove?_dropDue h, he]

/-- A load writes nothing, and reads the scratchpad as it stands. -/
theorem State.runActs_load {bytes : Nat} {signed : Bool} {offs : List (Nat × Nat)} {dests : List Dest} {path : Path} {due : Nat}
    (h : s.grove? k = some g) (hp : (g.pipe.filter fun x => decide (x.bc ≤ s.bc)) = [e])
    (he : e.act = .load bytes signed offs dests path due) :
    s.runActs k = (s.dropDue k).actLoad k (g.dropDue s.bc) e bytes signed offs dests path due := by
  simp only [State.runActs_single h hp, State.actRead, State.actWrite, State.grove?_dropDue h, he]

/-- An atomic has its reads and its writes in its turn among the writes. -/
theorem State.runActs_atomic {sub : Nat} {wide : Bool} {lanes : List (Nat × Nat × DWord × DWord)} {dests : List Dest}
    (h : s.grove? k = some g) (hp : (g.pipe.filter fun x => decide (x.bc ≤ s.bc)) = [e]) (he : e.act = .atomic sub wide lanes dests) :
    s.runActs k = (s.dropDue k).actAtomic k e sub wide lanes dests := by
  simp only [State.runActs_single h hp, State.actRead, State.actWrite, State.grove?_dropDue h, he]

end

/-! ### Loads -/

/-- The word that a lane receives of an element of one register (R208). -/
def elementWord (bytes : Nat) (signed : Bool) (x : Nat) : Word :=
  if signed then BitVec.ofInt 32 (intVal (8 * bytes) true x) else BitVec.ofNat 32 x

/-- A result added to a bough is in flight. -/
theorem State.inFlight_addResult {s : State} {n : Nat} {b : Bough} (hb : s.bough? n = some b) (r : Result) :
    (s.onBough n fun b => b.addResult r).InFlight n r :=
  ⟨b.addResult r, by rw [State.bough?_onBough_self, hb, Option.map_some], (mem_insertResult _ _ _).2 (.inl rfl)⟩

/-- The result of a load of one register. -/
theorem loadResults_single (seq : Nat) (pc : DWord) (path : Path) (d : Dest) (bytes : Nat) (signed : Bool) (act : Mask) (val : Nat → Nat)
    (due : Nat) (byFlag : Bool) : ∃ r, loadResults seq pc path [d] bytes signed act val due byFlag = [r] ∧ r.dest = d ∧ r.due = due ∧
      r.path = path ∧ r.act = act ∧ ∀ l < 64, r.vals.toArray.getD l 0 = elementWord bytes signed (val l) := by
  refine ⟨_, rfl, rfl, rfl, rfl, rfl, fun l hl => ?_⟩
  simp [lanesFrom, loadWords, elementWord, hl]

/-- The pair found at a key that no other has. -/
theorem find?_fst_of_mem {α : Type} {xs : List (Nat × α)} (h : (xs.map (·.1)).Nodup) {x : Nat × α} (hx : x ∈ xs) :
    xs.find? (fun y => y.1 == x.1) = some x := by
  induction xs with
  | nil => cases hx
  | cons y xs ih =>
    obtain ⟨hy, h⟩ := List.nodup_cons.1 h
    rcases List.mem_cons.1 hx with rfl | hx
    · exact List.find?_cons_of_pos (beq_self_eq_true _)
    · have : y.1 ≠ x.1 := fun heq => hy (List.mem_map.2 ⟨x, hx, heq.symm⟩)
      rw [List.find?_cons_of_neg (by simpa using this), ih h hx]

/-- The result of a load of one register whose lanes are listed, each once: those lanes act, and each has its own value. -/
theorem loadResults_listed {α : Type} (seq : Nat) (pc : DWord) (path : Path) (d : Dest) (bytes : Nat) (signed : Bool) {xs : List (Nat × α)}
    (f : Nat × α → Nat) (due : Nat) (byFlag : Bool) (h : (xs.map (·.1)).Nodup) :
    ∃ r, loadResults seq pc path [d] bytes signed (maskOf fun l => xs.any fun x => x.1 == l)
        (fun l => ((xs.find? fun x => x.1 == l).map f).getD 0) due byFlag = [r] ∧ r.dest = d ∧ r.due = due ∧ r.path = path ∧
      (∀ l < 64, r.act.getLsbD l = (xs.map (·.1)).contains l) ∧
      ∀ x ∈ xs, x.1 < 64 → r.vals.toArray.getD x.1 0 = elementWord bytes signed (f x) := by
  obtain ⟨r, hr, hdest, hdue, hpath, hact, hvals⟩ := loadResults_single seq pc path d bytes signed
    (maskOf fun l => xs.any fun x => x.1 == l) (fun l => ((xs.find? fun x => x.1 == l).map f).getD 0) due byFlag
  refine ⟨r, hr, hdest, hdue, hpath, fun l hl => ?_, fun x hx hlt => ?_⟩
  · rw [hact, maskOf_getLsbD _ _ hl, List.contains_eq_any_beq, List.any_map]
    simp only [Function.comp_def, Bool.beq_comm]
  · rw [hvals _ hlt, find?_fst_of_mem h hx, Option.map_some, Option.getD_some]

/-- A load of one register that is no scalar adds one result to its bough and changes nothing else. -/
theorem State.actLoad_clean {g : Grove} (hg : g.scratchBad = []) {d : Dest} (hd : ∀ x, d ≠ .scalar x) (s : State) (k : Nat) (e : Timed)
    (bytes : Nat) (signed : Bool) (offs : List (Nat × Nat)) (path : Path) (due : Nat) :
    s.actLoad k g e bytes signed offs [d] path due = s.onBough (boughKey k e.bnum) fun b =>
      (loadResults e.seq e.pc path [d] bytes signed (maskOf fun l => offs.any fun x => x.1 == l)
        (fun l => ((offs.find? fun x => x.1 == l).map fun x => readNum g.scratch x.2 bytes).getD 0) due false).foldl Bough.addResult b := by
  have good : (offs.filter fun x => !g.badBytes x.2 bytes) = offs :=
    List.filter_eq_self.2 fun x _ => by rw [Grove.badBytes_of_clean hg]; rfl
  cases d with
  | scalar x => exact absurd rfl (hd x)
  | _ => simp only [State.actLoad, good, List.any_cons, List.any_nil, Bool.or_false, Bool.false_and, Bool.false_eq_true, if_false, if_true]

/-- That result is in flight, with each lane's element as the scratchpad holds it. -/
theorem State.actLoad_inFlight {s : State} {k : Nat} {g : Grove} {b : Bough} {e : Timed} (hb : s.bough? (boughKey k e.bnum) = some b)
    (hg : g.scratchBad = []) (bytes : Nat) (signed : Bool) {offs : List (Nat × Nat)} {d : Dest} (path : Path) (due : Nat)
    (hd : ∀ x, d ≠ .scalar x) (hoffs : (offs.map (·.1)).Nodup) (hlanes : ∀ x ∈ offs, x.1 < 64) :
    ∃ r, (s.actLoad k g e bytes signed offs [d] path due).InFlight (boughKey k e.bnum) r ∧ r.dest = d ∧ r.due = due ∧ r.path = path ∧
      (∀ l < 64, r.act.getLsbD l = (offs.map (·.1)).contains l) ∧
      ∀ x ∈ offs, r.vals.toArray.getD x.1 0 = elementWord bytes signed (readNum g.scratch x.2 bytes) := by
  obtain ⟨r, hr, hdest, hdue, hpath, hact, hvals⟩ := loadResults_listed e.seq e.pc path d bytes signed
    (fun x => readNum g.scratch x.2 bytes) due false hoffs
  refine ⟨r, ?_, hdest, hdue, hpath, hact, fun x hx => hvals x hx (hlanes x hx)⟩
  rw [State.actLoad_clean hg hd, hr]
  exact State.inFlight_addResult hb r

/-! ### Atomic adds on words -/

/-- A code and the integer it stands for differ by a multiple of the range. -/
theorem intVal_emod (w : Nat) (signed : Bool) (c : Nat) : intVal w signed c % (2 ^ w : Int) = c % (2 ^ w : Int) := by
  unfold intVal
  dsimp only
  split
  · rw [Int.sub_emod_right]; norm_cast; exact Nat.mod_mod _ _
  · norm_cast; exact Nat.mod_mod _ _

theorem intCode_add_intVal (w a b : Nat) : intCode w (intVal w true a + intVal w true b) = (a + b) % 2 ^ w := by
  rw [intCode, Int.add_emod, intVal_emod, intVal_emod, ← Int.add_emod]
  norm_cast

/-- A word of the scratchpad with a number added. -/
def Grove.addWord (g : Grove) (n x : Nat) : Grove := g.scratchWrite (numCells n 4 ((readNum g.scratch n 4 + x) % 2 ^ 32))

section
variable {g : Grove} (n x : Nat)

theorem Grove.addWord_scratch : (g.addWord n x).scratch = writeBytes g.scratch n (bytesOfNat 4 ((readNum g.scratch n 4 + x) % 2 ^ 32)) :=
  writeCells_numCells _ _ _ _

theorem Grove.addWord_clean (h : g.scratchBad = []) : (g.addWord n x).scratchBad = [] := Grove.scratchWrite_clean h _

theorem Grove.addWord_wf (h : Memory.wf g.scratch = true) : Memory.wf (g.addWord n x).scratch = true := by
  rw [Grove.addWord_scratch]; exact writeBytes_wf _ _ _ h

theorem Grove.readNum_addWord (h : Memory.wf g.scratch = true) :
    readNum (g.addWord n x).scratch n 4 = (readNum g.scratch n 4 + x) % 2 ^ 32 := by
  rw [Grove.addWord_scratch, readNum_writeBytes_bytesOfNat _ _ _ _ h, Nat.mod_mod]

theorem Grove.readByte_addWord_other (h : Memory.wf g.scratch = true) {j : Nat} (hj : j < n ∨ n + 4 ≤ j) :
    readByte (g.addWord n x).scratch j = readByte g.scratch j := by
  rw [Grove.addWord_scratch, readByte_writeBytes _ _ _ _ h, if_neg (by rw [length_bytesOfNat]; omega)]

end

/-- A lane of an atomic add reads the word and gives the sum (R219). -/
theorem atomLane_add {g : Grove} (h : g.scratchBad = []) (l n : Nat) {x : Nat} (hx : x < 2 ^ 32) :
    atomLane g 0 false (l, n, BitVec.ofNat 64 x, 0) = some (readNum g.scratch n 4, (readNum g.scratch n 4 + x) % 2 ^ 32, 0) := by
  have hdata : (BitVec.ofNat 64 x).toNat + (0 : DWord).toNat * 2 ^ 64 = x := by
    rw [BitVec.toNat_ofNat, Nat.mod_eq_of_lt (by omega)]; rfl
  simp only [atomLane, Grove.badBytes_of_clean h, hdata, atomOf, atomNew, Bool.false_eq_true, if_false]
  rw [intCode_add_intVal]

/-- Two lanes of an atomic add on one word: the second finds the sum of the first, and both old values are in flight. -/
theorem State.actAtomic_add_twice {s : State} {k : Nat} {g : Grove} {e : Timed} (hs : s.grove? k = some g) (hg : g.scratchBad = [])
    {l m n x y : Nat} (d : Dest) (hlm : l < m) (hm : m < 64) (hx : x < 2 ^ 32) (hy : y < 2 ^ 32) :
    ∃ r, s.actAtomic k e 0 false [(l, n, BitVec.ofNat 64 x, 0), (m, n, BitVec.ofNat 64 y, 0)] [d] =
        (s.onGrove k fun _ => (g.addWord n x).addWord n y).onBough (boughKey k e.bnum) (·.addResult r) ∧
      r.dest = d ∧ r.vals.toArray.getD l 0 = BitVec.ofNat 32 (readNum g.scratch n 4) ∧
      r.vals.toArray.getD m 0 = BitVec.ofNat 32 (readNum (g.addWord n x).scratch n 4) := by
  obtain ⟨r, hr, hdest, -, -, -, old⟩ := loadResults_listed e.seq e.pc .memory d 4 false (·.2) (e.bc + 1) false
    (xs := [(l, readNum g.scratch n 4), (m, readNum (g.addWord n x).scratch n 4)]) (by simp [Nat.ne_of_lt hlm])
  refine ⟨{ r with flags := 0 }, ?_, hdest, old _ List.mem_cons_self (by omega), old _ (List.mem_cons_of_mem _ List.mem_cons_self) hm⟩
  have first := atomLane_add hg l n hx
  have second := atomLane_add (Grove.addWord_clean n x hg) m n hy
  simp only [Grove.addWord] at first second hr ⊢
  simp only [State.actAtomic, hs, List.foldl_cons, List.foldl_nil, first, second, Bool.false_eq_true, if_false, List.nil_append,
    List.cons_append, hr, List.zipIdx_cons, List.zipIdx_nil, List.map_cons, List.map_nil, List.length_cons, List.length_nil, if_true]
  rfl

/-! ### The statement -/

/-- Settles O30: a store by its cells one after another, a load by its one result, and two lanes of an atomic add one after another. -/
theorem scratchpadActs : Obligations.ScratchpadActs := by
  intro s k g b e hg hb hp hbad hwf
  have hdrop := State.grove?_dropDue hg
  have hb : (s.dropDue k).bough? (boughKey k e.bnum) = some b := hb
  refine ⟨fun cells he hcells => ?store, fun bytes signed offs d path due he hd hoffs hlanes => ?load,
    fun l m n x y d he hlm hm hx hy => ?atomic⟩
  case store =>
    rw [State.runActs_store hg hp he]
    exact ⟨_, State.grove?_onGrove_some hdrop _, fun n => readByte_writeCells g.scratch cells n hwf hcells, rfl, rfl, hb, rfl⟩
  case load =>
    rw [State.runActs_load hg hp he]
    exact State.actLoad_inFlight hb hbad bytes signed path due hd hoffs hlanes
  case atomic =>
    obtain ⟨r, hact, hdest, hl, hm⟩ := State.actAtomic_add_twice (e := e) (n := n) hdrop hbad d hlm hm hx hy
    rw [State.runActs_atomic hg hp he, hact]
    have hwf : Memory.wf (g.dropDue s.bc).scratch = true := hwf
    have hwf' := Grove.addWord_wf n x hwf
    have hsum : readNum ((g.dropDue s.bc).addWord n x).scratch n 4 = (readNum g.scratch n 4 + x) % 2 ^ 32 := Grove.readNum_addWord n x hwf
    refine ⟨r, ((g.dropDue s.bc).addWord n x).addWord n y, State.inFlight_addResult hb r,
      (State.grove?_onBough ..).trans (State.grove?_onGrove_some hdrop _), hdest, hl, ?_, ?_, fun j hj => ?_⟩
    · rw [hm, hsum]
      exact BitVec.eq_of_toNat_eq (by simp only [BitVec.toNat_ofNat, Nat.mod_mod])
    · rw [Grove.readNum_addWord n y hwf', hsum, Nat.mod_add_mod]
    · rw [Grove.readByte_addWord_other n y hwf' hj, Grove.readByte_addWord_other n x hwf hj]; rfl

end Sys2Proof.Machine
